-- ==== Sys2Proof/Word.lean ====
section
/-! DEFINITION. The word types of the Umaon: the 64-bit data word, the type tag and the tagged word of R28 and Table 5-1,
and the sparse table every memory and every register array of the model is held in. -/

namespace Sys2Proof

/-- A 64-bit data word (R28). -/
abbrev W64 := BitVec 64

/-- A byte. -/
abbrev Byte := BitVec 8

/-- The 4-bit type tags of Table 5-1. -/
inductive Tag where
  | unwritten | int | bytes | flt | fixq | insn | capa | capb | poison
  /-- Codes 0x9 to 0xF (`k` + 9): never written by any operation (R214). -/
  | reserved (k : Fin 7)
  deriving DecidableEq, Repr

/-- A tagged word: 64 data bits and the tag that travels with them, read and written as a unit (R28, R30). -/
structure TWord where
  tag : Tag
  bits : W64
  deriving DecidableEq, Repr

/-- The word never written since power-up: data bits 0 (Table 5-1). -/
def TWord.unwritten : TWord := ⟨.unwritten, 0⟩

/-- A word tagged INT. -/
def TWord.int (b : W64) : TWord := ⟨.int, b⟩

/-- A POISON word (R221: a load of it gives bits 0). -/
def TWord.poison : TWord := ⟨.poison, 0⟩

/-- A sparse table: keys strictly rising, no entry equal to what an unlisted key reads as (the default that the
table's own accessor in `Machine/Ops.lean` names). Equal contents are equal lists. -/
abbrev Tbl (α : Type) := List (Nat × α)

end Sys2Proof
end

