-- ==== Sys2Proof/Machine/Bits.lean ====
section
/-! DEFINITION. Bit fields, saturating counts, byte order and the sparse tables' accessors. -/

namespace Sys2Proof.Machine

/-- Bits [lo + len - 1 : lo] of `v` (R7). -/
def fld (v lo len : Nat) : Nat := v / 2 ^ lo % 2 ^ len

/-- Bit `i` of `v`. -/
def bitOf (v i : Nat) : Bool := v / 2 ^ i % 2 == 1

def b2n (b : Bool) : Nat := if b then 1 else 0

/-- A register value built from its fields (low bit, value); the fields do not overlap. -/
def pack (fs : List (Nat × Nat)) : Nat := fs.foldl (fun a f => a + f.2 * 2 ^ f.1) 0

/-- `v` with bits [lo + len - 1 : lo] replaced by `x`. -/
def putBits (v : W64) (lo len x : Nat) : W64 :=
  (v &&& ~~~(BitVec.ofNat 64 ((2 ^ len - 1) * 2 ^ lo))) ||| BitVec.ofNat 64 (x % 2 ^ len * 2 ^ lo)

/-- A count that saturates at `mx`. -/
def satAdd (mx x n : Nat) : Nat := min mx (x + n)

/-- `x` rounded up to the next multiple of 1 when divided by `d`. -/
def ceilDiv (x d : Nat) : Nat := (x + d - 1) / d

/-- The signed value of the low `n` bits of `v`. -/
def signed (n v : Nat) : Int := if v % 2 ^ n < 2 ^ (n - 1) then (v % 2 ^ n : Nat) else ((v % 2 ^ n : Nat) : Int) - 2 ^ n

/-- The low `n` bits of an integer, as a number. -/
def wrap (n : Nat) (x : Int) : Nat := (x % (2 ^ n : Int)).toNat

/-- The `n` bytes of `v`, lowest first. [log 17 DEDUCED] -/
def bytesOf (n : Nat) (v : Nat) : List Byte := (List.range n).map fun i => BitVec.ofNat 8 (v / 2 ^ (8 * i))

/-- The number that bytes spell, lowest first. [log 17 DEDUCED] -/
def ofBytes : List Byte → Nat
  | [] => 0
  | b :: r => b.toNat + 256 * ofBytes r

/-- The number that bytes spell, highest first. -/
def ofBytesBE (l : List Byte) : Nat := l.foldl (fun a b => a * 256 + b.toNat) 0

/-- The order of the low `n` bits of `v` reversed. -/
def revBits (n v : Nat) : Nat := (List.range n).foldl (fun a i => a * 2 + v / 2 ^ i % 2) 0

/-- What key `k` of a table reads as; `d` is what an unlisted key reads as. [log 11 DESIGN CHOICE] -/
def tget {α : Type} (d : α) (t : Tbl α) (k : Nat) : α :=
  match t with
  | [] => d
  | (j, v) :: r => if j = k then v else tget d r k

/-- The table with key `k` added in its place; `k` is not listed. -/
def tins {α : Type} (k : Nat) (v : α) : Tbl α → Tbl α
  | [] => [(k, v)]
  | (j, w) :: r => if k < j then (k, v) :: (j, w) :: r else (j, w) :: tins k v r

/-- The table without key `k`. -/
def tdel {α : Type} (k : Nat) : Tbl α → Tbl α
  | [] => []
  | (j, w) :: r => if j = k then tdel k r else (j, w) :: tdel k r

/-- Write `v` at key `k`; a value equal to the default leaves the key unlisted. [log 11 DESIGN CHOICE] -/
def tset {α : Type} [DecidableEq α] (d : α) (t : Tbl α) (k : Nat) (v : α) : Tbl α :=
  if v = d then tdel k t else tins k v (tdel k t)

/-- Change what key `k` holds. -/
def tmod {α : Type} [DecidableEq α] (d : α) (t : Tbl α) (k : Nat) (f : α → α) : Tbl α :=
  tset d t k (f (tget d t k))

/-- The table without the keys from `lo` up to but not including `hi`. -/
def tclr {α : Type} (t : Tbl α) (lo hi : Nat) : Tbl α := t.filter fun e => decide (e.1 < lo ∨ hi ≤ e.1)

/-- The canonical form: keys strictly rising and no entry equal to the default. -/
def twf {α : Type} [DecidableEq α] (d : α) : Tbl α → Bool
  | [] => true
  | [(_, v)] => decide (v ≠ d)
  | (j, v) :: (k, w) :: r => decide (j < k) && decide (v ≠ d) && twf d ((k, w) :: r)

/-- Fields of a 64-bit word. -/
def wf (v : W64) (lo len : Nat) : Nat := fld v.toNat lo len

def w64 (n : Nat) : W64 := BitVec.ofNat 64 n

end Sys2Proof.Machine
end

