-- ==== Sys2Proof/Syntax.lean ====
section
/-! DEFINITION. The commands of the Umaon: one constructor per row of spec/opcode_table.json, with the operands the
rules give it, and the types its operands are made of. -/

namespace Sys2Proof

/-- Which clock a lost edge or lock belongs to (R59): the root, the RC reference, or the PLL's report. -/
inductive EdgeLoss where
  | root | rc | pll
  deriving DecidableEq, Repr

/-- The three tandems (R14, Table 1-1). -/
inductive Tandem where
  | a | b | g
  deriving DecidableEq, Repr

/-- One of two like things lettered A and B: CAN controllers, xSPI ports, image slots, DRAM channels, emergency-stop
channels, safe outputs. -/
inductive Side where
  | a | b
  deriving DecidableEq, Repr

abbrev Reg := Fin 32
abbrev CReg := Fin 16
abbrev FReg := Fin 16

/-- The address operand of a data access: format M (OFF13) or format MX (gi × 2^SC), R287. -/
inductive MemAddr where
  | imm (off : BitVec 13)
  | idx (gi : Reg) (sc : BitVec 2)
  deriving DecidableEq, Repr

/-- The short operations of Table 6-4. -/
inductive ShortOp where
  | nop
  | mov (gd gs : Reg) | add (gd gs : Reg) | sub (gd gs : Reg)
  | and (gd gs : Reg) | or (gd gs : Reg) | xor (gd gs : Reg) | sll (gd gs : Reg)
  | addi (gd : Reg) (imm : BitVec 6) | movi (gd : Reg) (imm : BitVec 6)
  | slli (gd : Reg) (sh : BitVec 6) | srli (gd : Reg) (sh : BitVec 6) | srai (gd : Reg) (sh : BitVec 6)
  | cmov (cd cs : CReg) | cinci (cd : CReg) (imm : BitVec 7)
  deriving DecidableEq, Repr

/-- Floating-point precision: P = 0 binary64, P = 1 binary32 (R347). -/
inductive FPrec where
  | f64 | f32
  deriving DecidableEq, Repr

/-- The rounding-mode codes of R348 that are not reserved: RM 0 to 4, and RM 7, the mode held in FCSR.RM. -/
inductive RM where
  | rne | rtz | rdn | rup | rmm | dyn
  deriving DecidableEq, Repr

/-- What EXCEPTION_ENTRY delivers: a fault that the word's own command does not carry. -/
inductive ExcCause where
  /-- The order-1 faults of the word at PCC (Table 6-11, R220, R424), which the state decides. -/
  | fetch
  /-- An uncorrectable error in the word at PCC itself (R319), in memory group `group` of IRT_ECC. -/
  | eccFetch (group : Fin 8)
  /-- An uncorrectable error in the data that the word at PCC reads or fills at virtual address `va` (R258, R588). -/
  | eccData (va : BitVec 44) (group : Fin 8)
  /-- An uncorrectable error in a saved-state register (R457), met by an ERET through `cs`, or by a SYSRD. -/
  | eccSaved (cs : Option CReg)
  /-- An uncorrectable error in unified TLB entry `index`, met by a lookup for `va` or by a TLB instruction (R534). -/
  | eccTlb (index : Fin 128) (va : BitVec 44)
  /-- An uncorrectable error in the context bank, met by the swap of R490 (R498). -/
  | eccBank
  deriving DecidableEq, Repr

/-- The outcome of a DRAM channel's initialisation: none, or the failing step 1 to 5 of DRC_STAT.FAIL (R567). -/
abbrev InitFail := Option (Fin 5)

/-- Memories with scrub passes (Table 14-2): the groomer's, then the patrol's. -/
inductive ScrubMem where
  | sram | dram (ch : Side) | spenik
  | tcm | l1 (m : Side) | l2 | tlb (m : Side)
  deriving DecidableEq, Repr

/-- The patrol scrubs the memory (Table 14-2). -/
def ScrubMem.patrols : ScrubMem → Bool
  | .tcm | .l1 _ | .l2 | .tlb _ => true
  | _ => false

/-- How a macro write to a word of a frame goes (R658, Table 14-1): its read-back is right, after up to two repeats; or the
third attempt fails too, and each spare in turn that takes the frame, but for the last, fails three times at the word named. -/
inductive Verify where
  | good (repeats : Fin 3)
  | failed (spares : List (Fin 512))
  deriving DecidableEq, Repr

/-- Where a scrub pass finds an error: at a physical address (of a TLB: 8 times the entry's index), or in a word of the 8 frames
of a metadata copy (R653, Table 14-2). -/
inductive ScrubAt where
  | addr (a : BitVec 40)
  | metadata (copy : Side) (w : Fin 4096)
  deriving DecidableEq, Repr

/-- An error that a scrub pass finds: its place, the number of wrong bits (1, 2 or 3), whether the word has been written since
the scrub read it (R584), and how the write of a correction into the Spenik store goes (R658). -/
structure ScrubHit where
  place : ScrubAt
  bits : Fin 4
  late : Bool
  verify : Verify
  deriving DecidableEq, Repr

/-- A frame that a Spenik pass refreshes (R662): its words that an apply meets, which the refresh skips (Table 14-8), and the
word whose write fails verify, if one does, with how the retirement goes (Table 14-1). -/
structure WeakFrame where
  frame : Fin 16384
  applied : List (Fin 512)
  fails : Option (Fin 512 × List (Fin 512))
  deriving DecidableEq, Repr

/-- How the copy of a move into its target goes: the writes repeated with success, and the word at which the third attempt
failed, if one did (R657, R658, Table 14-8). -/
structure MoveCopy where
  repeats : Nat
  fails : Option (Fin 512)
  deriving DecidableEq, Repr

/-- The reading of an ageing monitor at an evaluation: outside its valid range, or its value in ppm (R663, R677). -/
inductive Monitor where
  | failed
  | ppm (v : BitVec 24)
  deriving DecidableEq, Repr

/-- A rail outside Table 2-5, by its place in the table: below its band, or above it. -/
structure RailTrip where
  rail : Fin 7
  below : Bool
  deriving DecidableEq, Repr

/-- The channel registers whose write Table 15-6 orders against a count event of the same cycle. -/
inductive ChanReg where
  | load | reload | cmp
  deriving DecidableEq, Repr

/-- A write that the counter array accepts in the cycle of a count event. -/
structure ChanWrite where
  who : Tandem
  n : Fin 32
  reg : ChanReg
  val : BitVec 32
  deriving DecidableEq, Repr

/-- One cycle of the counter array: the channels whose PINA rises, those whose PINA falls (a TIMER channel whose prescaler
steps stands in either), and a write accepted in that cycle (Tables 15-1 and 15-6). -/
structure CountCycle where
  rising : BitVec 32
  falling : BitVec 32
  write : Option ChanWrite
  deriving DecidableEq, Repr

/-- What a PIO bank's supply is found to be (R702, R934): about 1.8 V, about 3.3 V, or below 1.5 V, which agrees with
neither. -/
inductive BankSense where
  | v18 | v33 | none
  deriving DecidableEq, Repr

/-- One half of a diagnostic mechanism: the patrol tests the halves apart (R86). -/
structure MechHalf where
  mech : Byte
  half : Fin 2
  deriving DecidableEq, Repr

/-- What a recovery finds wrong in the log (R641, R642): a word whose write by the replay goes so (R658); an uncorrectable
entry of a word; a block of a tandem's epoch, counted from 0, neither of whose header copies can be read; a tandem whose
newest epoch has no readable mark. -/
inductive LedgerBad where
  | verify (word : Nat) (how : Verify)
  | entry (word : Nat)
  | unplaced (t : Tandem) (num : BitVec 48) (block : Nat)
  | mark (t : Tandem)
  deriving DecidableEq, Repr

/-- The warden's run-out record: DURUS, the microseconds from the trip to the end of its writing, and the slots whose write
fails verify before one takes it (Tables 13-8 and 14-1). -/
structure RunOutIn where
  durus : BitVec 16
  fails : Nat
  deriving DecidableEq, Repr

/-- The bit-level CAN errors counted in CAN_ERRC (R783). -/
inductive CanErr where
  | bit | stuff | form | crc | ack
  deriving DecidableEq, Repr

/-- A CAN frame on the bus (R782). `data` holds the data bytes its DLC gives. -/
structure CanFrame where
  ide : Bool
  id : BitVec 29
  fdf : Bool
  brs : Bool
  esi : Bool
  rtr : Bool
  dlc : BitVec 4
  data : List Byte
  deriving DecidableEq, Repr

/-- The two USB devices of the compound device (R737). -/
inductive UsbDev where
  | hub | fn
  deriving DecidableEq, Repr

/-- The fields of a SETUP packet but for bRequest. -/
structure Setup where
  bmRequestType : Byte
  wValue : BitVec 16
  wIndex : BitVec 16
  wLength : BitVec 16
  deriving DecidableEq, Repr

/-- The data packet of a SETUP transaction: a request's 8 bytes, or a packet of more than 64 bytes (R767). -/
inductive SetupPkt where
  | fields (w : Setup)
  | long
  deriving DecidableEq, Repr

/-- Speed of a downstream device. -/
inductive UsbSpeed where
  | low | full | high
  deriving DecidableEq, Repr

/-- The result of a translator transaction on the downstream bus (R748). -/
inductive TtResult where
  | ack | nak | stall | data (d : List Byte) | err
  deriving DecidableEq, Repr

/-- What a field request carries besides its command code (ISO/IEC 15693 request flags as Table 18-1 uses them). -/
structure NfcReq where
  /-- Data_rate_flag 1 and Sub-carrier_flag 0: the one coding that is answered. -/
  codingOk : Bool
  /-- Addressed with this island's UID, addressed with another UID, selected, or neither. -/
  addressed : Option Bool
  selectFlag : Bool
  optionFlag : Bool
  extFlag : Bool
  /-- The frame length is right for the command. -/
  lengthOk : Bool
  /-- Blocks of the host command under way that have been served when the request is decoded (R836, R837). -/
  served : Nat
  deriving DecidableEq, Repr

/-- The mask length of an inventory, and for one of 16 slots the slot that is asked (Table 18-1). -/
structure InvMask where
  len : Fin 65
  slot : Option (Fin 16)
  deriving DecidableEq, Repr

/-- How the programming of a field write goes: well, with a block that fails its verify (R846), or cut off by the loss of the
field after a number of blocks (Table 18-8). -/
inductive NfcProg where
  | ok
  | verifyFail
  | fieldLost (blocks : Nat)
  deriving DecidableEq, Repr

/-- What one mirror of tandem G writes into the tag store: the identity region, the life record, or one slot of the fault ring
with the index block (R829 to R832); or, as at each release, every slot whose RECNO differs from the warden ring's. -/
inductive Mirror where
  | identity | life
  | slot (i : Fin 256)
  | ring
  deriving DecidableEq, Repr

/-- Arguments of a console verb as R858 spells them: words already split at spaces, characters as codes. -/
abbrev Text := List Char

/-- An error that fuse load finds in a row (R135): a single wrong bit, which is corrected, or an uncorrectable one. -/
structure FuseErr where
  row : Fin 128
  uncorrectable : Bool
  deriving DecidableEq, Repr

/-- What the fuse bank and the flash do while a console line executes: fuse bits that fail to blow (R874); a flash command
that times out, and flash bytes that come out otherwise than programmed (R875); sectors of the erase under way that are
done. -/
structure ConEnv where
  blowFail : W64
  flashTimeout : Bool
  flashOdd : List (Nat × Byte)
  erased : Nat
  deriving DecidableEq, Repr

/-- The commands. A command on a tandem's instruction names the tandem it reaches (`t` any tandem, `m` main tandems A and B,
for instructions that R277, R470 and R509 reserve on tandem G); a register write carries the initiator and the value. -/
inductive Instr where
  /-- POWER_GOOD (R116): The warden declares power-good once all seven rails have been in band and the crystal has given
  4,096 edges for 1 ms, and fuse load begins. -/
  | powerGood
  /-- POWER_RESET (R62): VDD_AON leaves its limits, so both safe outputs are de-energised and the Umaon is held in power
  reset until the rail has held for 1 ms (T11). -/
  | powerReset
  /-- FUSE_LOAD_END (R118): Fuse load ends, and tandem G, the first patrol sweep, the test pulses, ledger recovery and UART
  discarding all start. -/
  | fuseLoadEnd (errs : List FuseErr) (metaBad : Fin 3)
  /-- SLOT_HEADER_CHECK (R120): The gatehouse reads and checks both 16-byte slot headers and chooses the slot with the
  higher SEQ to try first. -/
  | slotHeaderCheck (failA failB : Bool)
  /-- IMAGE_VERIFY (R123): The chosen slot is read, hashed and its ECDSA signature checked, and the records are parsed; on
  failure the other slot is tried. -/
  | imageVerify (readFail : Bool)
  /-- APPLY_RECORDS (R129): The gatehouse applies the option records in the order of Table 3-4 (gatehouse step 5). -/
  | applyRecords (dramA dramB : InitFail) (xspiA xspiB : Bool)
  /-- LOAD_RECORDS (R130): Each LOAD record copies flash bytes into SRAM or DRAM with the stated tag and checks its digest
  (gatehouse step 6). -/
  | loadRecords (misread : Option (Fin 16))
  /-- LEDGER_RECOVERY_END (R630): Ledger recovery replays every epoch with a valid mark, discards the rest, frees all epochs
  and loads SPK_EPOCH and SPK_RECOV. -/
  | ledgerRecoveryEnd (bad : List LedgerBad) (us : BitVec 16)
  /-- RELEASE (R137): After step 6, ledger recovery and 20 ms have all passed, the gatehouse decides the outcome, and the
  events of Table 3-7 occur in one cycle. -/
  | release
  /-- NFCMAKER_MIRROR (R833): Within 1 s of release, tandem G writes the NFCMAKER bytes into the maker area of the tag store. -/
  | nfcmakerMirror
  /-- PRE_RELEASE_CHARACTER (R148): A UART character received before release is discarded and counted in GATE_PRE. -/
  | preReleaseCharacter (uart : Fin 4) (ch : Option Byte)
  /-- LOCKSTEP_MISMATCH (R54): A comparator half finds the two cores of a tandem differing, and the mismatch reaches the
  warden as LSA, LSB or LSG. -/
  | lockstepMismatch (t : Tandem)
  /-- CAN_TX_COMPARE_MISMATCH (R803): The transmit comparator finds the frames built by the two cores differing, so the
  frame is withheld and the controller enters MONITOR with CMPHOLD set. -/
  | canTxCompareMismatch (c : Side) (m : Fin 32)
  /-- FREQUENCY_MONITOR_WINDOW (R59): At the end of each 2 µs window, the frequency monitor compares its edge counts with
  nominal and declares CLK when either departs by more than 3.8 %. -/
  | frequencyMonitorWindow (fab rc : BitVec 16)
  /-- CLOCK_EDGE_LOSS (R59): Either clock giving no edge for 1 µs, or the PLL reporting loss of lock, is a clock detection. -/
  | clockEdgeLoss (which : EdgeLoss)
  /-- RC_REFERENCE_STOPPED (R104): The root-side monitor sees no RC edge for 1 µs, forces both safe outputs low, holds
  tandems A and B in reset and clears ROOTGOOD. -/
  | rcReferenceStopped
  /-- SUPPLY_OUT_OF_LIMITS (R60): A supply monitor finds a rail outside Table 2-5 and reports SUPPLY. -/
  | supplyOutOfLimits (rail : RailTrip)
  /-- OVER_TEMPERATURE (R942): A die-temperature comparator trips and reports OTEMP to the warden. -/
  | overTemperature (cmp : Fin 2)
  /-- LANE_DISAGREEMENT (R58): The two warden lanes disagree for 2 RC cycles, which is detection WCHAN. -/
  | laneDisagreement
  /-- WARDEN_DECISION (R60): The warden takes the most severe reaction among the detections that arrive in one RC cycle, and
  updates WRD_DET, WRD_FREC and FAULTS. -/
  | wardenDecision
  /-- WATCHDOG_SERVICE (R65): A write to WRD_WDSVC_n is judged against the window and the expected value, and either
  restarts the watchdog or raises a watchdog detection. -/
  | watchdogService (who t : Tandem) (val : BitVec 32)
  /-- WATCHDOG_EXPIRY (R67): A watchdog reaches CLOSE without a valid service and raises WDA, WDB or WDG. -/
  | watchdogExpiry (t : Tandem)
  /-- WATCHDOG_CONFIG_WRITE (R91): A write of OPEN and CLOSE to WRD_WDCFG_n by the owning tandem, which takes effect at the
  next valid service. -/
  | watchdogConfigWrite (who t : Tandem) (val : BitVec 32)
  /-- WATCHDOG_LOCK (R91): A write of 1 to WRD_WDCFG_n.LOCK makes the register ignore writes until the owning tandem is
  reset. -/
  | watchdogLock (who t : Tandem) (val : BitVec 32)
  /-- SAFE_OUTPUT_HALF_PERIOD (R71): A half-period of the safe-output toggle ends, and SAFE_OK_A and SAFE_OK_B change level
  in complement. -/
  | safeOutputHalfPeriod
  /-- SAFE_OUTPUT_READBACK_MISMATCH (R74): Two consecutive readback samples of a safe output disagree with the commanded
  level, which is detection SOREAD. -/
  | safeOutputReadbackMismatch (out : Side)
  /-- TEST_PULSE_START (R75): The warden pulls ESTOP_TA or ESTOP_TB low to start a test pulse of width TPW. -/
  | testPulseStart (ch : Side)
  /-- TEST_PULSE_END (R75): A test pulse ends and the test output returns high. -/
  | testPulseEnd (ch : Side)
  /-- ESTOP_CHANNEL_CHANGE (R76): An emergency-stop channel changes state after 20 agreeing samples, which may raise or
  clear a demand. -/
  | estopChannelChange (ch : Side) (closed : Bool)
  /-- ESTOP_PULSE_ERROR (R78): A channel reading high during its own test pulse, or the other channel going low, is
  detection ESPULSE. -/
  | estopPulseError (ch : Side)
  /-- ESTOP_DISCREPANCY (R79): One channel reading open and the other closed for longer than DISC is detection ESDISC. -/
  | estopDiscrepancy
  /-- REARM (R81): A write of 1 to WRD_SAFE.REARM clears LATCHED and SWSTOP when no demand or fault is present and the mode
  is RUN or REDUCED. -/
  | rearm (who : Tandem)
  /-- SWSTOP (R82): A write of 1 to WRD_SAFE.SWSTOP de-energises both safe outputs and sets LATCHED with HOLD 2. -/
  | swstop (who : Tandem)
  /-- PATROL_TEST (R87): The patrol injects a pattern into one half of a mechanism at its scheduled offset, and the warden
  checks the expected detection. -/
  | patrolTest (part : MechHalf) (good : Bool)
  /-- PATROL_SWEEP_END (R86): A 1,800 ms patrol sweep ends and the next sweep starts, with FIRST set after the first good
  sweep. -/
  | patrolSweepEnd
  /-- PATROL_OVERRUN (R88): A sweep or a test interval exceeding 1,900 ms is detection PATROL with detail 0xFF. -/
  | patrolOverrun
  /-- PATROL_PAUSE_WRITE (R89): A write of WRD_PCTL.PAUSE pauses or resumes the patrol, and is accepted only in SERVICE. -/
  | patrolPauseWrite (who : Tandem) (val : BitVec 32)
  /-- PATROL_INJECT_WRITE (R89): A write of WRD_PINJ.GO injects a latent fault into the named mechanism, and is accepted
  only in SERVICE. -/
  | patrolInjectWrite (who : Tandem) (val : BitVec 32)
  /-- HOLD_COMMAND (R175): A CLK_RSTCMD write with CMD 2 and the correct key runs the hold reaction and moves RUN or REDUCED
  to SAFE HOLD. -/
  | holdCommand (who : Tandem) (val : BitVec 32)
  /-- WARM_RESET_COMMAND (R187): A CLK_RSTCMD write with CMD 1 and the correct key, from RUN or REDUCED, requests a warm
  reset. -/
  | warmResetCommand (who : Tandem) (val : BitVec 32)
  /-- WARM_RESET (R188): Every tandem stops, the mode becomes GATEHOUSE and the drain runs, which rolls back open epochs and
  puts DRAM into self-refresh. -/
  | warmReset
  /-- DRAIN_END (R188): The warm-reset drain ends at E, and the gatehouse sequence restarts from step 3. -/
  | drainEnd
  /-- DRAIN_TIMEOUT (R203): A drain that has not ended within 1 ms is cut off, DRAINFAIL is set and MCHK is recorded. -/
  | drainTimeout
  /-- CLK_GATE_SET_WRITE (R184): A write to CLK_GATE_SET gates the named software-gated domains. -/
  | clkGateSetWrite (who : Tandem) (val : W64)
  /-- CLK_GATE_CLR_WRITE (R184): A write to CLK_GATE_CLR ungates the named software-gated domains. -/
  | clkGateClrWrite (who : Tandem) (val : W64)
  /-- GATING_TAKES_EFFECT (R185): At the first alignment point at least 2 peripheral cycles after the write, the gating
  changes and the unit enters or leaves unit reset. -/
  | gatingTakesEffect
  /-- UNIT_RESET (R190): A write to CLK_URST starts a unit reset that returns the unit's registers and buffers to their
  reset values. -/
  | unitReset (who : Tandem) (val : BitVec 32)
  /-- UNIT_RESET_END (R190): A unit reset completes within 160 ns, and stalled accesses to the block proceed. -/
  | unitResetEnd (unit : Fin 11)
  /-- PLL_LOCK_LOSS (R204): The PLL loses lock, CLK is declared and the PLL tries to lock again. -/
  | pllLockLoss
  /-- PLL_RELOCK (R204): The PLL locks again and PLLLOCK returns to 1, while the mode stays SAFE HOLD. -/
  | pllRelock
  /-- CRYSTAL_STOP (R205): The crystal input stops, so every root-derived domain stops and the warden declares CLK. -/
  | crystalStop
  /-- VIN_SENSE_TRIP (R622): VIN_SENSE stays below 0.600 V for 200 ns, the warden takes T9 to RUN-OUT, and the tandems stop
  with open and sealing epochs rolled back. -/
  | vinSenseTrip
  /-- HOLDOK_FALL (R623): VHOLD_SENSE falls below its threshold, clearing HOLDOK, which raises SPK_HOLDLOW or ends the
  run-out apply. -/
  | holdokFall
  /-- RUN_OUT_RECORD (R624): At the first of 110 µs, a fall of HOLDOK or the end of the apply, the warden writes the run-out
  record and the ledger becomes quiescent. -/
  | runOutRecord (rec : RunOutIn)
  /-- RUN_OUT_POWER_GOOD (R631): Power-good holds again after RUN-OUT, and T10 warm-resets into GATEHOUSE with full ledger
  recovery. -/
  | runOutPowerGood
  /-- ILL (R276): Major 0x00 raises ILLEGAL. -/
  | ill (t : Tandem)
  /-- PAIR_WORD (R279): Executes two short operations that both read the pre-word register state, writing first then second
  unless either faults. -/
  | pairWord (t : Tandem) (h1 h2 : ShortOp)
  /-- EMULATION_TRAP (R304): A reserved encoding that would execute writes EMUWORD and enters vector 0x004. -/
  | emulationTrap (t : Tandem) (word : BitVec 32)
  /-- ADD (R282): gd := gs1 + gs2 mod 2^64, tagged INT. -/
  | add (t : Tandem) (gd gs1 gs2 : Reg)
  /-- SUB (R282): gd := gs1 − gs2 mod 2^64, tagged INT. -/
  | sub (t : Tandem) (gd gs1 gs2 : Reg)
  /-- AND (R282): Bitwise AND of two registers. -/
  | and_ (t : Tandem) (gd gs1 gs2 : Reg)
  /-- OR (R282): Bitwise OR of two registers. -/
  | or_ (t : Tandem) (gd gs1 gs2 : Reg)
  /-- XOR (R282): Bitwise XOR of two registers. -/
  | xor_ (t : Tandem) (gd gs1 gs2 : Reg)
  /-- ANDN (R282): gs1 AND NOT gs2. -/
  | andn (t : Tandem) (gd gs1 gs2 : Reg)
  /-- ORN (R282): gs1 OR NOT gs2. -/
  | orn (t : Tandem) (gd gs1 gs2 : Reg)
  /-- XNOR (R282): NOT (gs1 XOR gs2). -/
  | xnor (t : Tandem) (gd gs1 gs2 : Reg)
  /-- SLL (R282): Shifts gs1 left by gs2[5:0]. -/
  | sll (t : Tandem) (gd gs1 gs2 : Reg)
  /-- SRL (R282): Shifts gs1 right logically by gs2[5:0]. -/
  | srl (t : Tandem) (gd gs1 gs2 : Reg)
  /-- SRA (R282): Shifts gs1 right arithmetically by gs2[5:0]. -/
  | sra (t : Tandem) (gd gs1 gs2 : Reg)
  /-- ROR (R282): Rotates gs1 right by gs2[5:0]. -/
  | ror (t : Tandem) (gd gs1 gs2 : Reg)
  /-- SLT (R282): Gives 1 if gs1 < gs2 signed, else 0. -/
  | slt (t : Tandem) (gd gs1 gs2 : Reg)
  /-- SLTU (R282): Gives 1 if gs1 < gs2 unsigned, else 0. -/
  | sltu (t : Tandem) (gd gs1 gs2 : Reg)
  /-- MIN (R282): Signed minimum. -/
  | min (t : Tandem) (gd gs1 gs2 : Reg)
  /-- MAX (R282): Signed maximum. -/
  | max (t : Tandem) (gd gs1 gs2 : Reg)
  /-- MINU (R282): Unsigned minimum. -/
  | minu (t : Tandem) (gd gs1 gs2 : Reg)
  /-- MAXU (R282): Unsigned maximum. -/
  | maxu (t : Tandem) (gd gs1 gs2 : Reg)
  /-- MUL (R282): Low 64 bits of the product. -/
  | mul (t : Tandem) (gd gs1 gs2 : Reg)
  /-- MULHS (R282): High 64 bits of the signed × signed product. -/
  | mulhs (t : Tandem) (gd gs1 gs2 : Reg)
  /-- MULHU (R282): High 64 bits of the unsigned × unsigned product. -/
  | mulhu (t : Tandem) (gd gs1 gs2 : Reg)
  /-- MULHSU (R282): High 64 bits of the signed gs1 × unsigned gs2 product. -/
  | mulhsu (t : Tandem) (gd gs1 gs2 : Reg)
  /-- CLZ (R282): Counts leading zeros. -/
  | clz (t : Tandem) (gd gs : Reg)
  /-- CTZ (R282): Counts trailing zeros, giving 64 for a zero source. -/
  | ctz (t : Tandem) (gd gs : Reg)
  /-- POPC (R282): Counts set bits. -/
  | popc (t : Tandem) (gd gs : Reg)
  /-- SEXTB (R282): Sign-extends gs1[7:0]. -/
  | sextb (t : Tandem) (gd gs : Reg)
  /-- SEXTH (R282): Sign-extends gs1[15:0]. -/
  | sexth (t : Tandem) (gd gs : Reg)
  /-- SEXTW (R282): Sign-extends gs1[31:0]. -/
  | sextw (t : Tandem) (gd gs : Reg)
  /-- ZEXTW (R282): Zero-extends gs1[31:0]. -/
  | zextw (t : Tandem) (gd gs : Reg)
  /-- STAG (R218): Copies gs into gd with a new data tag, where setting INSN needs SYS. -/
  | stag (t : Tandem) (gd gs : Reg) (tag : BitVec 4)
  /-- GTAG (R218): Returns the tag of gs as INT and never faults. -/
  | gtag (t : Tandem) (gd gs : Reg)
  /-- MOV (R282): Copies gs1 into gd with its tag. -/
  | mov (t : Tandem) (gd gs : Reg)
  /-- MOVFG (R219): Copies an f register into a g register, carrying FLT, UNWRITTEN or POISON. -/
  | movfg (m : Side) (gd : Reg) (fs : FReg)
  /-- MOVGF (R284): Copies a g register into an f register, tagged FLT. -/
  | movgf (m : Side) (fd : FReg) (gs : Reg)
  /-- ADDI (R285): Adds a sign-extended 15-bit immediate. -/
  | addi (t : Tandem) (gd gs : Reg) (imm : BitVec 15)
  /-- ANDI (R285): ANDs with a zero-extended immediate. -/
  | andi (t : Tandem) (gd gs : Reg) (imm : BitVec 15)
  /-- ORI (R285): ORs with a zero-extended immediate. -/
  | ori (t : Tandem) (gd gs : Reg) (imm : BitVec 15)
  /-- XORI (R285): XORs with a zero-extended immediate. -/
  | xori (t : Tandem) (gd gs : Reg) (imm : BitVec 15)
  /-- SLLI (R285): Shifts left by an immediate. -/
  | slli (t : Tandem) (gd gs : Reg) (sh : BitVec 6)
  /-- SRLI (R285): Shifts right logically by an immediate. -/
  | srli (t : Tandem) (gd gs : Reg) (sh : BitVec 6)
  /-- SRAI (R285): Shifts right arithmetically by an immediate. -/
  | srai (t : Tandem) (gd gs : Reg) (sh : BitVec 6)
  /-- RORI (R285): Rotates right by an immediate. -/
  | rori (t : Tandem) (gd gs : Reg) (sh : BitVec 6)
  /-- SLTI (R285): Signed compare against an immediate. -/
  | slti (t : Tandem) (gd gs : Reg) (imm : BitVec 15)
  /-- SLTIU (R285): Unsigned compare against a sign-extended immediate. -/
  | sltiu (t : Tandem) (gd gs : Reg) (imm : BitVec 15)
  /-- MOVI (R286): Loads a sign-extended 20-bit immediate, tagged INT. -/
  | movi (t : Tandem) (gd : Reg) (imm : BitVec 20)
  /-- INSH (R286): Replaces one 16-bit field of gd with an immediate. -/
  | insh (t : Tandem) (gd : Reg) (k : BitVec 2) (imm : BitVec 16)
  /-- LBU (R287): Loads one byte, zero-extended, through a capability. -/
  | lbu (t : Tandem) (gd : Reg) (cs : CReg) (addr : MemAddr)
  /-- LHU (R287): Loads two bytes, zero-extended. -/
  | lhu (t : Tandem) (gd : Reg) (cs : CReg) (addr : MemAddr)
  /-- LWU (R287): Loads four bytes, zero-extended. -/
  | lwu (t : Tandem) (gd : Reg) (cs : CReg) (addr : MemAddr)
  /-- LD (R216): Loads an 8-byte word, giving it the word's tag under R216. -/
  | ld (t : Tandem) (gd : Reg) (cs : CReg) (addr : MemAddr)
  /-- LB (R287): Loads one byte, sign-extended. -/
  | lb (t : Tandem) (gd : Reg) (cs : CReg) (addr : MemAddr)
  /-- LH (R287): Loads two bytes, sign-extended. -/
  | lh (t : Tandem) (gd : Reg) (cs : CReg) (addr : MemAddr)
  /-- LW (R287): Loads four bytes, sign-extended. -/
  | lw (t : Tandem) (gd : Reg) (cs : CReg) (addr : MemAddr)
  /-- SB (R217): Stores one byte and sets the word's tag to BYTES. -/
  | sb (t : Tandem) (gs : Reg) (cs : CReg) (addr : MemAddr)
  /-- SH (R217): Stores two bytes as a partial store. -/
  | sh (t : Tandem) (gs : Reg) (cs : CReg) (addr : MemAddr)
  /-- SW (R217): Stores four bytes as a partial store. -/
  | sw (t : Tandem) (gs : Reg) (cs : CReg) (addr : MemAddr)
  /-- SD (R217): Stores eight bytes, carrying the register's tag when aligned. -/
  | sd (t : Tandem) (gs : Reg) (cs : CReg) (addr : MemAddr)
  /-- FLD (R292): Loads an 8-byte word into an f register, tagged FLT. -/
  | fld (m : Side) (fd : FReg) (cs : CReg) (off : BitVec 13)
  /-- FST (R292): Stores an f register as a word tagged FLT. -/
  | fst (m : Side) (fs : FReg) (cs : CReg) (off : BitVec 13)
  /-- CLC (R293): Loads a 16-byte pair into a capability register under Table 5-6. -/
  | clc (t : Tandem) (cd cs : CReg) (off : BitVec 12)
  /-- CSC (R228): Stores a capability register as one 16-byte unit, subject to the TTH and DUR rules. -/
  | csc (t : Tandem) (c cs : CReg) (off : BitVec 12)
  /-- SPOIS (R241): Writes POISON over one aligned word. -/
  | spois (t : Tandem) (cs : CReg) (off : BitVec 13)
  /-- CLRP (R242): Writes UNWRITTEN over one aligned word and needs SYS and ring 0. -/
  | clrp (t : Tandem) (cs : CReg) (off : BitVec 13)
  /-- BEQ (R298): Branches when two registers are equal, with a delay slot. -/
  | beq (t : Tandem) (gs1 gs2 : Reg) (disp : BitVec 12)
  /-- BNE (R298): Branches when two registers are not equal. -/
  | bne (t : Tandem) (gs1 gs2 : Reg) (disp : BitVec 12)
  /-- BLT (R298): Branches when gs1 < gs2 signed. -/
  | blt (t : Tandem) (gs1 gs2 : Reg) (disp : BitVec 12)
  /-- BGE (R298): Branches when gs1 ≥ gs2 signed. -/
  | bge (t : Tandem) (gs1 gs2 : Reg) (disp : BitVec 12)
  /-- BLTU (R298): Branches when gs1 < gs2 unsigned. -/
  | bltu (t : Tandem) (gs1 gs2 : Reg) (disp : BitVec 12)
  /-- BGEU (R298): Branches when gs1 ≥ gs2 unsigned. -/
  | bgeu (t : Tandem) (gs1 gs2 : Reg) (disp : BitVec 12)
  /-- BSET (R298): Branches when (a AND b) ≠ 0. -/
  | bset (t : Tandem) (gs1 gs2 : Reg) (disp : BitVec 12)
  /-- BCLR (R298): Branches when (a AND b) = 0. -/
  | bclr (t : Tandem) (gs1 gs2 : Reg) (disp : BitVec 12)
  /-- BEQI (R298): Branches when a register equals an immediate. -/
  | beqi (t : Tandem) (gs : Reg) (imm : BitVec 8) (disp : BitVec 9)
  /-- BNEI (R298): Branches when a register does not equal an immediate. -/
  | bnei (t : Tandem) (gs : Reg) (imm : BitVec 8) (disp : BitVec 9)
  /-- BLTI (R298): Branches when a register is less than an immediate, signed. -/
  | blti (t : Tandem) (gs : Reg) (imm : BitVec 8) (disp : BitVec 9)
  /-- BGEI (R298): Branches when a register is greater than or equal to an immediate, signed. -/
  | bgei (t : Tandem) (gs : Reg) (imm : BitVec 8) (disp : BitVec 9)
  /-- BLTUI (R298): Branches when a register is less than an immediate, unsigned. -/
  | bltui (t : Tandem) (gs : Reg) (imm : BitVec 8) (disp : BitVec 9)
  /-- BGEUI (R298): Branches when a register is greater than or equal to an immediate, unsigned. -/
  | bgeui (t : Tandem) (gs : Reg) (imm : BitVec 8) (disp : BitVec 9)
  /-- BSETI (R298): Branches when (a AND imm) ≠ 0. -/
  | bseti (t : Tandem) (gs : Reg) (imm : BitVec 8) (disp : BitVec 9)
  /-- BCLRI (R298): Branches when (a AND imm) = 0. -/
  | bclri (t : Tandem) (gs : Reg) (imm : BitVec 8) (disp : BitVec 9)
  /-- J (R299): Jumps to a + 4 × DISP25 after the delay slot. -/
  | j (t : Tandem) (disp : BitVec 25)
  /-- JAL (R299): Jumps and writes a + 8 into g31. -/
  | jal (t : Tandem) (disp : BitVec 25)
  /-- JALR (R300): Jumps to gs[43:0] within PCC and links into gd. -/
  | jalr (t : Tandem) (gd gs : Reg)
  /-- JALC (R301): Jumps through capability cs, which becomes PCC after the slot, and writes the link capability into cd. -/
  | jalc (t : Tandem) (cd cs : CReg)
  /-- WCALL (R437): Calls through a wicket into a more privileged ring and writes a resumption capability into c15. -/
  | wcall (t : Tandem) (cs : CReg)
  /-- WRET (R438): Returns through a resumption capability to its ring. -/
  | wret (t : Tandem) (cs : CReg)
  /-- ERET (R433): Returns from a handler, restoring CPL and the prior locker and ending the glide. -/
  | eret (t : Tandem) (cs : CReg)
  /-- ERET_S (R433): Returns from a handler past the saved word. -/
  | eretS (t : Tandem) (cs : CReg)
  /-- SYSRD (R302): Reads a system register into gd under SYS. -/
  | sysrd (t : Tandem) (gd : Reg) (sreg : BitVec 12)
  /-- SYSWR (R302): Writes a system register under SYS, tagging it INT, for registers with no row of their own. -/
  | syswr (t : Tandem) (sreg : BitVec 12) (gs : Reg)
  /-- VTAB_WRITE (R428): A SYSWR of VTAB with ON 1 copies all 0x120 entries and their first blocks into the vector shadow,
  or empties the shadow when ON is 0. -/
  | vtabWrite (t : Tandem) (gs : Reg) (limit : Option Nat) (bad : List Nat)
  /-- VRLD_WRITE (R428): A SYSWR of VRLD copies one vector entry and its first block into the shadow. -/
  | vrldWrite (t : Tandem) (gs : Reg) (bad : Bool)
  /-- IECTL_WRITE (R442): A SYSWR of IECTL sets CPL, and ends the glide when GEND is 1. -/
  | iectlWrite (t : Tandem) (gs : Reg)
  /-- ESTAT_WRITE (R473): A SYSWR of ESTAT, which triggers a frame fill when it clears VALID while LKRSV.PEND is 1. -/
  | estatWrite (t : Tandem) (gs : Reg)
  /-- XCTL_WRITE (R519): A SYSWR of XCTL sets ON and ASID and invalidates both micro-TLBs. -/
  | xctlWrite (m : Side) (gs : Reg)
  /-- CMOV (R295): Copies a capability in any state, or PCC when P is 1. -/
  | cmov (t : Tandem) (cd : CReg) (src : Option CReg)
  /-- CINC (R235): Adds gs to CURSOR modulo 2^44. -/
  | cinc (t : Tandem) (cd cs : CReg) (gs : Reg)
  /-- CSETCUR (R235): Sets CURSOR to gs[43:0]. -/
  | csetcur (t : Tandem) (cd cs : CReg) (gs : Reg)
  /-- KNARROW (R236): Narrows the bounds to [CURSOR, CURSOR + gs), rounded outward. -/
  | knarrow (t : Tandem) (cd cs : CReg) (gs : Reg)
  /-- KNARROW_X (R237): Narrows the bounds exactly, raising CAP_INEXACT when rounding would be needed. -/
  | knarrowX (t : Tandem) (cd cs : CReg) (gs : Reg)
  /-- CANDPERM (R235): ANDs the permissions with gs[9:0]. -/
  | candperm (t : Tandem) (cd cs : CReg) (gs : Reg)
  /-- CSETRING (R235): Raises the capability's RING to gs[1:0]. -/
  | csetring (t : Tandem) (cd cs : CReg) (gs : Reg)
  /-- KTETHER (R234): Sets TETHER to 1. -/
  | ktether (t : Tandem) (cd cs : CReg)
  /-- CSEAL (R962): Seals cs with the object type named by the authority ca. -/
  | cseal (t : Tandem) (cd cs ca : CReg)
  /-- CUNSEAL (R962): Unseals cs with a matching authority. -/
  | cunseal (t : Tandem) (cd cs ca : CReg)
  /-- CDUR (R239): Adds DUR to a capability that lies in DWIN_P, or to a code capability in DWIN_X. -/
  | cdur (t : Tandem) (cd cs : CReg)
  /-- CGETBASE (R235): Returns BASE as INT. -/
  | cgetbase (t : Tandem) (gd : Reg) (cs : CReg)
  /-- CGETLEN (R235): Returns L × 2^E as INT. -/
  | cgetlen (t : Tandem) (gd : Reg) (cs : CReg)
  /-- CGETTOP (R235): Returns TOP as INT. -/
  | cgettop (t : Tandem) (gd : Reg) (cs : CReg)
  /-- CGETPERM (R235): Returns PERMS as INT. -/
  | cgetperm (t : Tandem) (gd : Reg) (cs : CReg)
  /-- CGETTYPE (R235): Returns OTYPE as INT. -/
  | cgettype (t : Tandem) (gd : Reg) (cs : CReg)
  /-- CGETCUR (R235): Returns CURSOR as INT. -/
  | cgetcur (t : Tandem) (gd : Reg) (cs : CReg)
  /-- CGETSTATE (R226): Returns the state code of Table 5-6 and never faults. -/
  | cgetstate (t : Tandem) (gd : Reg) (cs : CReg)
  /-- CSUBSET (R235): Gives 1 if cb's bounds and permissions lie within ca's. -/
  | csubset (t : Tandem) (gd : Reg) (ca cb : CReg)
  /-- KFITLEN (R235): Returns the length that KNARROW would give for length gs. -/
  | kfitlen (t : Tandem) (gd gs : Reg)
  /-- KFITMASK (R235): Returns the alignment mask that KNARROW would need for length gs. -/
  | kfitmask (t : Tandem) (gd gs : Reg)
  /-- CINCI (R296): CINC with a 17-bit signed immediate. -/
  | cinci (t : Tandem) (cd cs : CReg) (imm : BitVec 17)
  /-- KNARROWI (R296): KNARROW with a 17-bit zero-extended length. -/
  | knarrowi (t : Tandem) (cd cs : CReg) (imm : BitVec 17)
  /-- SWEEP_COPY (R335): Copies gc elements from cs to cd, resumable between elements. -/
  | sweepCopy (t : Tandem) (sz : Fin 3) (cd cs : CReg) (gc : Reg) (limit : Option Nat)
  /-- SWEEP_FILL (R333): Fills gc elements at cd with gv. -/
  | sweepFill (t : Tandem) (sz : Fin 2) (cd : CReg) (gc gv : Reg) (limit : Option Nat)
  /-- SWEEP_POISON (R336): Writes POISON over gc words at cd. -/
  | sweepPoison (t : Tandem) (cd : CReg) (gc : Reg) (limit : Option Nat)
  /-- SWEEP_CMP (R333): Compares elements at cd and cs until they differ or gc runs out. -/
  | sweepCmp (t : Tandem) (sz : Fin 2) (cd cs : CReg) (gc gv : Reg) (limit : Option Nat)
  /-- SWEEP_FIND (R333): Scans the elements at cs for one equal to gv. -/
  | sweepFind (t : Tandem) (sz : Fin 2) (cs : CReg) (gc gv : Reg) (limit : Option Nat)
  /-- SWEEP_FINDNE (R333): Scans the elements at cs for one differing from gv. -/
  | sweepFindne (t : Tandem) (sz : Fin 2) (cs : CReg) (gc gv : Reg) (limit : Option Nat)
  /-- SWEEP_CRC (R333): Feeds the elements at cs into the CRC in gv. -/
  | sweepCrc (t : Tandem) (sz : Fin 2) (cs : CReg) (gc gv : Reg) (k : Fin 4) (limit : Option Nat)
  /-- CRCB (R337): Feeds one byte into a CRC. -/
  | crcb (t : Tandem) (gd gs : Reg) (k : Fin 4)
  /-- CRCW (R337): Feeds eight bytes into a CRC. -/
  | crcw (t : Tandem) (gd gs : Reg) (k : Fin 4)
  /-- PAR (R338): Gives the parity of gs. -/
  | par (t : Tandem) (gd gs : Reg)
  /-- BREV (R338): Reverses the order of the bits. -/
  | brev (t : Tandem) (gd gs : Reg)
  /-- BREVB (R338): Reverses the bits within each byte. -/
  | brevb (t : Tandem) (gd gs : Reg)
  /-- BSWAP (R338): Reverses the order of the bytes. -/
  | bswap (t : Tandem) (gd gs : Reg)
  /-- LR (R340): Loads a word and reserves its L2 line. -/
  | lr (t : Tandem) (gd : Reg) (cs : CReg) (off : BitVec 8)
  /-- SC (R341): Stores if the reservation holds, writes 0 or 1 into gd and clears the reservation. -/
  | sc (t : Tandem) (gd gs : Reg) (cs : CReg) (off : BitVec 8)
  /-- TAS (R342): Waits for older stores, then reads a word and writes it back with bit 0 set, indivisibly. -/
  | tas (t : Tandem) (gd : Reg) (cs : CReg) (off : BitVec 8)
  /-- L2_RESERVATION_HOLD_END (R343): The 64-cycle hold of a contended line ends, and waiting writes proceed. -/
  | l2ReservationHoldEnd (t : Tandem)
  /-- DIV (R344): Signed divide, abandoned and restarted if interrupted. -/
  | div (t : Tandem) (gd gs1 gs2 : Reg)
  /-- DIVU (R344): Unsigned divide. -/
  | divu (t : Tandem) (gd gs1 gs2 : Reg)
  /-- REM (R344): Signed remainder. -/
  | rem (t : Tandem) (gd gs1 gs2 : Reg)
  /-- REMU (R344): Unsigned remainder. -/
  | remu (t : Tandem) (gd gs1 gs2 : Reg)
  /-- FADD (R347): Floating-point add. -/
  | fadd (m : Side) (p : FPrec) (rm : RM) (fd fs1 fs2 : FReg)
  /-- FSUB (R347): Floating-point subtract. -/
  | fsub (m : Side) (p : FPrec) (rm : RM) (fd fs1 fs2 : FReg)
  /-- FMUL (R347): Floating-point multiply. -/
  | fmul (m : Side) (p : FPrec) (rm : RM) (fd fs1 fs2 : FReg)
  /-- FDIV (R347): Floating-point divide, long-running. -/
  | fdiv (m : Side) (p : FPrec) (rm : RM) (fd fs1 fs2 : FReg)
  /-- FSQRT (R347): Floating-point square root, long-running. -/
  | fsqrt (m : Side) (p : FPrec) (rm : RM) (fd fs : FReg)
  /-- FMADD (R347): Fused multiply-add. -/
  | fmadd (m : Side) (p : FPrec) (rm : RM) (fd fs1 fs2 fs3 : FReg)
  /-- FMSUB (R347): Fused multiply-subtract. -/
  | fmsub (m : Side) (p : FPrec) (rm : RM) (fd fs1 fs2 fs3 : FReg)
  /-- FNMADD (R347): Negated fused multiply-add. -/
  | fnmadd (m : Side) (p : FPrec) (rm : RM) (fd fs1 fs2 fs3 : FReg)
  /-- FMIN (R347): minimumNumber. -/
  | fmin (m : Side) (p : FPrec) (fd fs1 fs2 : FReg)
  /-- FMAX (R347): maximumNumber. -/
  | fmax (m : Side) (p : FPrec) (fd fs1 fs2 : FReg)
  /-- FABS (R347): Clears the sign. -/
  | fabs (m : Side) (p : FPrec) (fd fs : FReg)
  /-- FNEG (R347): Inverts the sign. -/
  | fneg (m : Side) (p : FPrec) (fd fs : FReg)
  /-- FCVTP (R347): Converts between binary32 and binary64. -/
  | fcvtp (m : Side) (p : FPrec) (rm : RM) (fd fs : FReg)
  /-- FCVTFI (R347): Converts an integer to floating point. -/
  | fcvtfi (m : Side) (p : FPrec) (rm : RM) (fd fs : FReg)
  /-- FCVTIF (R348): Converts floating point to a saturated integer. -/
  | fcvtif (m : Side) (p : FPrec) (rm : RM) (fd fs : FReg)
  /-- FEQ (R347): Quiet equality compare into gd. -/
  | feq (m : Side) (p : FPrec) (gd : Reg) (fs1 fs2 : FReg)
  /-- FLT (R347): Signalling less-than compare into gd. -/
  | flt (m : Side) (p : FPrec) (gd : Reg) (fs1 fs2 : FReg)
  /-- FLE (R347): Signalling less-or-equal compare into gd. -/
  | fle (m : Side) (p : FPrec) (gd : Reg) (fs1 fs2 : FReg)
  /-- FCLASS (R347): Classifies fs1 into a one-hot mask. -/
  | fclass (m : Side) (p : FPrec) (gd : Reg) (fs : FReg)
  /-- QADD (R350): Saturating fixed-point add. -/
  | qadd (t : Tandem) (gd gs1 gs2 : Reg)
  /-- QSUB (R350): Saturating fixed-point subtract. -/
  | qsub (t : Tandem) (gd gs1 gs2 : Reg)
  /-- QMUL (R350): Rounded, saturating fixed-point multiply. -/
  | qmul (t : Tandem) (gd gs1 gs2 : Reg) (frac : BitVec 6)
  /-- QSHL (R350): Saturating left shift by FRAC. -/
  | qshl (t : Tandem) (gd gs : Reg) (frac : BitVec 6)
  /-- QABS (R350): Saturating absolute value. -/
  | qabs (t : Tandem) (gd gs : Reg)
  /-- QNEG (R350): Saturating negation. -/
  | qneg (t : Tandem) (gd gs : Reg)
  /-- MLD (R352): Loads at the cursor and steps it by modulo or bit-reversed addressing. -/
  | mld (t : Tandem) (gd : Reg) (cs : CReg) (md : Fin 2) (sz : Fin 7)
  /-- MST (R352): Stores at the cursor and steps it. -/
  | mst (t : Tandem) (gs : Reg) (cs : CReg) (md : Fin 2) (sz : Fin 4)
  /-- MSTEP (R352): Steps the cursor only. -/
  | mstep (t : Tandem) (cs : CReg) (md : Fin 2) (sz : Fin 4)
  /-- FENCE (R353): Waits for older loads and an empty store buffer. -/
  | fence (t : Tandem)
  /-- PFENCE (R611): Performs FENCE, closes the tandem's epoch and waits for the epoch to commit. -/
  | pfence (t : Tandem)
  /-- IFLUSH (R353): Performs FENCE, invalidates the L1 instruction caches and BTBs, and refetches. -/
  | iflush (t : Tandem)
  /-- TBAR (R353): Performs FENCE, invalidates the micro-TLBs and refetches. -/
  | tbar (t : Tandem)
  /-- XSET (R515): Writes TLBHI and TLBLO into entry gs, or is rejected. -/
  | xset (m : Side) (gd gs : Reg)
  /-- XSETN (R517): Writes the next unlocked entry from XWPTR. -/
  | xsetn (m : Side) (gd : Reg)
  /-- XREAD (R516): Copies an entry into TLBHI and TLBLO. -/
  | xread (m : Side) (gs : Reg)
  /-- XLOOK (R518): Looks up TLBHI's address and ASID in the unified TLB. -/
  | xlook (m : Side) (gd : Reg)
  /-- XKILL (R516): Invalidates one entry. -/
  | xkill (m : Side) (gs : Reg)
  /-- XKILLA (R516): Invalidates every non-global entry of one ASID. -/
  | xkilla (m : Side) (gs : Reg)
  /-- XKILLALL (R516): Invalidates every entry. -/
  | xkillall (m : Side)
  /-- YIELD (R482): Places the running context behind its equals and may make a switch due. -/
  | yield (m : Side)
  /-- WAIT (R481): Consumes PEND or blocks the context, and parks the core if nothing is READY. -/
  | wait (m : Side)
  /-- WAKE (R480): Wakes the context named by g. -/
  | wake (m : Side) (g : Reg)
  /-- CTXINIT (R492): Initialises a FREE context as BLOCKED with PCC cs and c14 ca. -/
  | ctxinit (m : Side) (g : Reg) (cs ca : CReg)
  /-- CTXKILL (R493): Makes a context FREE and discards its state. -/
  | ctxkill (m : Side) (g : Reg)
  /-- FRSV (R473): Fills the pending stack-reserve frame with the saved state. -/
  | frsv (m : Side)
  /-- FRLD (R474): Restores the saved state from the latest frame and unlinks it. -/
  | frld (m : Side)
  /-- EXCEPTION_ENTRY (R431): A faulting word reaching W enters its vector through the shadow and the handler's locker, with
  saved state written. -/
  | exceptionEntry (t : Tandem) (cause : ExcCause)
  /-- INTERRUPT_ENTRY (R430): The router presents a source above CPL with no glide under way, and the tandem enters its
  vector at the next allowed boundary. -/
  | interruptEntry (t : Tandem) (shadowErr : Bool)
  /-- GLIDE_EXPIRY (R443): A glide reaches its N-th cycle and ends, counting an overrun in GLIDEOVR. -/
  | glideExpiry (t : Tandem)
  /-- SCHEDULER_ENABLE (R478): A write of SCH_CTL.EN 1 adopts the running code as context BOOT and empties the other
  scheduler lockers. -/
  | schedulerEnable (who : Tandem) (m : Side) (val : BitVec 32)
  /-- SOURCE_WAKE (R902): A bound source becoming pending with its latch bit 0 sets the latch and wakes its context. -/
  | sourceWake (m : Side) (k : Fin 256)
  /-- SLICE_EXPIRY (R484): The running context's slice expires after SLICE × 1,024 cycles. -/
  | sliceExpiry (m : Side)
  /-- SCHEDULER_SWITCH (R486): A due switch is taken at an allowed boundary at CPL 0, spilling a victim if needed and
  filling the incoming context. -/
  | schedulerSwitch (m : Side) (bankErr : Bool)
  /-- STORE_BUFFER_DRAIN (R553): The head entry of a store buffer drains to its target by Table 12-2. -/
  | storeBufferDrain (t : Tandem)
  /-- LOAD_OVERLAP_RESUME (R555): A load waiting in partial overlap, or behind device stores, reads once the entries it
  waits for have left. -/
  | loadOverlapResume (t : Tandem)
  /-- XSP_COMMAND (R575): A write of XSP_CMD.GO sends a flash command through XSP_BUF, or is refused. -/
  | xspCommand (who : Tandem) (val : BitVec 32)
  /-- XSP_COMMAND_END (R575): A flash command ends, sets DONE and invalidates the window when INV is 1. -/
  | xspCommandEnd (rx : List Byte) (changed : List (Nat × Byte))
  /-- XSP_STROBE_TIMEOUT (R589): No data strobe arrives within 64 serial cycles, which ends the access. -/
  | xspStrobeTimeout (miss : Option (Tandem × BitVec 44))
  /-- DRAM_REFRESH (R568): An all-bank refresh runs at each tREFI. -/
  | dramRefresh
  /-- DRAM_BACKGROUND_CLEAR_BLOCK (R569): The background clear writes the next fresh 64 KiB block to UNWRITTEN and clears
  its fresh bit. -/
  | dramBackgroundClearBlock
  /-- SEAL_START (R613): The oldest closed epoch gets the write port and log room and starts writing its entries into the
  log. -/
  | sealStart (us : Nat) (fails : Nat)
  /-- SEAL_END (R610): The last entry of a sealing epoch is written, and the epoch enters MARKING. -/
  | sealEnd
  /-- EPOCH_COMMIT (R611): The second mark copy is read back, so the epoch is COMMITTED, the epoch number advances and
  waiting PFENCEs complete. -/
  | epochCommit (fails : Nat)
  /-- APPLY_ENTRY (R616): A spare write slot applies the next unsuperseded entry of a COMMITTED epoch to the array. -/
  | applyEntry (logBad : Bool) (verify : Verify)
  /-- WARDEN_RECORD_WRITE (R627): The warden writes a fault record into the next slot of the reserve ring. -/
  | wardenRecordWrite (fails : Nat)
  /-- GROOMER_METADATA_SAVE (R655): Every 10 minutes of powered time, the write counts and powered time are saved to both
  metadata copies. -/
  | groomerMetadataSave
  /-- FRAME_MOVE_START (R656): A hot or cold move condition starts copying a frame to a spare. -/
  | frameMoveStart (hot : Bool) (frame : Fin 16384)
  /-- FRAME_MOVE_END (R657): A move writes the new map entry to both metadata copies and ends. -/
  | frameMoveEnd (copy : MoveCopy)
  /-- SCRUB_PASS_START (R660): A scrub pass of a memory starts on its schedule. -/
  | scrubPassStart (mem : ScrubMem)
  /-- SCRUB_PASS_LATE (R661): A groomer pass misses its interval, which sets LATE, raises GRM_SCRUBLATE and reports MCHK. -/
  | scrubPassLate (mem : ScrubMem)
  /-- LIFE_EVALUATION (R670): The life model computes each mechanism and the device result, updates GRM_LIFE and GRM_DEV and
  raises GRM_EVAL. -/
  | lifeEvaluation (ro em : List Monitor)
  /-- GRM_EVAL_WRITE (R670): A write of 1 to GRM_CFG.EVAL starts an evaluation. -/
  | grmEvalWrite (who : Tandem) (val : BitVec 32)
  /-- GRM_DATE_WRITE (R673): A write of GRM_DATE.DAY sets VALID, and also CDATE on the first write in FIELD. -/
  | grmDateWrite (who : Tandem) (val : W64)
  /-- GRM_DATE_ADVANCE (R663): GRM_DATE advances by one day for each 86,400,000 ms of WRD_TIME. -/
  | grmDateAdvance
  /-- GRM_FLASH_WRITE (R674): A write of GRM_FLASH_n reports the flash erase count and sets or clears VALID. -/
  | grmFlashWrite (who : Tandem) (port : Side) (val : W64)
  /-- TAG_STORE_MIRROR (R832): Tandem G mirrors identity, life and fault records into regions 0 to 17 of the tag store. -/
  | tagStoreMirror (what : Mirror)
  /-- COUNT_EVENT (R687): A channel receives a down or up event and counts, underflows or overflows, with any match. -/
  | countEvent (cycle : CountCycle)
  /-- QUADRATURE_STEP (R698): A change of one quadrature input gives an up or down step, and a double change counts QERR. -/
  | quadratureStep (n : Fin 32) (a b : Bool)
  /-- CAPTURE_EDGE (R699): A capture edge copies CNT into CAP on CH00 to CH15. -/
  | captureEdge (n : Fin 32) (rising : Bool)
  /-- PULSE_CAPTURE_EDGE (R700): On CH16 to CH31, an opening edge records RISE and a closing edge completes a pulse WIDTH. -/
  | pulseCaptureEdge (n : Fin 32) (rising : Bool)
  /-- CHN_CTL_WRITE (R693): A write of CHn_CTL sets the mode, links and RUN, or is ignored as a whole. -/
  | chnCtlWrite (who : Tandem) (n : Fin 32) (val : BitVec 32)
  /-- CHN_LOAD (R689): A write of CHn_LOAD sets CNT at once and discards that cycle's event. -/
  | chnLoad (who : Tandem) (n : Fin 32) (val : BitVec 32)
  /-- CHN_RELOAD (R688): A write of CHn_RELOAD changes only the reload buffer. -/
  | chnReload (who : Tandem) (n : Fin 32) (val : BitVec 32)
  /-- CHN_CMP (R691): A write of CHn_CMP goes to the live comparator, with CMPLATE when late. -/
  | chnCmp (who : Tandem) (n : Fin 32) (val : BitVec 32)
  /-- CHN_CNT_READ (R696): A read of CHn_CNT copies the cascaded next channel's CNT into its HOLD. -/
  | chnCntRead (who : Tandem) (n : Fin 32)
  /-- CTA_GSTART (R695): Sets RUN and restarts the prescalers of the named channels in one cycle. -/
  | ctaGstart (who : Tandem) (chs : BitVec 32)
  /-- CTA_GSTOP (R695): Clears RUN of the named channels in one cycle. -/
  | ctaGstop (who : Tandem) (chs : BitVec 32)
  /-- CTA_SNAP (R696): Copies CNT into HOLD for the named channels. -/
  | ctaSnap (who : Tandem) (chs : BitVec 32)
  /-- DEBOUNCE_CHANGE (R705): A debounced input changes after D_k differing samples and may set PIO_EVT. -/
  | debounceChange (n : Fin 512)
  /-- PIO_OUT_WRITE (R707): A write of PIO_OUT sets the output levels of a bank. -/
  | pioOutWrite (who : Tandem) (bank : Fin 16) (val : BitVec 32)
  /-- PIO_SET (R707): Sets the output bits written as 1. -/
  | pioSet (who : Tandem) (bank : Fin 16) (val : BitVec 32)
  /-- PIO_CLR (R707): Clears the output bits written as 1. -/
  | pioClr (who : Tandem) (bank : Fin 16) (val : BitVec 32)
  /-- PIO_BCFG_WRITE (R702): Enables banks, setting VMIS instead on a supply mismatch. -/
  | pioBcfgWrite (who : Tandem) (val : BitVec 32)
  /-- BANK_SUPPLY_MISMATCH (R723): An enabled bank's supply leaves its sensed level, so the bank is disabled and VMIS is set. -/
  | bankSupplyMismatch (bank : Fin 16) (sense33 : BankSense)
  /-- PIO_SCFG_WRITE (R708): Configures and enables the scan engine, or sets BADCFG. -/
  | pioScfgWrite (who : Tandem) (val : W64)
  /-- KEY_SCAN (R709): A forward scan drives each row and samples the columns, updating PIO_KEYS and the key FIFO. -/
  | keyScan (sensed : List (BitVec 32))
  /-- WET_FILM_TEST (R710): A reverse scan after every WDIV-th scan marks wet keys. -/
  | wetFilmTest (sensed : List (BitVec 32))
  /-- PIO_SFIFO_READ (R709): A read of PIO_SFIFO removes and returns the oldest key entry. -/
  | pioSfifoRead (who : Tandem)
  /-- PWM_PERIOD_END (R711): A PWM period ends and pending DUTY and PRE writes take effect. -/
  | pwmPeriodEnd (gen : Fin 64)
  /-- PWM_WRITE (R711): A write of PIO_PWM_j sets the generator, restarting the period for PERIOD or EN. -/
  | pwmWrite (who : Tandem) (gen : Fin 64) (val : W64)
  /-- VBUS_CHANGE (R739): VBUS becomes valid or invalid after its 1 ms filter, and a loss acts as a bus reset. -/
  | vbusChange (valid : Bool)
  /-- BUS_RESET (R742): An upstream bus reset returns both devices to address 0, powers off the ports and resets the
  function buffers. -/
  | busReset
  /-- HIGH_SPEED_IDLE (R740): 3.0 ms without high-speed activity switches to full-speed terminations and judges reset or
  suspend. -/
  | highSpeedIdle (se0 : Bool)
  /-- CHIRP_K_END (R741): The Umaon's 2.0 ms chirp K ends, and it waits for the host's chirp. -/
  | chirpKEnd
  /-- HOST_CHIRP (R741): Three K-J pairs from the host switch the Umaon to high speed. -/
  | hostChirp
  /-- CHIRP_TIMEOUT (R741): No host chirp within 1.0 ms leaves the link at full speed. -/
  | chirpTimeout
  /-- SUSPEND (R762): Upstream idle suspends the hub and the function together. -/
  | suspend
  /-- RESUME (R762): A resume K followed by the first SOF returns the link to its speed. -/
  | resume
  /-- USB_REMOTE_WAKEUP (R763): A write of USB_CTL.WAKE drives the remote-wakeup K when allowed. -/
  | usbRemoteWakeup (who : Tandem) (idle : Bool)
  /-- REMOTE_WAKEUP_K_END (R763): The remote-wakeup K ends and WAKE clears. -/
  | remoteWakeupKEnd
  /-- USB_ATTEN_WRITE (R739): A write of USB_CTL.ATTEN connects or releases the D+ pull-up. -/
  | usbAttenWrite (who : Tandem) (val : BitVec 32)
  /-- SOF_RECEIVED (R749): An upstream SOF sets the frame timer and downstream SOFs and keep-alives. -/
  | sofReceived (frame : BitVec 11) (uframe : BitVec 3)
  /-- SOF_TIMER (R749): With no SOF for 3 microframes, the hub continues on its own timer. -/
  | sofTimer
  /-- SETUP_PACKET (R755): EP0 accepts a SETUP, abandoning any transfer under way, and decodes the request. -/
  | setupPacket (d : UsbDev) (request : Byte) (w : SetupPkt)
  /-- GET_STATUS (R753): Returns device, interface or endpoint status. -/
  | getStatus (d : UsbDev) (w : Setup)
  /-- CLEAR_FEATURE (R760): Clears remote wakeup or endpoint halt, resynchronising the toggle. -/
  | clearFeature (d : UsbDev) (w : Setup)
  /-- SET_FEATURE (R753): Sets remote wakeup, endpoint halt or test mode. -/
  | setFeature (d : UsbDev) (w : Setup)
  /-- SET_ADDRESS (R753): Sets the device address from the end of the status stage. -/
  | setAddress (d : UsbDev) (w : Setup)
  /-- GET_DESCRIPTOR (R753): Returns a device, configuration, string, qualifier, HID or report descriptor. -/
  | getDescriptor (d : UsbDev) (w : Setup)
  /-- SET_DESCRIPTOR (R753): Always answered STALL. -/
  | setDescriptor (d : UsbDev) (w : Setup)
  /-- GET_CONFIGURATION (R753): Returns 0 or 1. -/
  | getConfiguration (d : UsbDev) (w : Setup)
  /-- SET_CONFIGURATION (R760): Configures the device and resets every endpoint's toggle, halt and buffers. -/
  | setConfiguration (d : UsbDev) (w : Setup)
  /-- GET_INTERFACE (R753): Returns alternate setting 0. -/
  | getInterface (d : UsbDev) (w : Setup)
  /-- SET_INTERFACE (R760): Resets the toggles of an interface's endpoints. -/
  | setInterface (d : UsbDev) (w : Setup)
  /-- SYNCH_FRAME (R753): Always answered STALL. -/
  | synchFrame (d : UsbDev) (w : Setup)
  /-- GET_REPORT (R754): Returns the last 64-byte input report sent on EP1. -/
  | getReport (d : UsbDev) (w : Setup)
  /-- SET_REPORT (R754): Answered STALL and counted. -/
  | setReport (d : UsbDev) (w : Setup)
  /-- GET_IDLE (R754): Answered STALL and counted. -/
  | getIdle (d : UsbDev) (w : Setup)
  /-- SET_IDLE (R754): Answered STALL and counted. -/
  | setIdle (d : UsbDev) (w : Setup)
  /-- GET_PROTOCOL (R754): Answered STALL and counted. -/
  | getProtocol (d : UsbDev) (w : Setup)
  /-- SET_PROTOCOL (R754): Answered STALL and counted. -/
  | setProtocol (d : UsbDev) (w : Setup)
  /-- GET_HUB_STATUS (R746): Returns wHubStatus 0x0001 and wHubChange 0. -/
  | getHubStatus (w : Setup)
  /-- CLEAR_HUB_FEATURE (R746): Answered STALL. -/
  | clearHubFeature (w : Setup)
  /-- SET_HUB_FEATURE (R746): Answered STALL. -/
  | setHubFeature (w : Setup)
  /-- GET_PORT_STATUS (R746): Returns a port's wPortStatus and wPortChange. -/
  | getPortStatus (w : Setup)
  /-- SET_PORT_FEATURE (R746): Powers, resets, suspends or tests a downstream port. -/
  | setPortFeature (w : Setup)
  /-- CLEAR_PORT_FEATURE (R746): Disables, resumes or powers off a port, or clears a change bit. -/
  | clearPortFeature (w : Setup)
  /-- GET_HUB_DESCRIPTOR (R746): Returns the hub descriptor. -/
  | getHubDescriptor (w : Setup)
  /-- SET_HUB_DESCRIPTOR (R746): Answered STALL. -/
  | setHubDescriptor (w : Setup)
  /-- CLEAR_TT_BUFFER (R746): Frees the named non-periodic translator buffer. -/
  | clearTtBuffer (w : Setup)
  /-- RESET_TT (R746): Empties the translator buffers and pipeline and clears STOPPED. -/
  | resetTt (w : Setup)
  /-- STOP_TT (R746): Sets STOPPED, so that no split is accepted until ResetTT. -/
  | stopTt (w : Setup)
  /-- GET_TT_STATE (R746): Returns USB_TT as 4 bytes. -/
  | getTtState (w : Setup)
  /-- IN_TOKEN (R757): An IN token sends the HWNEXT buffer if it is ARMED, or NAK. -/
  | inToken (d : UsbDev) (ep : Fin 16)
  /-- HOST_ACK (R757): The host's ACK empties the sent buffer, flips the toggle and alternates HWNEXT. -/
  | hostAck (d : UsbDev) (ep : Fin 16)
  /-- NO_ACK_TIMEOUT (R773): No handshake within turnaround leaves the buffer ARMED and counts NOACK. -/
  | noAckTimeout (d : UsbDev) (ep : Fin 16)
  /-- OUT_DATA_PACKET (R758): An OUT packet is stored, NAKed or ACKed as a duplicate, by toggle and buffer state. -/
  | outDataPacket (d : UsbDev) (ep : Fin 16) (data1 : Bool) (bytes : List Byte)
  /-- PING (R755): EP0 answers PING with ACK or NAK. -/
  | ping (d : UsbDev)
  /-- EXT_TOKEN (R736): An EXT token is ignored and counted in VC_USB_PID. -/
  | extToken
  /-- USB_LINE_ERROR_PACKET (R773): A packet with a PID, CRC or bit-stuff error gets no response and counts LINE. -/
  | usbLineErrorPacket
  /-- USB_EPGO (R756): A write of USB_EPGO_e arms an IN buffer or releases an OUT buffer, or sets BADGO. -/
  | usbEpgo (who : Tandem) (e : Fin 5) (val : BitVec 32)
  /-- CONTROL_START_SPLIT (R748): A control start-split takes a non-periodic buffer or gets NAK. -/
  | controlStartSplit (addr : BitVec 7) (ep : BitVec 4)
  /-- INTERRUPT_START_SPLIT (R748): An interrupt start-split takes a periodic entry, or is discarded when all 16 are in use. -/
  | interruptStartSplit (addr : BitVec 7) (ep : BitVec 4)
  /-- BULK_ISO_START_SPLIT (R748): A bulk or isochronous start-split is answered STALL and counted. -/
  | bulkIsoStartSplit (addr : BitVec 7) (ep : BitVec 4)
  /-- COMPLETE_SPLIT (R748): A complete-split returns NYET, the result or ERR, or no handshake when it matches nothing. -/
  | completeSplit (control : Bool) (addr : BitVec 7) (ep : BitVec 4)
  /-- TT_TRANSACTION_END (R748): A full- or low-speed transaction ends on the downstream bus, and its result is held. -/
  | ttTransactionEnd (control : Bool) (addr : BitVec 7) (ep : BitVec 4) (r : TtResult)
  /-- TT_PERIODIC_ABANDON (R748): A periodic transaction unfinished by microframe Y + 3 is abandoned and counted. -/
  | ttPeriodicAbandon (addr : BitVec 7) (ep : BitVec 4)
  /-- PORT_CONNECT (R744): A downstream device connects to a port. -/
  | portConnect (port : Fin 5) (speed : UsbSpeed)
  /-- PORT_DISCONNECT (R744): A downstream device disconnects from a port. -/
  | portDisconnect (port : Fin 5)
  /-- PORT_RESET_END (R744): A port reset ends after 12 ms and the port is enabled. -/
  | portResetEnd (port : Fin 5) (speed : UsbSpeed)
  /-- PORT_RESUME_END (R764): A 20 ms port resume K ends with an EOP, and C_PORT_SUSPEND is set. -/
  | portResumeEnd (port : Fin 5)
  /-- PORT_DEVICE_RESUME (R764): A device's resume K on a suspended port starts a port resume. -/
  | portDeviceResume (port : Fin 5)
  /-- PORT_OVER_CURRENT (R745): USB_OCNn low for the filter time removes power from the port and counts VC_USB_OC. -/
  | portOverCurrent (port : Fin 5) (low : Bool)
  /-- DOWNSTREAM_BABBLE (R747): A device transmitting across a frame end is disabled and counted. -/
  | downstreamBabble (port : Fin 5)
  /-- CAN_FRAME_RECEIVED (R791): A valid frame passes the filters and is stored, dropped or checked as a safe-channel frame. -/
  | canFrameReceived (c : Side) (f : CanFrame)
  /-- CAN_PROTOCOL_EXCEPTION (R782): A protocol exception event makes the controller enter bus integration and counts
  VC_CAN_PEX. -/
  | canProtocolException (c : Side)
  /-- CAN_BUS_ERROR (R783): A bit, stuff, form, CRC or acknowledgement error changes the error counters and may change state. -/
  | canBusError (c : Side) (e : CanErr) (tx exempt : Bool) (extra : Nat)
  /-- CAN_INTEGRATION_END (R788): 11 recessive bits end integration, and the controller becomes ERROR-ACTIVE. -/
  | canIntegrationEnd (c : Side)
  /-- CAN_RECOVERY_END (R789): 128 occurrences of 11 recessive bits end RECOVERING in ERROR-ACTIVE. -/
  | canRecoveryEnd (c : Side)
  /-- CAN_OP_OFF (R787): A write of OP 0 enters OFF at once. -/
  | canOpOff (who : Tandem) (c : Side)
  /-- CAN_OP_MONITOR (R787): A write of OP 1 enters MONITOR. -/
  | canOpMonitor (who : Tandem) (c : Side)
  /-- CAN_OP_ACTIVE (R787): A write of OP 2 starts integration and clears CMPHOLD. -/
  | canOpActive (who : Tandem) (c : Side)
  /-- CAN_RECOVER (R789): A write of RECOVER starts manual bus-off recovery. -/
  | canRecover (who : Tandem) (c : Side)
  /-- CAN_RXPOP (R792): Removes the head entry of the receive FIFO. -/
  | canRxpop (who : Tandem) (c : Side)
  /-- CAN_RXC_OPEN (R796): Returns a receive connection to SYNC. -/
  | canRxcOpen (who : Tandem) (c : Side) (ch : Fin 32)
  /-- CAN_RXC_CLOSE (R796): Makes a receive connection CLOSED. -/
  | canRxcClose (who : Tandem) (c : Side) (ch : Fin 32)
  /-- CAN_CONNECTION_TIMEOUT (R796): No frame accepted within TMO makes the connection TIMEOUT. -/
  | canConnectionTimeout (c : Side) (ch : Fin 32)
  /-- CAN_MBCFG_WRITE (R798): Configures an EMPTY mailbox, or sets BADWR. -/
  | canMbcfgWrite (who : Tandem) (c : Side) (m : Fin 32) (val : W64)
  /-- CAN_MB_SUBMIT (R802): Submits the writer's half, admitting the frame or entering HALF. -/
  | canMbSubmit (who : Tandem) (c : Side) (m : Fin 32)
  /-- CAN_MB_RELEASE (R798): Returns a mailbox in states 4 to 7 to EMPTY. -/
  | canMbRelease (who : Tandem) (c : Side) (m : Fin 32)
  /-- CAN_MB_ABORT (R798): Moves a HALF or PENDING mailbox to ABORTED. -/
  | canMbAbort (who : Tandem) (c : Side) (m : Fin 32)
  /-- CAN_MB_SETSEQ (R799): Sets NEXTSEQ of an EMPTY mailbox. -/
  | canMbSetseq (who : Tandem) (c : Side) (m : Fin 32) (seq : BitVec 16)
  /-- DUAL_SOURCE_WINDOW_EXPIRY (R802): DSWIN expires with one half only, and the mailbox is WITHHELD with DSLATE. -/
  | dualSourceWindowExpiry (c : Side) (m : Fin 32)
  /-- CAN_ARBITRATION_START (R800): The winning PENDING mailbox enters bus arbitration at the intermission. -/
  | canArbitrationStart (c : Side)
  /-- CAN_TX_END (R801): A transmitted frame ends as DONE or in error, with retry or RETRYEND. -/
  | canTxEnd (c : Side) (ok : Bool) (tdcv : BitVec 7)
  /-- INVENTORY (R825): ISO/IEC 15693 inventory. -/
  | inventory (req : NfcReq) (afi : Option Byte) (maskLen : InvMask) (mask : W64)
  /-- STAY_QUIET (R825): Enters the Quiet state. -/
  | stayQuiet (req : NfcReq)
  /-- SELECT (R825): Enters the Selected state. -/
  | select (req : NfcReq)
  /-- RESET_TO_READY (R825): Returns to the Ready state. -/
  | resetToReady (req : NfcReq)
  /-- READ_SINGLE_BLOCK (R825): Reads one block within 0 to 255. -/
  | readSingleBlock (req : NfcReq) (block : Byte)
  /-- WRITE_SINGLE_BLOCK (R825): Writes one block within 0 to 255, subject to the locks. -/
  | writeSingleBlock (req : NfcReq) (block : Byte) (data : BitVec 32) (prog : NfcProg)
  /-- READ_MULTIPLE_BLOCKS (R825): Reads 1 to 64 blocks. -/
  | readMultipleBlocks (req : NfcReq) (first count : Byte)
  /-- WRITE_MULTIPLE_BLOCKS (R825): Writes 1 to 4 blocks, all or none. -/
  | writeMultipleBlocks (req : NfcReq) (first count : Byte) (data : List (BitVec 32)) (prog : NfcProg)
  /-- GET_SYSTEM_INFORMATION (R825): Returns the DSFID and AFI. -/
  | getSystemInformation (req : NfcReq)
  /-- GET_MULTIPLE_BLOCK_SECURITY_STATUS (R826): Returns the lock status of 1 to 64 blocks. -/
  | getMultipleBlockSecurityStatus (req : NfcReq) (first count : Byte)
  /-- EXTENDED_READ_SINGLE_BLOCK (R825): Reads one block within 0 to 8,191. -/
  | extendedReadSingleBlock (req : NfcReq) (block : BitVec 16)
  /-- EXTENDED_WRITE_SINGLE_BLOCK (R825): Writes one block within 0 to 8,191. -/
  | extendedWriteSingleBlock (req : NfcReq) (block : BitVec 16) (data : BitVec 32) (prog : NfcProg)
  /-- EXTENDED_READ_MULTIPLE_BLOCKS (R825): Reads 1 to 64 blocks anywhere in the store. -/
  | extendedReadMultipleBlocks (req : NfcReq) (first count : BitVec 16)
  /-- EXTENDED_WRITE_MULTIPLE_BLOCKS (R825): Writes 1 to 4 blocks anywhere in the store. -/
  | extendedWriteMultipleBlocks (req : NfcReq) (first count : BitVec 16) (data : List (BitVec 32)) (prog : NfcProg)
  /-- EXTENDED_GET_SYSTEM_INFORMATION (R825): Returns 8,192 blocks of 4 bytes. -/
  | extendedGetSystemInformation (req : NfcReq)
  /-- EXT_GET_MULTIPLE_BLOCK_SECURITY_STATUS (R826): Returns the lock status of 1 to 64 blocks, extended addressing. -/
  | extGetMultipleBlockSecurityStatus (req : NfcReq) (first count : BitVec 16)
  /-- NFC_UNSUPPORTED_COMMAND (R824): An unsupported command or option gets its error code and is counted. -/
  | nfcUnsupportedCommand (req : NfcReq) (custom : Bool)
  /-- NFC_LINE_ERROR (R827): A request with a CRC or coding error gets no response and counts LINE. -/
  | nfcLineError
  /-- NFC_FIELD_CHANGE (R821): A reader's field appears or disappears, setting FIELDCHG. -/
  | nfcFieldChange (present : Bool)
  /-- NFC_HOST_COMMAND (R834): A write of NFC_HCMD.GO starts a host block transfer, or is refused. -/
  | nfcHostCommand (who : Tandem) (val : BitVec 32)
  /-- NFC_HOST_COMMAND_END (R837): A host command has served all its blocks, waiting for any hold, and sets DONE. -/
  | nfcHostCommandEnd (waitus : BitVec 21) (fail : Option (Fin 64))
  /-- NFC_LOCK_WRITE (R835): A write of NFC_LOCK starts persisting the maker-region locks. -/
  | nfcLockWrite (who : Tandem) (val : BitVec 32)
  /-- NFC_LOCK_PERSISTED (R835): The lock bits are persisted and LOCKBUSY clears. -/
  | nfcLockPersisted
  /-- CONSOLE_CHARACTER (R856): A received character is appended, edits the line or discards it, and is echoed. -/
  | consoleCharacter (ses : Fin 5) (ch : Byte) (framing : Bool)
  /-- CONSOLE_BREAK (R856): A break discards the line, and one of 250 ms or more ends the session. -/
  | consoleBreak (ses : Fin 5) (long : Bool)
  /-- CONSOLE_LINE (R859): A line end is checked, replayed or executed in line-end order, and its reply queued. -/
  | consoleLine (env : ConEnv)
  /-- HELP (R872): Lists the verbs or one verb's syntax. -/
  | help (ses : Fin 5) (args : List Text)
  /-- VER (R872): Reports the grade, ROM, slot, SEQ and serial. -/
  | ver (ses : Fin 5) (args : List Text)
  /-- MODE (R872): Reports the mode, integrity and cause. -/
  | mode (ses : Fin 5) (args : List Text)
  /-- STATUS (R872): Reports the safety, patrol, gate and ledger status. -/
  | status (ses : Fin 5) (args : List Text)
  /-- REPORT (R872): Repeats the start-up report. -/
  | report (ses : Fin 5) (args : List Text)
  /-- DET (R872): Reports WRD_DET, WRD_FREC and GLOSS. -/
  | det (ses : Fin 5) (args : List Text)
  /-- LOG (R872): Lists warden records. -/
  | log (ses : Fin 5) (args : List Text)
  /-- LIFE (R872): Reports the life predictions. -/
  | life (ses : Fin 5) (args : List Text)
  /-- WEAR (R872): Reports the Spenik wear figures. -/
  | wear (ses : Fin 5) (args : List Text)
  /-- VC (R872): Reports violation counters. -/
  | vc (ses : Fin 5) (args : List Text)
  /-- TIME (R872): Reports WRD_TIME, DAY and CDATE. -/
  | time (ses : Fin 5) (args : List Text)
  /-- SESSION (R872): Reports the session, helm and unlock state. -/
  | session (ses : Fin 5) (args : List Text)
  /-- QUIET (R857): Sets the session's QUIET flag on or off. -/
  | quiet (ses : Fin 5) (args : List Text)
  /-- NOTIFY (R866): Sets the session's NOTIFY flag on or off. -/
  | notify (ses : Fin 5) (args : List Text)
  /-- BAUD (R872): Changes the UART rate after the reply. -/
  | baud (ses : Fin 5) (args : List Text)
  /-- HELM_TAKE (R868): Takes the helm if it is free. -/
  | helmTake (ses : Fin 5) (args : List Text)
  /-- HELM_FREE (R868): Frees the helm. -/
  | helmFree (ses : Fin 5) (args : List Text)
  /-- HELM_IDLE_EXPIRY (R868): HELMIDLE minutes without a completed line free the helm. -/
  | helmIdleExpiry
  /-- UNLOCK_CHALLENGE (R870): UNLOCK without an argument issues a 32-bit challenge. -/
  | unlockChallenge (ses : Fin 5) (args : List Text)
  /-- UNLOCK_RESPONSE (R870): UNLOCK with a response checks the HMAC and unlocks, or counts towards lockout. -/
  | unlockResponse (ses : Fin 5) (args : List Text)
  /-- CHALLENGE_EXPIRY (R870): A challenge expires after 120 s. -/
  | challengeExpiry
  /-- LOCKOUT_EXPIRY (R871): The 60 s unlock lockout ends. -/
  | lockoutExpiry
  /-- LOCK (R872): Ends the session's unlock. -/
  | lock (ses : Fin 5) (args : List Text)
  /-- DATE (R872): Writes GRM_DATE.DAY. -/
  | date (ses : Fin 5) (args : List Text)
  /-- EVAL (R872): Runs a life evaluation and replies at its end. -/
  | eval (ses : Fin 5) (args : List Text)
  /-- HOLD (R872): Issues a hold command to SAFE HOLD. -/
  | hold (ses : Fin 5) (args : List Text)
  /-- RESET (R873): Replies, then starts a warm reset. -/
  | reset (ses : Fin 5) (args : List Text)
  /-- SERVICE_ENTER (R872): Moves SAFE HOLD to SERVICE (T7). -/
  | serviceEnter (ses : Fin 5) (args : List Text)
  /-- SERVICE_EXIT (R873): Leaves SERVICE by a warm reset. -/
  | serviceExit (ses : Fin 5) (args : List Text)
  /-- FUSE_READ (R872): Reads fuse rows from the array. -/
  | fuseRead (ses : Fin 5) (args : List Text)
  /-- FUSE_BLOW (R874): Blows the permitted bits of a fuse row and reads the row back. -/
  | fuseBlow (ses : Fin 5) (args : List Text) (env : ConEnv)
  /-- IMAGE (R875): Reports the state of the image update. -/
  | image (ses : Fin 5) (args : List Text) (env : ConEnv)
  /-- IMAGE_BEGIN (R875): Opens the port that is not in use and sets WINOFF. -/
  | imageBegin (ses : Fin 5) (args : List Text)
  /-- IMAGE_ERASE (R875): Starts a background erase of 4 KiB sectors. -/
  | imageErase (ses : Fin 5) (args : List Text)
  /-- IMAGE_ERASE_END (R875): The background erase finishes its last sector. -/
  | imageEraseEnd (timeout : Option Nat)
  /-- IMAGE_DATA (R875): Programs up to 64 bytes and verifies them. -/
  | imageData (ses : Fin 5) (args : List Text) (env : ConEnv)
  /-- IMAGE_END (R875): Checks the new image, closes it and invalidates the window. -/
  | imageEnd (ses : Fin 5) (args : List Text) (env : ConEnv)
  /-- IMAGE_ABORT (R875): Closes the image and invalidates the window. -/
  | imageAbort (ses : Fin 5) (args : List Text)
  /-- PATROL_PAUSE (R872): Writes WRD_PCTL.PAUSE from the console. -/
  | patrolPause (ses : Fin 5) (args : List Text)
  /-- PATROL_INJECT (R872): Writes WRD_PINJ from the console. -/
  | patrolInject (ses : Fin 5) (args : List Text)
  /-- LEDGER_ACK (R872): Clears DAMAGED in SPK_STAT and SPK_RECOV. -/
  | ledgerAck (ses : Fin 5) (args : List Text)
  /-- USBTEST (R872): Writes USB_CTL.TESTEN. -/
  | usbtest (ses : Fin 5) (args : List Text)
  /-- IRT_DB_WRITE (R903): Sets doorbells and records the setter in IRT_DBRING. -/
  | irtDbWrite (who : Tandem) (val : BitVec 32)
  /-- IRT_DBCLR_WRITE (R903): Clears doorbells. -/
  | irtDbclrWrite (who : Tandem) (val : BitVec 32)
  /-- IRT_SW_WRITE (R903): Sets software-raised sources. -/
  | irtSwWrite (who : Tandem) (val : BitVec 32)
  /-- IRT_SWCLR_WRITE (R903): Clears software-raised sources. -/
  | irtSwclrWrite (who : Tandem) (val : BitVec 32)
  /-- IRT_ROUTE_WRITE (R901): Writes a source's route, or is denied and counted. -/
  | irtRouteWrite (who : Tandem) (k : Fin 256) (val : BitVec 32)
  /-- IRT_VCCLR_WRITE (R906): Clears one or all violation counters with the correct key. -/
  | irtVcclrWrite (who : Tandem) (val : BitVec 32)
  /-- SOURCE_PENDING (R899): A source's condition becomes true or ends, and within 20 ns it becomes pending or stops being
  pending at the router. -/
  | sourcePending (k : Fin 256)
  /-- REGISTER_WRITE (R9): A write to a register with no row of its own sets its RW fields, clears W1C bits and sets W1S
  bits. -/
  | registerWrite (who : Tandem) (blk : Fin 17) (off : BitVec 16) (val : W64)
  /-- REGISTER_READ_CLEAR (R9): A load of a register with an RC field returns the field and then clears it, which can
  deassert a source such as PIO_LOST. -/
  | registerReadClear (who : Tandem) (blk : Fin 17) (off : BitVec 16)
  /-- CONSOLE_REPLY_END (R873): The last stop bit of a reply leaves a UART, or 100 ms pass on the USB session, which applies
  a pending BAUD change or starts the warm reset of RESET or SERVICE EXIT. -/
  | consoleReplyEnd (ses : Fin 5)
  /-- UART_BREAK_END (R865): The line returns high after a break of 250 ms or more, and the ended UART session restarts and
  sends its start-up report with RESTART BREAK. -/
  | uartBreakEnd (ses : Fin 5)
  /-- VIN_SENSE_RELEASE (R622): VIN_SENSE rises above 0.620 V, setting VINOK and letting the T10 power-good count run. -/
  | vinSenseRelease
  /-- HOLDOK_RISE (R623): VHOLD_SENSE rises above its threshold and SPK_STAT.HOLDOK returns to 1. -/
  | holdokRise
  /-- PIO_IN_EDGE (R706): A synchronised edge on a pin in a non-debounced input, row or column function changes PIO_IN and
  PIO_DEB and may set its PIO_EVT bit. -/
  | pioInEdge (n : Fin 512) (level : Bool)
  /-- SCRUB_PASS_END (R662): A scrub pass ends, incrementing its pass counter and, for the Spenik store, setting the
  retention margin m and making the weak-frame refreshes. -/
  | scrubPassEnd (mem : ScrubMem) (found : List ScrubHit) (weakWords : Nat) (weakFrames : List WeakFrame)
  /-- CAN_ARBITRATION_LOST (R800): A mailbox's frame loses bus arbitration and returns to PENDING without counting an error. -/
  | canArbitrationLost (c : Side)
  deriving DecidableEq, Repr

end Sys2Proof
end

