-- ==== Sys2Proof/Decode.lean ====
section
/-! DEFINITION. The instruction words: which of them are reserved, and of which kind (R274 to R278, R295, R304, R331, R356,
R491, R509, R516), and the command that a word spells. -/

namespace Sys2Proof

def Tandem.isG : Tandem → Bool
  | .g => true | _ => false

/-- The main tandem's letter, if it is one. -/
def Tandem.side : Tandem → Option Side
  | .a => some .a | .b => some .b | .g => none

end Sys2Proof

namespace Sys2Proof.Machine

/-! Reserved encodings. -/

/-- A short operation with a reserved SOP or a non-zero bit in a field shown as 0 (R278). -/
def shortBad (x : Nat) : Bool :=
  let sop := fld x 11 4
  let r := fld x 0 11
  if sop = 0 then r != 0
  else if sop ≤ 7 then r % 2 != 0
  else if sop = 0xD then r % 8 != 0
  else sop == 0xF

/-- Why a long word is reserved: a reserved major, sub-code or combination (KIND 0); an unassigned system register or an
encoding reserved on tandem G (KIND 3); a non-zero reserved or unused field (KIND 1). [log 33 DEDUCED] -/
structure Why where
  k0 : Bool
  k3 : Bool
  k1 : Bool
  deriving DecidableEq, Repr

/-- No kind of reserved encoding. [log 32 DEDUCED, 34 DEDUCED] -/
def whyNot : Why := ⟨false, false, false⟩
def why1 (b : Bool) : Why := ⟨false, false, b⟩

/-- The system registers that a card defines on a tandem (R303, R370, R509 and the cards). -/
def sregOn (t : Tandem) (n : Nat) : Bool :=
  n == 0x000 || n == 0x020 || (0x040 ≤ n && n ≤ 0x043) || (0x048 ≤ n && n ≤ 0x04C) || (0x080 ≤ n && n ≤ 0x082) ||
    (0x144 ≤ n && n ≤ 0x146) || n == 0x149 ||
    (!t.isG && (n == 0x0C0 || n == 0x0C1 || (0x100 ≤ n && n ≤ 0x105) || (0x140 ≤ n && n ≤ 0x143) || n == 0x148 ||
      (0x180 ≤ n && n ≤ 0x188)))

def whyAlu (t : Tandem) (w : Nat) : Why :=
  let f := fld w 0 10
  let gs2 := fld w 10 5
  let ok := f ≤ 0x11 || (0x18 ≤ f && f ≤ 0x1B) || (0x20 ≤ f && f ≤ 0x26) || (0x30 ≤ f && f ≤ 0x34)
  ⟨!ok, t.isG && (f == 0x33 || f == 0x34),
    ((0x20 ≤ f && f ≤ 0x26) || f == 0x31 || f == 0x32) && gs2 != 0 || f == 0x30 && bitOf w 14 ||
      f == 0x33 && (gs2 != 0 || bitOf w 19) || f == 0x34 && (fld w 15 5 != 0 || bitOf w 24)⟩

def whyCap (w : Nat) : Why :=
  let f := fld w 5 6
  let s2 := fld w 11 5
  let cs := fld w 16 4
  let p := bitOf w 4
  let dTop := bitOf w 24
  let ok := (f ≤ 0x0A && f != 0x04) || (0x10 ≤ f && f ≤ 0x16) || (0x18 ≤ f && f ≤ 0x1A)
  let writesC := f ≤ 0x0A
  ⟨!ok, false,
    fld w 0 4 != 0 || (p && f != 0x00 && f != 0x03) || (f == 0x00 && p && cs != 0) || (writesC && dTop) ||
      ((f == 0x00 || f == 0x07 || f == 0x0A || (0x10 ≤ f && f ≤ 0x16)) && s2 != 0) ||
      ((f == 0x08 || f == 0x09 || f == 0x18) && bitOf w 15) || ((f == 0x19 || f == 0x1A) && cs != 0)⟩

def whySweep (w : Nat) : Why :=
  let op := fld w 22 3
  let sz := fld w 20 2
  let cd := fld w 16 4
  let cs := fld w 12 4
  let gc := fld w 7 5
  let gv := fld w 2 5
  let p := bitOf w 1
  ⟨4 < op || (op == 0 && sz == 3) || (op != 0 && 2 ≤ sz) || (gc == gv && gc != 0) || ((op == 0 || op == 2) && cd == cs) ||
      (op == 1 && p && sz == 0),
    false,
    bitOf w 0 || (p && op != 1 && op != 3) || (op == 0 && gv != 0) || (op == 1 && cs != 0) || (op == 1 && p && gv != 0) ||
      (op == 3 && cd != 0) || (op == 4 && 4 ≤ cd)⟩

def whyFp (t : Tandem) (w : Nat) : Why :=
  let f := fld w 0 5
  let rm := fld w 5 3
  let fc := 0x18 ≤ f && f ≤ 0x1B
  let ok := f ≤ 0x0E || fc
  let usesRm := f ≤ 0x07 || (0x0C ≤ f && f ≤ 0x0E)
  ⟨!ok || (!fc && (rm == 5 || rm == 6)), t.isG,
    if fc then rm != 0 || fld w 9 3 != 0 || (f == 0x1B && fld w 12 4 != 0)
    else (!usesRm && rm != 0) || (!(0x05 ≤ f && f ≤ 0x07) && fld w 9 4 != 0) ||
      ((f == 0x04 || f == 0x0A || f == 0x0B || (0x0C ≤ f && f ≤ 0x0E)) && fld w 13 4 != 0)⟩

def whyFix (w : Nat) : Why :=
  let f := fld w 0 4
  ⟨6 ≤ f, false, (fld w 4 6 != 0 && f != 2 && f != 3) || ((f == 3 || f == 4 || f == 5) && fld w 10 5 != 0)⟩

def whyMod (w : Nat) : Why :=
  let f := fld w 12 3
  let sz := fld w 9 3
  ⟨3 ≤ f || (f == 0 && sz == 7) || ((f == 1 || f == 2) && 4 ≤ sz), false, fld w 0 9 != 0 || (f == 2 && fld w 20 5 != 0)⟩

def whyTlb (t : Tandem) (w : Nat) : Why :=
  let f := fld w 21 4
  let gd := fld w 16 5
  let gs := fld w 11 5
  ⟨t.isG || 7 ≤ f, false,
    fld w 0 11 != 0 || ((f == 2 || f == 4 || f == 5 || f == 6) && gd != 0) || ((f == 1 || f == 3 || f == 6) && gs != 0)⟩

def whySched (t : Tandem) (w : Nat) : Why :=
  let f := fld w 21 4
  ⟨t.isG || 7 ≤ f, false,
    fld w 0 8 != 0 || ((f == 0 || f == 1 || f == 5 || f == 6) && fld w 8 13 != 0) ||
      ((f == 2 || f == 4) && fld w 8 8 != 0)⟩

/-- Why a long word is reserved on tandem `t`. [log 32 DEDUCED] -/
def whyLong (t : Tandem) (w : Nat) : Why :=
  let m := fld w 25 6
  if m = 0x00 then whyNot
  else if m = 0x01 then whyAlu t w
  else if m ≤ 0x05 || m = 0x07 || m = 0x08 || m = 0x09 then whyNot
  else if m = 0x06 then why1 (fld w 6 7 != 0)
  else if m = 0x0A then why1 (fld w 16 2 != 0)
  else if m = 0x10 then ⟨fld w 13 3 == 7, false, false⟩
  else if m = 0x11 then ⟨4 ≤ fld w 13 3, false, false⟩
  else if m = 0x12 then ⟨fld w 8 3 == 7, false, fld w 0 6 != 0⟩
  else if m = 0x13 then ⟨4 ≤ fld w 8 3, false, fld w 0 6 != 0⟩
  else if m = 0x14 then ⟨false, t.isG, fld w 13 3 != 0⟩
  else if m = 0x15 || m = 0x16 then why1 (bitOf w 20 || fld w 12 4 != 0)
  else if m = 0x17 then ⟨2 ≤ fld w 20 5, false, fld w 13 3 != 0⟩
  else if 0x20 ≤ m && m ≤ 0x23 then whyNot
  else if m = 0x24 then why1 (fld w 0 15 != 0)
  else if m = 0x25 then why1 (bitOf w 20 || fld w 0 16 != 0)
  else if m = 0x26 then ⟨4 ≤ fld w 22 3, false, fld w 20 2 != 0 || fld w 0 16 != 0⟩
  else if m = 0x27 then ⟨false, !sregOn t (fld w 0 12), fld w 12 7 != 0⟩
  else if m = 0x28 then whyCap w
  else if m = 0x29 || m = 0x2A then whyNot
  else if m = 0x30 then whySweep w
  else if m = 0x31 then ⟨6 ≤ fld w 12 3, false, (fld w 10 2 != 0 && 2 ≤ fld w 12 3) || fld w 0 10 != 0⟩
  else if m = 0x32 then ⟨3 ≤ fld w 8 3, false, (fld w 8 3 == 0 || fld w 8 3 == 2) && fld w 11 5 != 0⟩
  else if m = 0x33 then why1 (fld w 2 8 != 0)
  else if m = 0x34 then whyFp t w
  else if m = 0x35 then whyFix w
  else if m = 0x36 then whyMod w
  else if m = 0x37 then ⟨4 ≤ fld w 22 3, false, fld w 0 22 != 0⟩
  else if m = 0x38 then whyTlb t w
  else if m = 0x39 then whySched t w
  else ⟨true, false, false⟩

/-- EMUWORD.KIND and HALF of a word, where it is a reserved encoding (R304). [log 34 DEDUCED] -/
def reservedKind (t : Tandem) (w : Nat) : Option (Nat × Bool) :=
  if bitOf w 31 then
    let b1 := shortBad (fld w 16 15)
    let b2 := shortBad (fld w 1 15)
    if bitOf w 0 || b1 || b2 then some (2, !bitOf w 0 && !b1 && b2) else none
  else
    let y := whyLong t w
    if y.k0 then some (0, false) else if y.k3 then some (3, false) else if y.k1 then some (1, false) else none

/-! What a word spells. -/

def regAt (w lo : Nat) : Reg := Fin.ofNat 32 (fld w lo 5)
def cregAt (w lo : Nat) : CReg := Fin.ofNat 16 (fld w lo 4)
def fregAt (w lo : Nat) : FReg := Fin.ofNat 16 (fld w lo 4)
def immAt (n w lo : Nat) : BitVec n := BitVec.ofNat n (fld w lo n)

/-- A short operation (Table 6-4). -/
def shortAt (x : Nat) : ShortOp :=
  let d := regAt x 6
  let s := regAt x 1
  match fld x 11 4 with
  | 0x1 => .mov d s
  | 0x2 => .add d s
  | 0x3 => .sub d s
  | 0x4 => .and d s
  | 0x5 => .or d s
  | 0x6 => .xor d s
  | 0x7 => .sll d s
  | 0x8 => .addi d (immAt 6 x 0)
  | 0x9 => .movi d (immAt 6 x 0)
  | 0xA => .slli d (immAt 6 x 0)
  | 0xB => .srli d (immAt 6 x 0)
  | 0xC => .srai d (immAt 6 x 0)
  | 0xD => .cmov (cregAt x 7) (cregAt x 3)
  | 0xE => .cinci (cregAt x 7) (immAt 7 x 0)
  | _ => .nop

/-- The ALU group (Table 6-5). -/
def aluAt (t : Tandem) (w : Nat) : Option Instr :=
  let d := regAt w 20
  let a := regAt w 15
  let b := regAt w 10
  match fld w 0 10 with
  | 0x000 => some (.add t d a b)
  | 0x001 => some (.sub t d a b)
  | 0x002 => some (.and_ t d a b)
  | 0x003 => some (.or_ t d a b)
  | 0x004 => some (.xor_ t d a b)
  | 0x005 => some (.andn t d a b)
  | 0x006 => some (.orn t d a b)
  | 0x007 => some (.xnor t d a b)
  | 0x008 => some (.sll t d a b)
  | 0x009 => some (.srl t d a b)
  | 0x00A => some (.sra t d a b)
  | 0x00B => some (.ror t d a b)
  | 0x00C => some (.slt t d a b)
  | 0x00D => some (.sltu t d a b)
  | 0x00E => some (.min t d a b)
  | 0x00F => some (.max t d a b)
  | 0x010 => some (.minu t d a b)
  | 0x011 => some (.maxu t d a b)
  | 0x018 => some (.mul t d a b)
  | 0x019 => some (.mulhs t d a b)
  | 0x01A => some (.mulhu t d a b)
  | 0x01B => some (.mulhsu t d a b)
  | 0x020 => some (.clz t d a)
  | 0x021 => some (.ctz t d a)
  | 0x022 => some (.popc t d a)
  | 0x023 => some (.sextb t d a)
  | 0x024 => some (.sexth t d a)
  | 0x025 => some (.sextw t d a)
  | 0x026 => some (.zextw t d a)
  | 0x030 => some (.stag t d a (immAt 4 w 10))
  | 0x031 => some (.gtag t d a)
  | 0x032 => some (.mov t d a)
  | 0x033 => t.side.map fun m => .movfg m d (fregAt w 15)
  | 0x034 => t.side.map fun m => .movgf m (fregAt w 20) b
  | _ => none

/-- A data access by its size code (Table 6-6). -/
def dataAt (t : Tandem) (store : Bool) (sz : Nat) (g : Reg) (c : CReg) (ad : MemAddr) : Option Instr :=
  match store, sz with
  | false, 0 => some (.lbu t g c ad)
  | false, 1 => some (.lhu t g c ad)
  | false, 2 => some (.lwu t g c ad)
  | false, 3 => some (.ld t g c ad)
  | false, 4 => some (.lb t g c ad)
  | false, 5 => some (.lh t g c ad)
  | false, 6 => some (.lw t g c ad)
  | true, 0 => some (.sb t g c ad)
  | true, 1 => some (.sh t g c ad)
  | true, 2 => some (.sw t g c ad)
  | true, 3 => some (.sd t g c ad)
  | _, _ => none

/-- Compare-and-branch in the B form (Table 6-8). -/
def branchAt (t : Tandem) (w : Nat) : Instr :=
  let a := regAt w 20
  let b := regAt w 15
  let d := immAt 12 w 0
  match fld w 12 3 with
  | 0 => .beq t a b d
  | 1 => .bne t a b d
  | 2 => .blt t a b d
  | 3 => .bge t a b d
  | 4 => .bltu t a b d
  | 5 => .bgeu t a b d
  | 6 => .bset t a b d
  | _ => .bclr t a b d

/-- Compare-and-branch in the BI form (Table 6-8). -/
def branchImmAt (t : Tandem) (w : Nat) : Instr :=
  let a := regAt w 20
  let i := immAt 8 w 12
  let d := immAt 9 w 0
  match fld w 9 3 with
  | 0 => .beqi t a i d
  | 1 => .bnei t a i d
  | 2 => .blti t a i d
  | 3 => .bgei t a i d
  | 4 => .bltui t a i d
  | 5 => .bgeui t a i d
  | 6 => .bseti t a i d
  | _ => .bclri t a i d

/-- SYSRD and SYSWR, whose writes of VTAB, VRLD, IECTL, ESTAT and XCTL have rows of their own (R302, R428, R442, R473, R519). -/
def sregAt (t : Tandem) (w : Nat) : Option Instr :=
  let g := regAt w 20
  if !bitOf w 19 then some (.sysrd t g (immAt 12 w 0))
  else match fld w 0 12 with
    | 0x043 => some (.estatWrite t g)
    | 0x048 => some (.iectlWrite t g)
    | 0x049 => some (.vtabWrite t g none [])
    | 0x04A => some (.vrldWrite t g false)
    | 0x102 => t.side.map fun m => .xctlWrite m g
    | _ => some (.syswr t (immAt 12 w 0) g)

/-- The capability group (Table 6-7). -/
def capAt (t : Tandem) (w : Nat) : Option Instr :=
  let gd := regAt w 20
  let cd := cregAt w 20
  let cs := cregAt w 16
  let gs := regAt w 11
  let ca := cregAt w 11
  match fld w 5 6 with
  | 0x00 => some (.cmov t cd (if bitOf w 4 then none else some cs))
  | 0x01 => some (.cinc t cd cs gs)
  | 0x02 => some (.csetcur t cd cs gs)
  | 0x03 => some (if bitOf w 4 then .knarrowX t cd cs gs else .knarrow t cd cs gs)
  | 0x05 => some (.candperm t cd cs gs)
  | 0x06 => some (.csetring t cd cs gs)
  | 0x07 => some (.ktether t cd cs)
  | 0x08 => some (.cseal t cd cs ca)
  | 0x09 => some (.cunseal t cd cs ca)
  | 0x0A => some (.cdur t cd cs)
  | 0x10 => some (.cgetbase t gd cs)
  | 0x11 => some (.cgetlen t gd cs)
  | 0x12 => some (.cgettop t gd cs)
  | 0x13 => some (.cgetperm t gd cs)
  | 0x14 => some (.cgettype t gd cs)
  | 0x15 => some (.cgetcur t gd cs)
  | 0x16 => some (.cgetstate t gd cs)
  | 0x18 => some (.csubset t gd cs ca)
  | 0x19 => some (.kfitlen t gd gs)
  | 0x1A => some (.kfitmask t gd gs)
  | _ => none

/-- SWEEP (Tables 7-1 and 7-2); a word that nothing interrupts runs to its end. -/
def sweepAt (t : Tandem) (w : Nat) : Option Instr :=
  let cd := cregAt w 16
  let cs := cregAt w 12
  let gc := regAt w 7
  let gv := regAt w 2
  let s3 : Fin 3 := Fin.ofNat 3 (fld w 20 2)
  let s2 : Fin 2 := Fin.ofNat 2 (fld w 20 1)
  match fld w 22 3, bitOf w 1 with
  | 0, _ => some (.sweepCopy t s3 cd cs gc none)
  | 1, false => some (.sweepFill t s2 cd gc gv none)
  | 1, true => some (.sweepPoison t cd gc none)
  | 2, _ => some (.sweepCmp t s2 cd cs gc gv none)
  | 3, false => some (.sweepFind t s2 cs gc gv none)
  | 3, true => some (.sweepFindne t s2 cs gc gv none)
  | 4, _ => some (.sweepCrc t s2 cs gc gv (Fin.ofNat 4 (fld w 16 2)) none)
  | _, _ => none

/-- RM (R348). -/
def rmAt (w : Nat) : RM :=
  match fld w 5 3 with
  | 0 => .rne
  | 1 => .rtz
  | 2 => .rdn
  | 3 => .rup
  | 4 => .rmm
  | _ => .dyn

/-- Floating point (Tables 7-1 and 7-4). -/
def fpAt (m : Side) (w : Nat) : Option Instr :=
  let p : FPrec := if bitOf w 8 then .f32 else .f64
  let rm := rmAt w
  let fd := fregAt w 21
  let a := fregAt w 17
  let b := fregAt w 13
  let c := fregAt w 9
  let gd := regAt w 20
  let x := fregAt w 16
  let y := fregAt w 12
  match fld w 0 5 with
  | 0x00 => some (.fadd m p rm fd a b)
  | 0x01 => some (.fsub m p rm fd a b)
  | 0x02 => some (.fmul m p rm fd a b)
  | 0x03 => some (.fdiv m p rm fd a b)
  | 0x04 => some (.fsqrt m p rm fd a)
  | 0x05 => some (.fmadd m p rm fd a b c)
  | 0x06 => some (.fmsub m p rm fd a b c)
  | 0x07 => some (.fnmadd m p rm fd a b c)
  | 0x08 => some (.fmin m p fd a b)
  | 0x09 => some (.fmax m p fd a b)
  | 0x0A => some (.fabs m p fd a)
  | 0x0B => some (.fneg m p fd a)
  | 0x0C => some (.fcvtp m p rm fd a)
  | 0x0D => some (.fcvtfi m p rm fd a)
  | 0x0E => some (.fcvtif m p rm fd a)
  | 0x18 => some (.feq m p gd x y)
  | 0x19 => some (.flt m p gd x y)
  | 0x1A => some (.fle m p gd x y)
  | 0x1B => some (.fclass m p gd x)
  | _ => none

/-- Bit, atomic, divider, fixed-point, modulo and fence words (Tables 7-1, 7-3 and 7-5, R339, R344, R352, R353). -/
def specialAt (t : Tandem) (w : Nat) : Option Instr :=
  let d := regAt w 20
  let a := regAt w 15
  let b := regAt w 10
  let k : Fin 4 := Fin.ofNat 4 (fld w 10 2)
  let cs := cregAt w 16
  let gs := regAt w 11
  let off := immAt 8 w 0
  let fr := immAt 6 w 4
  let md : Fin 2 := Fin.ofNat 2 (fld w 15 1)
  let s4 : Fin 4 := Fin.ofNat 4 (fld w 9 3)
  match fld w 25 6 with
  | 0x31 =>
    match fld w 12 3 with
    | 0 => some (.crcb t d a k)
    | 1 => some (.crcw t d a k)
    | 2 => some (.par t d a)
    | 3 => some (.brev t d a)
    | 4 => some (.brevb t d a)
    | 5 => some (.bswap t d a)
    | _ => none
  | 0x32 =>
    match fld w 8 3 with
    | 0 => some (.lr t d cs off)
    | 1 => some (.sc t d gs cs off)
    | 2 => some (.tas t d cs off)
    | _ => none
  | 0x33 =>
    match fld w 0 2 with
    | 0 => some (.div t d a b)
    | 1 => some (.divu t d a b)
    | 2 => some (.rem t d a b)
    | _ => some (.remu t d a b)
  | 0x35 =>
    match fld w 0 4 with
    | 0 => some (.qadd t d a b)
    | 1 => some (.qsub t d a b)
    | 2 => some (.qmul t d a b fr)
    | 3 => some (.qshl t d a fr)
    | 4 => some (.qabs t d a)
    | 5 => some (.qneg t d a)
    | _ => none
  | 0x36 =>
    match fld w 12 3 with
    | 0 => some (.mld t d cs md (Fin.ofNat 7 (fld w 9 3)))
    | 1 => some (.mst t d cs md s4)
    | 2 => some (.mstep t cs md s4)
    | _ => none
  | 0x37 =>
    match fld w 22 3 with
    | 0 => some (.fence t)
    | 1 => some (.pfence t)
    | 2 => some (.iflush t)
    | 3 => some (.tbar t)
    | _ => none
  | _ => none

/-- TLB instructions (Table 11-2) and locker and scheduler instructions (Table 10-4). -/
def mainAt (m : Side) (w : Nat) : Option Instr :=
  let d := regAt w 16
  let gs := regAt w 11
  match fld w 25 6, fld w 21 4 with
  | 0x38, 0 => some (.xset m d gs)
  | 0x38, 1 => some (.xsetn m d)
  | 0x38, 2 => some (.xread m gs)
  | 0x38, 3 => some (.xlook m d)
  | 0x38, 4 => some (.xkill m gs)
  | 0x38, 5 => some (.xkilla m gs)
  | 0x38, 6 => some (.xkillall m)
  | 0x39, 0 => some (.yield m)
  | 0x39, 1 => some (.wait m)
  | 0x39, 2 => some (.wake m d)
  | 0x39, 3 => some (.ctxinit m d (cregAt w 12) (cregAt w 8))
  | 0x39, 4 => some (.ctxkill m d)
  | 0x39, 5 => some (.frsv m)
  | 0x39, 6 => some (.frld m)
  | _, _ => none

/-- A long word that is no reserved encoding (Tables 6-2 and 6-3). -/
def longAt (t : Tandem) (w : Nat) : Option Instr :=
  let d := regAt w 20
  let a := regAt w 15
  let i15 := immAt 15 w 0
  let sh := immAt 6 w 0
  let cs := cregAt w 16
  let off := immAt 13 w 0
  let c4 := cregAt w 21
  let m := fld w 25 6
  match m with
  | 0x00 => some (.ill t)
  | 0x01 => aluAt t w
  | 0x02 => some (.addi t d a i15)
  | 0x03 => some (.andi t d a i15)
  | 0x04 => some (.ori t d a i15)
  | 0x05 => some (.xori t d a i15)
  | 0x06 =>
    match fld w 13 2 with
    | 0 => some (.slli t d a sh)
    | 1 => some (.srli t d a sh)
    | 2 => some (.srai t d a sh)
    | _ => some (.rori t d a sh)
  | 0x07 => some (.slti t d a i15)
  | 0x08 => some (.sltiu t d a i15)
  | 0x09 => some (.movi t d (immAt 20 w 0))
  | 0x0A => some (.insh t d (immAt 2 w 18) (immAt 16 w 0))
  | 0x10 => dataAt t false (fld w 13 3) d cs (.imm off)
  | 0x11 => dataAt t true (fld w 13 3) d cs (.imm off)
  | 0x12 => dataAt t false (fld w 8 3) d cs (.idx (regAt w 11) (immAt 2 w 6))
  | 0x13 => dataAt t true (fld w 8 3) d cs (.idx (regAt w 11) (immAt 2 w 6))
  | 0x14 => t.side.map fun m => if bitOf w 20 then .fst m (fregAt w 21) cs off else .fld m (fregAt w 21) cs off
  | 0x15 => some (.clc t c4 cs (immAt 12 w 0))
  | 0x16 => some (.csc t c4 cs (immAt 12 w 0))
  | 0x17 => some (if fld w 20 5 = 0 then .spois t cs off else .clrp t cs off)
  | 0x20 => some (branchAt t w)
  | 0x21 => some (branchImmAt t w)
  | 0x22 => some (.j t (immAt 25 w 0))
  | 0x23 => some (.jal t (immAt 25 w 0))
  | 0x24 => some (.jalr t d a)
  | 0x25 => some (.jalc t c4 cs)
  | 0x26 =>
    match fld w 22 3 with
    | 0 => some (.wcall t cs)
    | 1 => some (.wret t cs)
    | 2 => some (.eret t cs)
    | _ => some (.eretS t cs)
  | 0x27 => sregAt t w
  | 0x28 => capAt t w
  | 0x29 => some (.cinci t c4 (cregAt w 17) (immAt 17 w 0))
  | 0x2A => some (.knarrowi t c4 (cregAt w 17) (immAt 17 w 0))
  | 0x30 => sweepAt t w
  | 0x34 => t.side.bind fun m => fpAt m w
  | 0x38 => t.side.bind fun m => mainAt m w
  | 0x39 => t.side.bind fun m => mainAt m w
  | _ => specialAt t w

end Sys2Proof.Machine

namespace Sys2Proof

/-- The command that an instruction word of tandem `t` spells: a reserved encoding spells EMULATION_TRAP (R272, R304). What a
command carries beside its word (an interruption, an error met) is absent. [log 2 DEDUCED] -/
def decodeWord (t : Tandem) (w : Nat) : Instr :=
  let trap : Instr := .emulationTrap t (BitVec.ofNat 32 w)
  if (Machine.reservedKind t w).isSome then trap
  else if Machine.bitOf w 31 then .pairWord t (Machine.shortAt (Machine.fld w 16 15)) (Machine.shortAt (Machine.fld w 1 15))
  else (Machine.longAt t w).getD trap

/-- The command that a table word spells: no row of the table gives bits, and a word of 32 bits is an instruction word of
tandem A. [log 2 DEDUCED] -/
def decodeTableWord (nbits w : Nat) : Option Instr := if nbits = 32 then some (decodeWord .a (w % 2 ^ 32)) else none

end Sys2Proof
end

