-- ==== Sys2Proof/Machine/Crc.lean ====
section
/-! DEFINITION. The CRC step of R337, and the CRC-32C of R963 and R793. -/

namespace Sys2Proof.Machine

/-- A CRC configuration: width, polynomial in normal form, reflected. -/
structure CrcCfg where
  width : Nat
  poly : Nat
  refl : Bool
  deriving DecidableEq, Repr

/-- CRC-32C, configuration 3. -/
def crc32c : CrcCfg := ⟨32, 0x1EDC6F41, true⟩

/-- One of the eight shifts of a byte's step (R337). -/
def crcShift (c : CrcCfg) (x : Nat) : Nat :=
  if c.refl then
    if x % 2 = 1 then (x / 2) ^^^ revBits c.width c.poly else x / 2
  else if bitOf x (c.width - 1) then ((x * 2) ^^^ c.poly) % 2 ^ c.width
  else x * 2 % 2 ^ c.width

/-- Feed one byte (R337). -/
def crcByte (c : CrcCfg) (x : Nat) (b : Nat) : Nat :=
  let y := if c.refl then x ^^^ b else x ^^^ (b * 2 ^ (c.width - 8))
  (List.range 8).foldl (fun y _ => crcShift c y) y

def crcBytes (c : CrcCfg) (x : Nat) (bs : List Byte) : Nat := bs.foldl (fun x b => crcByte c x b.toNat) x

/-- CRC-32C with initial value and final XOR of all ones (R963, R793). -/
def crc32cOf (bs : List Byte) : Nat := crcBytes crc32c 0xFFFFFFFF bs ^^^ 0xFFFFFFFF

end Sys2Proof.Machine
end

