-- ==== Sys2Proof/Config.lean ====
section
/-! DEFINITION. What the spec leaves open: uninterpreted constants. Nothing in Lean can evaluate them. -/

namespace Sys2Proof

/-- The free values. Each use takes `free n` for the `n` the state's own counter `free` holds, and advances the counter.
[log 6 DESIGN CHOICE] -/
opaque Config.free : Nat → W64

/-- The fixed contents of the boot ROM by word index: its code belongs to Felsadric (R43, R561). [log 48 DESIGN CHOICE] -/
opaque Config.romBits : Nat → W64

/-- Whether a boot ROM word carries INSN; otherwise it carries INT (Table 1-5, R561). [log 48 DESIGN CHOICE] -/
opaque Config.romInsn : Nat → Bool

/-- Whether tininess is detected after rounding (IEEE 754-2019, 7.5, leaves the choice; R347 adds none). [log 30 DESIGN
CHOICE] -/
opaque Config.tinyAfter : Bool

/-- Whether a fused multiply of zero and infinity with a quiet NaN addend signals invalid (IEEE 754-2019, 7.2). [log 30
DESIGN CHOICE] -/
opaque Config.fmaNanInvalid : Bool

/-- Felsadric's IC manufacturer code under ISO/IEC 7816-6 (NFC_UID.MFR). [log 107 PRESUMED] -/
opaque Config.nfcMfr : BitVec 8

/-- The grade of the part: MU4-MC rather than MU4-SC (Table 0-1). [log 125 DESIGN CHOICE] -/
opaque Config.gradeMC : Bool

end Sys2Proof
end

