-- ==== Sys2Proof/Machine/StCpu.lean ====
section
/-! DEFINITION. The state of a tandem (chapters 5 to 11) and of its scheduler (chapter 10). The two cores of a tandem hold
the same values, as lockstep requires; a difference between them arrives as the command LOCKSTEP_MISMATCH. -/

namespace Sys2Proof.Machine

/-- States of a capability register (Table 5-6). -/
inductive CapState where
  | valid | unwritten | notcap | poison | malformed | null
  deriving DecidableEq, Repr

/-- A capability register: its state and its two words (Tables 5-3 and 5-4). -/
structure Cap where
  st : CapState
  a : W64
  b : W64
  deriving DecidableEq, Repr

/-- A capability register that holds UNWRITTEN. -/
def Cap.unwritten : Cap := ⟨.unwritten, 0, 0⟩

/-- The null capability of c0 (R227). -/
def Cap.null : Cap := ⟨.null, 0, 0⟩

/-- A locker: the registers of Table 6-1 and the per-locker system registers (R468). -/
structure Locker where
  /-- g1 to g31; g0 is never listed. Unlisted: UNWRITTEN. -/
  g : Tbl TWord
  /-- c1 to c15; c0 is never listed. Unlisted: UNWRITTEN. -/
  c : Tbl Cap
  pcc : Cap
  /-- f0 to f15. Unlisted: UNWRITTEN. -/
  f : Tbl TWord
  ecause : TWord
  eaddr : TWord
  enext : TWord
  estat : TWord
  mod0Base : TWord
  mod0Ctl : TWord
  mod1Base : TWord
  mod1Ctl : TWord
  crcp0 : TWord
  crcp1 : TWord
  crcp2 : TWord
  fcsr : TWord
  qstat : TWord
  lkfrm : TWord
  lkrsv : TWord
  deriving DecidableEq, Repr

/-- A locker whose every register is UNWRITTEN. -/
def Locker.blank : Locker :=
  { g := [], c := [], pcc := .unwritten, f := [], ecause := .unwritten, eaddr := .unwritten, enext := .unwritten,
    estat := .unwritten, mod0Base := .unwritten, mod0Ctl := .unwritten, mod1Base := .unwritten, mod1Ctl := .unwritten,
    crcp0 := .unwritten, crcp1 := .unwritten, crcp2 := .unwritten, fcsr := .unwritten, qstat := .unwritten,
    lkfrm := .unwritten, lkrsv := .unwritten }

/-- A locker after a reset: UNWRITTEN but for the saved state and the frame registers (R140, R460, R500). -/
def Locker.reset : Locker :=
  { Locker.blank with ecause := .int 0, eaddr := .int 0, enext := .int 0, estat := .int 0, lkfrm := .int 0, lkrsv := .int 0 }

/-- Whether a tandem executes words. [log 47 DEDUCED] -/
inductive RunState where
  /-- Held in reset. -/
  | held
  | running
  /-- Stopped by a third fault (R441), by the drain of a warm reset or by RUN-OUT, until a reset. -/
  | stopped
  deriving DecidableEq, Repr

/-- A resolved transfer whose delay slot is still to execute (R299): the next address, whether it lies outside the 44-bit
space, and the capability that becomes PCC after the slot (JALC). [log 35 DEDUCED] -/
structure Slot where
  next : BitVec 44
  past : Bool
  pcc : Option Cap
  deriving DecidableEq, Repr

/-- A written TLB entry: the TLBHI and TLBLO cards as written (R512). -/
structure TlbEnt where
  hi : W64
  lo : W64
  deriving DecidableEq, Repr

/-- The physical bytes of an access: `n` bytes from `lo`, then the rest from `hi` (R523). -/
structure Phys where
  lo : Nat
  n : Nat
  hi : Nat
  deriving DecidableEq, Repr

/-- How a buffered store tags the words it writes. -/
inductive StTag where
  /-- Part of a word, or two parts: BYTES (R217). -/
  | part
  /-- One aligned word with this tag. -/
  | whole (t : Tag)
  /-- One aligned 16-byte pair with these tags (R228). -/
  | pair (ta tb : Tag)
  /-- A store to a device register. -/
  | dev
  deriving DecidableEq, Repr

/-- A store-buffer entry (R551). All entries held are committed: a command leaves no entry uncommitted. -/
structure SbEnt where
  /-- Physical address of its first byte; an entry lies within one word or one pair. -/
  addr : Nat
  bytes : List Byte
  tag : StTag
  deriving DecidableEq, Repr

/-- What a waiting load does with the bytes it reads. -/
inductive LoadKind where
  /-- To gd, `size` bytes, sign-extended or not. -/
  | g (gd : Reg) (sgn : Bool)
  | f (fd : FReg)
  | c (cd : CReg)
  /-- LR: to gd, and the reservation (R340). -/
  | lr (gd : Reg)
  /-- MLD: to gd, and the new cursor of cs (R352). -/
  | modLoad (gd : Reg) (sgn : Bool) (cs : CReg) (cursor : BitVec 44)
  deriving DecidableEq, Repr

/-- A load that waits in M (R555, R556). [log 21 DEDUCED] -/
structure LoadReq where
  va : Nat
  phys : Phys
  size : Nat
  kind : LoadKind
  dev : Bool
  /-- The port's turn has come to it: the command that it waited behind has ended (R586). -/
  turn : Bool
  deriving DecidableEq, Repr

/-- Why no word issues. [log 16 DEDUCED, 44 DEDUCED] -/
inductive Wait where
  | none
  | load (r : LoadReq)
  /-- A PFENCE waits for the commit of its tandem's epochs (R611). -/
  | pfence
  /-- Parked by WAIT (R481). -/
  | parked
  /-- A register-read command whose block cannot be reached yet (R190). -/
  | read (blk : Fin 17) (off : Nat)
  /-- A TAS has begun and waits for its buffer to empty or for its block: its word alone goes on (R342, R435). -/
  | tas
  deriving DecidableEq, Repr

/-- One entry of the vector shadow (R428). [log 38 DEDUCED] -/
structure VecEnt where
  bad : Bool
  handler : Cap
  stack : Cap
  ctl : TWord
  /-- The two tagged words of the handler's first block, where the block is held. -/
  held : Option (TWord × TWord)
  deriving DecidableEq, Repr

/-! What a core holds beside its registers: caches, branch-target buffer and fetch queue (chapters 8 and 12). -/

/-- An entry of the fetch queue: an instruction's address and the tagged word that a fetch returned for it (R384). -/
structure FqEnt where
  va : Nat
  word : TWord
  /-- The memory group of an uncorrectable error that the fetch found in the word (R319, R415). -/
  err : Option Nat
  /-- The L1 corrected an error as it gave the word (Table 8-11, code 0x0E). -/
  fix : Bool
  deriving DecidableEq, Repr

/-- An entry of the branch-target buffer: the word address it is tagged by, its target and its counter (R385). -/
structure BtbEnt where
  va : Nat
  target : Nat
  ctr : Fin 4
  deriving DecidableEq, Repr

/-- A 32-byte line of the L1 instruction cache, with the words it was filled with (R389, R545). [log 12 DEDUCED, 19 DEDUCED] -/
structure CodeLine where
  line : Nat
  words : List TWord
  deriving DecidableEq, Repr

/-- The caches of a core and its fetch stage. Every set lists what it holds, most recently used first; an unlisted set is
empty. [log 12 DEDUCED] -/
structure Front where
  /-- L1 instruction cache, 256 sets of 4 ways (Table 12-1). -/
  l1i : Tbl (List CodeLine)
  /-- L1 data cache, 256 sets of 4 ways: the numbers of its 32-byte lines, which never differ from the L2 (R545). -/
  l1d : Tbl (List Nat)
  /-- The branch-target buffer, 32 sets of 4 ways. -/
  btb : Tbl (List BtbEnt)
  /-- The fetch queue, the word to execute first. -/
  fq : List FqEnt
  /-- The address that F fetches next, and where it goes after that word when a transfer was predicted taken. -/
  next : Nat
  turn : Option Nat
  /-- The word that has left the queue and has neither retired nor faulted: the one in execution. -/
  cur : Option FqEnt
  /-- Events of Table 8-11 since the counters last counted, by code. -/
  ev : Tbl Nat
  deriving DecidableEq, Repr

/-- A core that has just been reset holds no line, no word and no entry (R416, R590). -/
def Front.reset : Front := { l1i := [], l1d := [], btb := [], fq := [], next := 0, turn := none, cur := none, ev := [] }

/-- A tandem. [log 5 DESIGN CHOICE] -/
structure Cpu where
  run : RunState
  /-- Current locker (R468). -/
  cur : Fin 8
  /-- Lockers 0 to 7. Unlisted: `Locker.reset`. -/
  lockers : Tbl Locker
  /-- The address of the word to execute lies outside the 44-bit space (R301). -/
  pcOver : Bool
  slot : Option Slot
  /-- The class and detail of the exception whose first handler word has not retired (R439). -/
  entering : Option (BitVec 4 × Byte)
  wait : Wait
  -- shared system registers of chapter 6 and 9
  emuword : TWord
  cpl : BitVec 4
  dfActive : Bool
  /-- The declared cycles of the glide under way; 0: none. -/
  glide : Nat
  glideVec : Nat
  -- VTAB as last accepted
  vtab : W64
  /-- The vector shadow; unlisted: not copied. -/
  shadow : Tbl (Option VecEnt)
  govCount : Nat
  govLast : Nat
  -- chapter 5
  dwinP : W64
  dwinX : W64
  -- chapter 8
  pmctl : W64
  pmsel : W64
  pmcyc : W64
  pmret : W64
  pmev : Tbl (BitVec 32)
  timctl : W64
  -- chapter 11
  tlbhi : TWord
  tlblo : TWord
  xctl : W64
  xmiss : W64
  xmulti : Nat
  xrej : Nat
  xwptr : Nat
  /-- The unified TLB, entries 0 to 127. Unlisted: UNWRITTEN. -/
  tlb : Tbl (Option TlbEnt)
  /-- Micro-TLBs, most recently used first (R511). -/
  itlb : List TlbEnt
  dtlb : List TlbEnt
  -- chapters 7 and 12
  /-- The reserved 64-byte L2 line (R340). -/
  resv : Option Nat
  /-- The L2 line held for this tandem's LR (R343). -/
  hold : Option Nat
  /-- The store buffer, head first (R550). -/
  sb : List SbEnt
  -- chapters 8 and 12
  front : Front
  deriving DecidableEq, Repr

/-- A tandem after a reset, still held in reset (Table 4-5, R323, R369, R416, R460, R500, R537). -/
def Cpu.reset : Cpu :=
  { run := .held, cur := 0, lockers := [], pcOver := false, slot := none, entering := none, wait := .none,
    emuword := .unwritten, cpl := 0, dfActive := false, glide := 0, glideVec := 0, vtab := 0, shadow := [],
    govCount := 0, govLast := 0, dwinP := 0x0004400000040000, dwinX := 0, pmctl := 0, pmsel := 0, pmcyc := 0, pmret := 0,
    pmev := [], timctl := 0, tlbhi := .unwritten, tlblo := .unwritten, xctl := 0, xmiss := 0, xmulti := 0, xrej := 0,
    xwptr := 0, tlb := [], itlb := [], dtlb := [], resv := none, hold := none, sb := [], front := .reset }

/-- Context states (Table 10-2). -/
inductive CtxState where
  | free | blocked | ready | running | faulted
  deriving DecidableEq, Repr

/-- A scheduler context: its SCH_CTX card, its slot of the context bank and the order of its latest switch-in. -/
structure Ctx where
  st : CtxState
  pri : Nat
  fpen : Bool
  pin : Bool
  pend : Bool
  merge : Nat
  runs : BitVec 32
  /-- The locker that holds it, while resident. -/
  res : Option (Fin 8)
  /-- The 77 words of the bank slot (R477); the `f` and `fcsr` of the locker type are the 17 words of R488. -/
  slot : Locker
  /-- Stamp of the latest switch-in (R485: least recently run). -/
  stamp : Nat
  deriving DecidableEq, Repr

/-- A context after reset: FREE, its slot UNWRITTEN (R500). -/
def Ctx.reset : Ctx :=
  { st := .free, pri := 0, fpen := false, pin := false, pend := false, merge := 0, runs := 0, res := none,
    slot := Locker.blank, stamp := 0 }

/-- Floating-point state of a locker (R489). -/
inductive FpSt where
  | live | deferred | off
  deriving DecidableEq, Repr

/-- What a scheduler knows of a locker: its SCH_LK card. -/
structure LkInfo where
  occ : Option (Fin 64)
  fpown : Option (Fin 64)
  fpst : FpSt
  deriving DecidableEq, Repr

/-- A locker after reset: LIVE, with no context and no owner (R500). -/
def LkInfo.reset : LkInfo := { occ := none, fpown := none, fpst := .live }

/-- The scheduler of a main tandem. -/
structure Sch where
  en : Bool
  lkmask : Byte
  boot : BitVec 6
  slice : Byte
  /-- Running context and its locker, while EN is 1. -/
  running : Option (Fin 64)
  runlk : Fin 8
  nonres : Nat
  resCnt : Nat
  bankecc : Nat
  pinref : Nat
  wfree : Nat
  badop : Nat
  /-- Contexts 0 to 63. Unlisted: `Ctx.reset`. -/
  ctx : Tbl Ctx
  /-- Lockers 0 to 7. Unlisted: `LkInfo.reset`. -/
  lk : Tbl LkInfo
  /-- READY contexts, those that have been READY longest first within a priority (R483). -/
  queue : List (Fin 64)
  /-- A YIELD or a slice expiry has made a switch due (R482). -/
  yielded : Bool
  /-- SCH_BIND cards: the context, where EN is 1; the CTX field where EN is 0 is kept too. -/
  bind : Tbl (BitVec 32)
  /-- Stamp given at the next switch-in. -/
  clock : Nat
  deriving DecidableEq, Repr

/-- A scheduler after reset (R500). -/
def Sch.reset : Sch :=
  { en := false, lkmask := 0, boot := 0, slice := 0, running := none, runlk := 0, nonres := 0, resCnt := 0, bankecc := 0,
    pinref := 0, wfree := 0, badop := 0, ctx := [], lk := [], queue := [], yielded := false, bind := [], clock := 0 }

end Sys2Proof.Machine
end

