-- ==== Sys2Proof/Machine/StIo.lean ====
section
/-! DEFINITION. The state of the groomer (chapter 14), the counter array and panel I/O (chapter 15), the CAN controllers
(chapter 17) and the NFC tag (chapter 18). -/

namespace Sys2Proof.Machine

/-- What GRM_LIFE_m shows of a mechanism (Table 14-5, R668). -/
structure LifeRes where
  st : Fin 4
  x : Nat
  d : Nat
  lo : Nat
  hi : Nat
  deriving DecidableEq, Repr

def LifeRes.reset : LifeRes := { st := 0, x := 0, d := 0, lo := 0, hi := 0 }

/-- What the groomer's metadata holds: it survives power loss (R653, R655, R679). [log 85 DEDUCED] -/
structure GrmMeta where
  /-- Visible frame to physical frame, where it is not the frame of the same number. -/
  map : Tbl (Option Nat)
  /-- W_f by physical frame (R654): 0 to 16,383 the visible frames' own, 16,384 to 17,903 the spare pool. Unlisted: 0. -/
  wf : Tbl Nat
  retired : List Nat
  logret : Nat
  powmin : Nat
  pcyc : Nat
  evals : BitVec 16
  /-- GRM_DATE.DAY at the latest evaluation, 0 when it was not VALID, with its profile code and BADCUST (Table 14-6). -/
  evalDay : BitVec 24
  evalProf : BitVec 8
  life : Tbl LifeRes
  dev : W64
  cdate : Option (BitVec 24)
  /-- Weak words of the latest Spenik pass (R662). -/
  weak : Nat
  refreshed : Nat
  flashA : W64
  flashB : W64
  deriving DecidableEq, Repr

/-- The groomer's metadata as made, with an identity frame map. [log 9 DESIGN CHOICE] -/
def GrmMeta.reset : GrmMeta :=
  { map := [], wf := [], retired := [], logret := 0, powmin := 0, pcyc := 0, evals := 0, evalDay := 0, evalProf := 0, life := [], dev := 0, cdate := none,
    weak := 0, refreshed := 0, flashA := 0, flashB := 0 }

/-- The inputs an evaluation holds from its start (Table 14-8): date, flash counts and threshold. [log 86 DESIGN CHOICE] -/
structure EvalIn where
  day : BitVec 24
  dayValid : Bool
  cdate : Option (BitVec 24)
  flashA : W64
  flashB : W64
  lowdays : BitVec 16
  deriving DecidableEq, Repr

/-- The groomer. `cur` is the working copy of the metadata; `saved` is what both metadata copies hold. -/
structure Grm where
  cur : GrmMeta
  saved : GrmMeta
  stale : Bool
  maplost : Bool
  meta1 : Bool
  nospare : Bool
  /-- The frame under way: visible frame and target physical frame (R656). -/
  moving : Option (Nat × Nat)
  /-- An evaluation started by a request (GRM_CFG.EVAL, EVAL) is under way, with the inputs of its start. -/
  evalReq : Option EvalIn
  sramPass : BitVec 16
  spkPass : BitVec 12
  spkLate : Bool
  sramLate : Bool
  day : BitVec 24
  dayValid : Bool
  badcust : Bool
  /-- u in units of 1/10,000 and c in tenths, as the latest evaluation used them, and its profile. -/
  u : Nat
  c : Nat
  prof : Fin 4
  lowdays : BitVec 16
  /-- Monitors: FAIL and PPM, 40 ring oscillators and 12 electromigration monitors. -/
  ro : Tbl (BitVec 32)
  em : Tbl (BitVec 32)
  /-- Scrub passes under way. -/
  scrubSram : Bool
  scrubA : Bool
  scrubB : Bool
  scrubSpk : Bool
  deriving DecidableEq, Repr

/-- The groomer at power-up. [log 9 DESIGN CHOICE] -/
def Grm.reset : Grm :=
  { cur := .reset, saved := .reset, stale := false, maplost := false, meta1 := false, nospare := false, moving := none,
    evalReq := none, sramPass := 0, spkPass := 0, spkLate := false, sramLate := false, day := 0,
    dayValid := false, badcust := false, u := 0, c := 0, prof := 0, lowdays := 0, ro := [], em := [], scrubSram := false,
    scrubA := false, scrubB := false, scrubSpk := false }

/-- A counter channel (R686). -/
structure Chan where
  /-- CHn_CTL, RUN included. -/
  ctl : BitVec 32
  pin : BitVec 32
  cnt : BitVec 32
  reload : BitVec 32
  cmp : BitVec 32
  hold : BitVec 32
  phase : Bool
  mtch : Bool
  unf : Bool
  ovf : Bool
  capf : Bool
  cmplate : Bool
  qerr : Nat
  capValid : Bool
  capOvr : Bool
  capLong : Bool
  capValue : BitVec 32
  rise : BitVec 32
  fall : BitVec 32
  /-- A pulse is open (R700), and the underflows since its opening edge. -/
  opened : Bool
  unfs : Nat
  /-- Filtered levels of PINA and PINB (R698). -/
  a : Bool
  b : Bool
  deriving DecidableEq, Repr

def Chan.reset : Chan :=
  { ctl := 0, pin := 0, cnt := 0, reload := 0, cmp := 0, hold := 0, phase := false, mtch := false, unf := false, ovf := false,
    capf := false, cmplate := false, qerr := 0, capValid := false, capOvr := false, capLong := false, capValue := 0,
    rise := 0, fall := 0, opened := false, unfs := 0, a := false, b := false }

/-- Panel I/O. -/
structure Pio where
  en : BitVec 16
  vsel : BitVec 16
  vmis : BitVec 16
  sense33 : BitVec 16
  /-- Banks whose VIOB_k lies below 1.5 V (R934, R935). -/
  bare : BitVec 16
  debt : W64
  /-- Synchronised pin levels, by bank; a disabled bank reads 0 through its accessor. Unlisted: 0. -/
  inn : Tbl (BitVec 32)
  deb : Tbl (BitVec 32)
  out : Tbl (BitVec 32)
  evt : Tbl (BitVec 32)
  ie : Tbl (BitVec 32)
  /-- PIO_CFG_n. Unlisted: 0. -/
  cfg : Tbl (BitVec 32)
  /-- Pins take their configured drive (from release, Table 3-7). -/
  drive : Bool
  scfg : W64
  badcfg : Bool
  wetcnt : Nat
  lost : Nat
  fifo : List (BitVec 32)
  keys : Tbl (BitVec 32)
  wet : Tbl (BitVec 32)
  /-- Consecutive scans that disagree with a key's state, by 32 r + c; the same for wet tests. -/
  keyRun : Tbl Nat
  wetRun : Tbl Nat
  /-- Forward scans since the latest wet test. -/
  scans : Nat
  /-- PIO_PWM_j as written, and as in effect in the present period. -/
  pwm : Tbl W64
  pwmEff : Tbl W64
  deriving DecidableEq, Repr

/-- The PIO block at reset (R724). [log 8 DESIGN CHOICE] -/
def Pio.reset : Pio :=
  { en := 0, vsel := 0, vmis := 0, sense33 := 0, bare := 0, debt := 0, inn := [], deb := [], out := [], evt := [], ie := [], cfg := [],
    drive := false, scfg := 0, badcfg := false, wetcnt := 0, lost := 0, fifo := [], keys := [], wet := [], keyRun := [],
    wetRun := [], scans := 0, pwm := [], pwmEff := [] }

/-- Controller states (Table 17-3). -/
inductive CanState where
  | off | monitor | integrating | active | passive | busOff | recovering
  deriving DecidableEq, Repr

/-- An entry of the receive FIFO: the layout of CAN_RXF_0, the time, and the data bytes (R792). -/
structure RxEntry where
  frame : CanFrame
  safe : Bool
  gap : Bool
  deg : Bool
  rxc : Fin 32
  filt : Fin 128
  time : BitVec 32
  deriving DecidableEq, Repr

/-- Mailbox states (Table 17-7). -/
inductive MbState where
  | empty | half | pend | tx | done | aborted | retryEnd | withheld
  deriving DecidableEq, Repr

/-- A transmit mailbox (R797). `dataA` and `dataB` are the two halves' data bytes. -/
structure Mbox where
  cfg : W64
  st : MbState
  ha : Bool
  hb : Bool
  deg : Bool
  errs : Nat
  nextseq : BitVec 16
  time : BitVec 32
  dataA : Tbl Byte
  dataB : Tbl Byte
  /-- The frame admitted. -/
  frame : Option CanFrame
  /-- The microsecond in which a closing gate withheld it in HALF (Table 17-9). -/
  cutUs : Option Nat
  deriving DecidableEq, Repr

def Mbox.reset : Mbox :=
  { cfg := 0, st := .empty, ha := false, hb := false, deg := false, errs := 0, nextseq := 0, time := 0, dataA := [],
    dataB := [], frame := none, cutUs := none }

/-- States of a receive connection. -/
inductive RxcState where
  | closed | sync | live | timeout
  deriving DecidableEq, Repr

/-- A receive connection (R794, R795). -/
structure Rxc where
  st : RxcState
  ie : Bool
  dlc : BitVec 4
  tmo : BitVec 10
  conn : BitVec 15
  eseq : BitVec 16
  dup : Nat
  lost : Nat
  drop : Nat
  acc : BitVec 16
  deriving DecidableEq, Repr

def Rxc.reset : Rxc :=
  { st := .closed, ie := false, dlc := 0, tmo := 0, conn := 0, eseq := 0, dup := 0, lost := 0, drop := 0, acc := 0 }

/-- A CAN controller. -/
structure Can where
  dswin : Byte
  pexdis : Bool
  tdcen : Bool
  brsen : Bool
  fden : Bool
  boman : Bool
  /-- CAN_CTL.OP as last accepted. -/
  op : Fin 3
  /-- OP = 1 written and MONITOR awaited at the next bus idle (R787). -/
  toMonitor : Bool
  /-- The frame that won an arbitration against the controller is still on the bus. -/
  rxBusy : Bool
  bt : W64
  st : CanState
  cmphold : Bool
  tec : Nat
  recv : Nat
  tdcv : BitVec 7
  eBit : Nat
  eStuff : Nat
  eForm : Nat
  eCrc : Nat
  eAck : Nat
  boff : Nat
  lonely : Nat
  dsmis : Nat
  dslate : Nat
  ovf : Nat
  noMatch : Nat
  rtr : Nat
  fifo : List RxEntry
  evt : BitVec 7
  ie : BitVec 7
  mbie : BitVec 32
  rxie : Bool
  /-- Mailboxes 0 to 31, filters 0 to 127 (CAN_FLT and CAN_FLTM), receive connections 0 to 31. -/
  mb : Tbl Mbox
  flt : Tbl W64
  fltm : Tbl (BitVec 29)
  rxc : Tbl Rxc
  /-- The image configured the controller (R143, R786). -/
  configured : Bool
  deriving DecidableEq, Repr

def Can.reset : Can :=
  { dswin := 0x0A, pexdis := false, tdcen := false, brsen := false, fden := false, boman := false, op := 0,
    toMonitor := false, rxBusy := false, bt := 0, st := .off, cmphold := false, tec := 0, recv := 0, tdcv := 0, eBit := 0, eStuff := 0,
    eForm := 0, eCrc := 0, eAck := 0, boff := 0, lonely := 0, dsmis := 0, dslate := 0, ovf := 0, noMatch := 0, rtr := 0,
    fifo := [], evt := 0, ie := 0, mbie := 0, rxie := false, mb := [], flt := [], fltm := [], rxc := [],
    configured := false }

/-- States of the tag towards a reader (ISO/IEC 15693). [log 107 PRESUMED] -/
inductive TagState where
  | ready | quiet | selected
  deriving DecidableEq, Repr

/-- The answer of the island to a field request: none, an error code, or success with its data bytes. -/
inductive NfcResp where
  | none
  | err (code : Byte)
  | ok (data : List Byte)
  deriving DecidableEq, Repr

/-- A host command as it started (R834): a write into the store, or a read. -/
structure HostCmd where
  write : Bool
  count : Nat
  start : Nat
  deriving DecidableEq, Repr

/-- The tag island and the host window. -/
structure Nfc where
  /-- The tag store by block, 0 to 8,191. Unlisted: 0. Survives power loss. -/
  store : Tbl (BitVec 32)
  /-- The persisted maker-region locks, regions 18 to 31. Survive power loss. -/
  locks : BitVec 14
  tag : TagState
  /-- The answer to the latest field request. -/
  resp : NfcResp
  field : Bool
  lockbusy : Bool
  uid : W64
  /-- NFC_LOCK.MAKER as written. -/
  lockReg : BitVec 14
  dir : Bool
  count : BitVec 7
  start : BitVec 13
  /-- The host command under way, and how many of its blocks have been served. -/
  run : Option HostCmd
  runAt : Nat
  /-- The field's hold of the store lasts until this microsecond (R836). -/
  hold : Option Nat
  /-- The holds that blocks of the host command have waited for, and whether one has waited for the latest hold (R837). -/
  waits : Nat
  waited : Bool
  /-- Tandem G wrote life copy B last (R830). -/
  lifeB : Bool
  done : Bool
  err : Fin 4
  owner : Fin 4
  refused : Bool
  waitus : Nat
  evt : BitVec 3
  ie : BitVec 3
  line : Nat
  served : BitVec 16
  fwBlock : BitVec 13
  fwN : BitVec 3
  hbuf : Tbl Byte
  deriving DecidableEq, Repr

/-- The tag store as shipped (R847): region 0 with the container, the NDEF message and the identity record of a BLANK device,
region 1 with two life records in which nothing has been evaluated. Block 19 is listed for either grade. [log 9 DESIGN
CHOICE] -/
def nfcShipped : Tbl (BitVec 32) :=
  let g (sc mc : BitVec 32) : BitVec 32 := if Config.gradeMC then mc else sc
  [(0, 0x017F43E1), (1, 0x0FD42203), (2, 0x6C656610), (3, 0x72646173), (4, 0x753A6369), (5, 0x6E6F616D),
   (8, g 0x00004D55 0x00014D55), (9, 1), (10, 0xFE), (18, 0x00044D55), (19, g 0 0x100), (31, g 0x6B08FB84 0x2400FCD8),
   (287, 0x5A0B0531), (303, 0x5A0B0531)]

/-- The NFC tag at power-up. [log 8 DESIGN CHOICE, 9 DESIGN CHOICE] -/
def Nfc.reset : Nfc :=
  { store := nfcShipped, locks := 0, tag := .ready, resp := .none, field := false, lockbusy := false, uid := 0, lockReg := 0,
    dir := false, count := 0, start := 0, run := none, runAt := 0, hold := none, waits := 0, waited := false, lifeB := false, done := false, err := 0, owner := 0, refused := false, waitus := 0,
    evt := 0, ie := 0, line := 0, served := 0, fwBlock := 0, fwN := 0, hbuf := [] }

end Sys2Proof.Machine
end

