-- ==== Sys2Proof/Machine/StMem.lean ====
section
/-! DEFINITION. The state of the volatile memories (chapter 12), of the Spenik store and its ledger (chapter 13) and of the
interrupt router (chapter 20). -/

namespace Sys2Proof.Machine

/-- A DRAM channel (DRC_STAT, DRC_ECC_A and DRC_ECC_B, R566 to R570). -/
structure DramCh where
  /-- DENS in use, 0 to 3. -/
  dens : Fin 4
  ready : Bool
  sref : Bool
  /-- DRC_STAT.FAIL, 0 to 5. -/
  fail : Fin 6
  corr : Nat
  unc : Nat
  last : BitVec 40
  deriving DecidableEq, Repr

def DramCh.reset : DramCh := { dens := 0, ready := false, sref := false, fail := 0, corr := 0, unc := 0, last := 0 }

/-- The DRAM controller. -/
structure Drc where
  a : DramCh
  b : DramCh
  cleared : Bool
  /-- Fresh 64 KiB blocks of installed DRAM, as rising disjoint ranges [lo, hi) of block numbers (R569). -/
  fresh : List (Nat × Nat)
  passes : BitVec 16
  late : Bool
  /-- Refreshes run so far, all-bank, at tREFI (R568). -/
  refreshes : Nat
  /-- The 32 TIMING values and the MRW list of the record in use (Table 12-6). -/
  timing : List (BitVec 16)
  mrw : List (Byte × Byte)
  deriving DecidableEq, Repr

def Drc.reset : Drc :=
  { a := .reset, b := .reset, cleared := false, fresh := [], passes := 0, late := false, refreshes := 0, timing := [],
    mrw := [] }

/-- An xSPI port's configuration in use (R119, R572) and the flash on it. -/
structure XspPort where
  mode : Fin 3
  div : Nat
  rdcmd : Byte
  dummy : Nat
  cap : Nat
  winoff : Bool
  /-- Contents of the flash device; unlisted bytes are 0xFF (erased). -/
  flash : Tbl Byte
  deriving DecidableEq, Repr

/-- An xSPI port at reset. [log 9 DESIGN CHOICE] -/
def XspPort.reset : XspPort :=
  { mode := 0, div := 48, rdcmd := 0x0C, dummy := 8, cap := 0, winoff := false, flash := [] }

/-- A 64-byte line of the shared L2 (Table 12-1). [log 12 DEDUCED] -/
structure L2Line where
  line : Nat
  /-- Written since it was filled, and not written back (SRAM and DRAM lines alone, R607). -/
  dirty : Bool
  /-- The eight words of a flash window's line as it was filled (R574); a line of another region holds the machine's words. -/
  win : List W64
  /-- The eight words that the memory behind a dirty line still holds. -/
  back : List TWord
  deriving DecidableEq, Repr

/-- What moves words across the fabric besides the tandems: the L2's fills and write-backs, the groomer, the patrol (R25,
R41). [log 127 DESIGN CHOICE] -/
inductive Mover where
  | fill | back | groomer | patrol
  deriving DecidableEq, Repr

/-- A code word that holds wrong bits, or the path of the next read: where check bits stand (R29, R41, R412, R414, R534).
[log 127 DESIGN CHOICE] -/
inductive Site where
  /-- A word in its own memory: ROM, TCM, working SRAM, DRAM or the Spenik array, by physical word index. -/
  | word (w : Nat)
  /-- A read of that word of DRAM or of the Spenik store is answered from another location (R563, R600). -/
  | away (w : Nat)
  | l2 (w : Nat)
  | l1d (m : Side) (w : Nat)
  | l1i (m : Side) (w : Nat)
  | btb (m : Side) (va : Nat)
  | tlb (m : Side) (i : Nat)
  | itlb (m : Side) (e : TlbEnt)
  | dtlb (m : Side) (e : TlbEnt)
  /-- The tandem's next transfer across the fabric (R41). -/
  | transit (t : Tandem)
  /-- The next transfer of another mover across it (R41). -/
  | transfer (m : Mover)
  /-- The tandem's next register read (R412). -/
  | reg (t : Tandem)
  /-- The saved-state registers of a locker, and an entry of the vector shadow (R457). -/
  | saved (t : Tandem) (n : Nat)
  | shadow (t : Tandem) (i : Nat)
  /-- A word of a copy of the groomer's metadata (R653, R678). -/
  | metadata (copy : Side) (w : Nat)
  deriving DecidableEq, Repr

/-- The wrong bits of a code word. [log 127 DESIGN CHOICE] -/
structure Upset where
  site : Site
  bits : Nat
  deriving DecidableEq, Repr

/-- The xSPI controller. -/
structure Xsp where
  a : XspPort
  b : XspPort
  timeout : Bool
  refused : Bool
  done : Bool
  busy : Bool
  /-- XSP_CMD but for GO. -/
  cmd : BitVec 32
  /-- XSP_CMD as it stood when the command under way started. -/
  run : BitVec 32
  addr : BitVec 32
  /-- XSP_BUF bytes 0 to 255. Unlisted: 0. -/
  buf : Tbl Byte
  deriving DecidableEq, Repr

def Xsp.reset : Xsp :=
  { a := .reset, b := .reset, timeout := false, refused := false, done := false, busy := false, cmd := 0, run := 0, addr := 0,
    buf := [] }

/-- A ledger index entry: the newest value of a word in an epoch and its sequence number (R607, R608). -/
structure LEntry where
  word : Nat
  val : TWord
  seq : Nat
  deriving DecidableEq, Repr

/-- A tandem's OPEN epoch (R604 to R606). -/
structure OpenEp where
  /-- Words admitted, whether or not their store has left the store buffer. -/
  counted : List Nat
  entries : List LEntry
  hw : Bool
  /-- SPK_OPEN_x.FULL. -/
  full : Nat
  deriving DecidableEq, Repr

def OpenEp.reset : OpenEp := { counted := [], entries := [], hw := false, full := 0 }

/-- States of a closed epoch (Table 13-2). -/
inductive EpSt where
  /-- Closed, waiting for the write port and for log room. -/
  | waiting
  /-- Its entries are being written into the log. -/
  | sealing
  | marking
  | committed
  deriving DecidableEq, Repr

/-- A closed epoch that is not FREE. -/
structure Epoch where
  owner : Tandem
  st : EpSt
  /-- Its number, once it has committed (R612). -/
  num : Nat
  /-- Its entries not yet applied or skipped. -/
  entries : List LEntry
  /-- What its seal wrote into the log. -/
  log : List LEntry
  /-- Log blocks it holds (R613). -/
  blocks : Nat
  /-- The distinct words it was closed with (Table 13-8, word 2). -/
  words : Nat
  deriving DecidableEq, Repr

/-- What the warden writes as one record (R627). -/
structure WRec where
  /-- 1 run-out, 2 fault. -/
  kind : Fin 3
  mode : Fin 8
  ms : BitVec 32
  w2 : W64
  w3 : W64
  w4 : W64
  deriving DecidableEq, Repr

/-- The Spenik controller and ledger. -/
structure Spk where
  /-- The array's visible words by word index from 0x00_4000_0000. Unlisted: UNWRITTEN (R645). Survives power loss. -/
  array : Tbl TWord
  opA : OpenEp
  opB : OpenEp
  opG : OpenEp
  /-- Closed epochs, oldest closing first. MARKING and COMMITTED ones survive power loss in the log. -/
  closed : List Epoch
  /-- Sequence number of the next write (R607). -/
  seq : Nat
  /-- Highest sequence number applied to the array, by word (R615). -/
  doneSeq : Tbl Nat
  epA : Nat
  epB : Nat
  epG : Nat
  waitUs : Nat
  c1 : Nat
  c2 : Nat
  unc : Nat
  eccLast : BitVec 40
  recov : W64
  sel : Byte
  newest : Byte
  /-- The warden reserve ring: slot to the 8 words of its record (R627). Survives power loss. -/
  ring : Tbl (List W64)
  /-- The RECNO of the latest record, 0 when the ring is empty. -/
  recno : Nat
  /-- Ring slots skipped under R658. -/
  skipped : List Nat
  /-- Records due and not yet written. -/
  recs : List WRec
  damaged : Bool
  recovered : Bool
  holdok : Bool
  vinok : Bool
  /-- Words of rolled-back epochs at the stop of RUN-OUT: tandems A, B, G (Table 13-8, word 2). -/
  rollA : Nat
  rollB : Nat
  rollG : Nat
  /-- HOLDOK at the trip, and WRD_TIME in microseconds of it. -/
  holdTrip : Bool
  tripUs : Nat
  /-- HOLDOK was 0 at the trip or has fallen since: the run-out apply has ended (Table 13-10). -/
  holdFell : Bool
  /-- The mode at the trip (Table 13-8, MODE). -/
  tripMode : Fin 8
  /-- The run-out record of the present RUN-OUT has been written. -/
  runoutRec : Bool
  /-- No run-out record has been written since power-good or T10 (R644). Survives power loss. -/
  needRec : Bool
  /-- The run-out record of the power loss before this start is missing (SPK_RECOV.NOREC). -/
  norec : Bool
  /-- Seals cut off by RUN-OUT or by a power loss: partial epochs left in the log (R630). Survives power loss. -/
  partials : Nat
  deriving DecidableEq, Repr

/-- The ledger and its registers at power-up. [log 8 DESIGN CHOICE, 9 DESIGN CHOICE] -/
def Spk.reset : Spk :=
  { array := [], opA := .reset, opB := .reset, opG := .reset, closed := [], seq := 0, doneSeq := [], epA := 0, epB := 0,
    epG := 0, waitUs := 0, c1 := 0, c2 := 0, unc := 0, eccLast := 0, recov := 0, sel := 0, newest := 0, ring := [],
    recno := 0, skipped := [], recs := [], damaged := false, recovered := false, holdok := false, vinok := false,
    rollA := 0, rollB := 0, rollG := 0, holdTrip := false, tripUs := 0, holdFell := false, tripMode := 0,
    runoutRec := false, needRec := false, norec := false, partials := 0 }

/-- The interrupt router (chapter 20). -/
structure Irt where
  wevtMode : Bool
  wevtSafe : Bool
  wevtEstop : Bool
  gevtScrub : Bool
  gevtLife : Bool
  gevtRetire : Bool
  gevtEval : Bool
  eccCorr : Byte
  eccUnc : Byte
  db : BitVec 16
  sw : BitVec 16
  dbring : BitVec 32
  denied : Nat
  /-- IRT_ROUTE cards. Unlisted: 0. -/
  route : Tbl (BitVec 32)
  /-- Sources the router has seen asserted (R899). Unlisted: false. -/
  seen : Tbl Bool
  wokenA : Tbl Bool
  wokenB : Tbl Bool
  /-- Violation counters 0 to 63. Unlisted: 0. -/
  vc : Tbl Nat
  deriving DecidableEq, Repr

def Irt.reset : Irt :=
  { wevtMode := false, wevtSafe := false, wevtEstop := false, gevtScrub := false, gevtLife := false, gevtRetire := false,
    gevtEval := false, eccCorr := 0, eccUnc := 0, db := 0, sw := 0, dbring := 0xFFFFFFFF, denied := 0, route := [],
    seen := [], wokenA := [], wokenB := [], vc := [] }

end Sys2Proof.Machine
end

