-- ==== Sys2Proof/Machine/StSafe.lean ====
section
/-! DEFINITION. The state of the warden and the patrol (chapter 2), of the gatehouse and the fuses (chapter 3) and of the
clocks and resets (chapter 4). -/

namespace Sys2Proof.Machine

/-- The six modes (R172), coded as WRD_MODE.MODE. -/
inductive Mode where
  | gatehouse | run | reduced | safeHold | service | runOut
  deriving DecidableEq, Repr

/-- A detection that has reached the warden: its WRD_DET bit and its detail (Table 2-3, WRD_FREC.DETAIL). -/
structure Det where
  bit : Fin 18
  detail : Byte
  deriving DecidableEq, Repr

/-- A windowed watchdog (R65 to R69). -/
structure Wd where
  lock : Bool
  /-- NEXT: the expected value is 0x3C5A rather than 0xA5C3. -/
  next : Bool
  /-- OPEN and CLOSE as the card shows them, in units of 100 µs. -/
  opn : Nat
  close : Nat
  /-- OPEN and CLOSE in effect: a new card takes effect at the next valid service (R69). -/
  effOpn : Nat
  effClose : Nat
  /-- Microseconds since the previous valid service, or since the tandem left reset. -/
  us : Nat
  deriving DecidableEq, Repr

def Wd.reset : Wd := { lock := false, next := false, opn := 0, close := 5000, effOpn := 0, effClose := 5000, us := 0 }

/-- The level of a ball: a powered one is driven or read low or high; one whose rail lies below its band is high-impedance
(R73, R936, R953). [log 126 DEDUCED] -/
inductive PinLevel where
  | low | high | hiZ
  deriving DecidableEq, Repr

/-- The warden, its safety I/O and the patrol. -/
structure Wrd where
  /-- The rails of Table 2-5 that lie within their bands, in its order. -/
  rails : BitVec 7
  mode : Mode
  cause : Byte
  serveA : Bool
  serveB : Bool
  cfgLock : Bool
  reducedEn : Bool
  det : BitVec 18
  frec : W64
  gloss : Nat
  faults : Nat
  wdA : Wd
  wdB : Wd
  wdG : Wd
  -- WRD_SAFE
  hold : Fin 4
  latched : Bool
  swstop : Bool
  toggling : Bool
  /-- RATE: 500 Hz. -/
  rate : Bool
  /-- Lane 1 or lane 2 has decided to de-energise where the other lane has not (R58). -/
  laneA : Bool
  laneB : Bool
  /-- Commanded levels of SAFE_OK_A, which lane 1 drives, and of SAFE_OK_B, which lane 2 drives (R56). -/
  outA : Bool
  outB : Bool
  /-- Sampled levels. -/
  rbA : Bool
  rbB : Bool
  -- WRD_ESTOP
  closedA : Bool
  closedB : Bool
  /-- The channel has taken a state since the test pulses started (R76, R107). -/
  knownA : Bool
  knownB : Bool
  demand : Bool
  disc : Bool
  pulseA : Bool
  pulseB : Bool
  /-- The dual-source gates are closed by an emergency-stop fault, until the outputs are re-armed (Table 2-4). -/
  esGates : Bool
  /-- A change of channel A or B that its samples have completed only outside the test pulses and their settle times (R76,
  R100): it waits. -/
  waitA : Option Bool
  waitB : Option Bool
  /-- `us` at the end of the latest test pulse; none has ended: `none`. -/
  pulseEnd : Option Nat
  /-- Both channels have read open together since the latched error (R80). -/
  bothOpen : Bool
  /-- Levels of ESTOP_TA and ESTOP_TB: low during a test pulse. -/
  taLow : Bool
  tbLow : Bool
  /-- Test pulses run (from the end of fuse load, R107). -/
  pulses : Bool
  escfgLock : Bool
  escDisc : Nat
  escTpp : Nat
  escTpw : Nat
  -- the patrol
  patrol : Bool
  pause : Bool
  first : Bool
  fail : Bool
  last : Byte
  sweeps : BitVec 16
  /-- A failure has occurred in the present sweep. -/
  sweepBad : Bool
  /-- A sweep has ended since power-good. -/
  swept : Bool
  /-- The halves of mechanisms whose scheduled test the present sweep has made (R86). -/
  tested : List (Byte × Fin 2)
  /-- The memories whose scrub pass the patrol has under way (Table 14-2). -/
  patrolScrub : List ScrubMem
  pinjMech : Byte
  pinjGo : Bool
  /-- Mechanisms that hold an injected latent fault. -/
  injected : List Byte
  /-- Detections that have reached the warden and await its decision (R96). -/
  arrived : List Det
  /-- The DET field of the run-out record under way: the detections that have arrived since the trip of VIN_SENSE (R101,
  R627). -/
  tripDet : BitVec 18
  /-- A hold command has reached the warden with the detections above (R175, R198). -/
  holdCmd : Bool
  /-- Main tandems marked lost before release (Table 4-3), with the WRD_DET bit. -/
  lostA : Option (Fin 18)
  lostB : Option (Fin 18)
  /-- The hold-class detection pending for release (Table 4-3). -/
  pendHold : Option (Fin 18)
  /-- The RC reference has stopped: the root-side monitor acts (R104). -/
  rcStopped : Bool
  deriving DecidableEq, Repr

/-- The warden at power-up. [log 8 DESIGN CHOICE] -/
def Wrd.reset : Wrd :=
  { rails := 0, mode := .gatehouse, cause := 0, serveA := false, serveB := false, cfgLock := false, reducedEn := false, det := 0,
    frec := 0, gloss := 0, faults := 0, wdA := .reset, wdB := .reset, wdG := .reset, hold := 0, latched := false,
    swstop := false, toggling := false, rate := false, laneA := false, laneB := false, outA := false, outB := false, rbA := false, rbB := false,
    closedA := false, closedB := false, knownA := false, knownB := false, demand := false, disc := false, pulseA := false, pulseB := false,
    esGates := false, waitA := none, waitB := none, pulseEnd := none, bothOpen := false, taLow := false, tbLow := false, pulses := false, escfgLock := false, escDisc := 0x32,
    escTpp := 0x0A, escTpw := 2, patrol := false, pause := false, first := false, fail := false, last := 0, sweeps := 0,
    sweepBad := false, swept := false, tested := [], patrolScrub := [], pinjMech := 0, pinjGo := false, injected := [], arrived := [], tripDet := 0, holdCmd := false, lostA := none,
    lostB := none, pendHold := none, rcStopped := false }

/-- What GATE_SLOTA and GATE_SLOTB show (Table 3-3). -/
structure SlotRes where
  seq : BitVec 32
  badrec : BitVec 16
  version : Byte
  result : Byte
  deriving DecidableEq, Repr

def SlotRes.reset : SlotRes := { seq := 0, badrec := 0, version := 0, result := 0 }

/-- An option record of an image: its byte offset, its TYPE and its value (R124). -/
structure Rec where
  off : Nat
  type : Nat
  val : List Byte
  deriving DecidableEq, Repr

/-- The gatehouse and the fuse bank. -/
structure Gate where
  /-- Power-good has been declared (R116). -/
  pgood : Bool
  released : Bool
  outcome : Fin 8
  slot : Option Side
  ledgerdone : Bool
  fuseok : Bool
  step : Fin 8
  trel : BitVec 32
  /-- Microseconds of the state's clock from which the bounds of Table 3-1 run: power-good, or E of a warm reset (R188). -/
  origin : Nat
  slotA : SlotRes
  slotB : SlotRes
  /-- Whether a slot's header passed. -/
  hdrA : Bool
  hdrB : Bool
  /-- Slots still to try, in order, the first being the one tried now (R120). -/
  order : List Side
  /-- The records of the slot that passed step 4. -/
  recs : List Rec
  /-- The TCM words that the GPATCH records of this run have written, with what they held before (R134, R160). -/
  patched : List (Nat × TWord)
  /-- A configuration of step 5 has failed (R161). -/
  cfgFail : Bool
  /-- Banks whose PIOBANK record disagreed with the supply (R703). -/
  pioBad : BitVec 16
  /-- Ledger recovery ended later than 20 ms after the origin (R162). -/
  ledgerLate : Bool
  /-- The mode that the latest release entered, and the cause of an OUTCOME 5 (Table 19-4): 1 DRAINFAIL, 2 DAMAGED, 3 MAPLOST,
  4 LEDGER, 5 UNIT. -/
  relMode : Mode
  holdCause : Fin 6
  preA : Nat
  preB : Nat
  preC : Nat
  preD : Nat
  skip : Nat
  profImg : Bool
  profile : Fin 4
  jtaglock : Bool
  ferrBad : Bool
  badrow : Byte
  corrected : Nat
  nocfg : BitVec 10
  dis : BitVec 10
  /-- The fuse shadow, rows 0 to 127. Unlisted: 0. -/
  shadow : Tbl W64
  /-- The fuse array itself: blown bits. Survives power loss. Unlisted: 0. -/
  fuses : Tbl W64
  deriving DecidableEq, Repr

/-- The gatehouse at power-up (R165). [log 9 DESIGN CHOICE] -/
def Gate.reset : Gate :=
  { pgood := false, released := false, outcome := 0, slot := none, ledgerdone := false, fuseok := false, step := 0, trel := 0,
    origin := 0, slotA := .reset, slotB := .reset, hdrA := false, hdrB := false, order := [], recs := [], patched := [], cfgFail := false, pioBad := 0, ledgerLate := false,
    relMode := .gatehouse, holdCause := 0,
    preA := 0, preB := 0, preC := 0, preD := 0, skip := 0, profImg := false, profile := 0, jtaglock := false,
    ferrBad := false, badrow := 0, corrected := 0, nocfg := 0, dis := 0, shadow := [], fuses := [] }

/-- Sources of a warm reset, coded as CLK_STAT.LASTSRC. -/
inductive WarmSrc where
  | none | resetVerb | exitVerb | cmdA | cmdB | t10
  deriving DecidableEq, Repr

/-- Clocks and resets. -/
structure Clk where
  badkey : Nat
  lastsrc : WarmSrc
  drainfail : Bool
  rootgood : Bool
  plllock : Bool
  rccnt : BitVec 16
  fabcnt : BitVec 16
  /-- CLK_GATE. -/
  gated : BitVec 60
  /-- Gating written and not yet in effect: domains to gate and to ungate (R185). -/
  toGate : BitVec 60
  toUngate : BitVec 60
  /-- CLK_URST: unit resets in progress. -/
  urst : BitVec 11
  warm : Nat
  tra : Nat
  trb : Nat
  /-- A requested warm reset that has not started. -/
  warmReq : Option WarmSrc
  /-- The drain of a warm reset runs (R188). -/
  draining : Bool
  /-- The crystal input runs. -/
  crystal : Bool
  deriving DecidableEq, Repr

/-- Clocks and unit resets at power-up. [log 8 DESIGN CHOICE] -/
def Clk.reset : Clk :=
  { badkey := 0, lastsrc := .none, drainfail := false, rootgood := false, plllock := false, rccnt := 0, fabcnt := 0,
    gated := 0xF, toGate := 0, toUngate := 0, urst := 0, warm := 0, tra := 0, trb := 0, warmReq := none, draining := false,
    crystal := false }

end Sys2Proof.Machine
end

