-- ==== Sys2Proof/Machine/StUsb.lean ====
section
/-! DEFINITION. The state of the USB hub and function (chapter 16) and of the Kakosor console (chapter 19). -/

namespace Sys2Proof.Machine

/-- Hub port states (R744). A port under test keeps the selector, and whether it has power and a device. -/
inductive PortSt where
  | poweredOff | disconnected | disabled | resetting | enabled | suspended | resuming
  | testing (sel : Fin 6) (powered device : Bool)
  deriving DecidableEq, Repr

/-- A hub port: its state, the device's speed, and the change bits of wPortChange (bits 4 to 0: reset, over-current, suspend,
enable, connection). -/
structure Port where
  st : PortSt
  speed : UsbSpeed
  change : BitVec 5
  /-- PORT_OVER_CURRENT. -/
  oc : Bool
  /-- The frame of the latest SOF, or keep-alive, that the hub sent to the port (R749). -/
  sof : Option (BitVec 11)
  deriving DecidableEq, Repr

def Port.reset : Port := { st := .poweredOff, speed := .full, change := 0, oc := false, sof := none }

/-- A non-periodic translator buffer (R748). -/
structure NpBuf where
  addr : BitVec 7
  ep : BitVec 4
  result : Option TtResult
  deriving DecidableEq, Repr

/-- A periodic translator entry, with its answer once the transaction has ended. `full` marks one that takes no entry: a
start-split that found all entries in use, or an abandoned transaction; its complete-splits are answered ERR (R748). [log 99
DEDUCED] -/
structure PerEnt where
  addr : BitVec 7
  ep : BitVec 4
  result : Option TtResult
  full : Bool
  deriving DecidableEq, Repr

/-- A function endpoint with its two buffers (R756). -/
structure Ep where
  ie : Bool
  halt : Bool
  toggle : Bool
  hwnext : Bool
  st0 : Bool
  st1 : Bool
  len0 : BitVec 7
  len1 : BitVec 7
  nak : Nat
  dup : Nat
  /-- The HWNEXT buffer has been sent and its handshake is awaited; `resend` marks one already sent before. -/
  sent : Bool
  resend : Bool
  buf0 : Tbl Byte
  buf1 : Tbl Byte
  deriving DecidableEq, Repr

def Ep.reset : Ep :=
  { ie := false, halt := false, toggle := false, hwnext := false, st0 := false, st1 := false, len0 := 0, len1 := 0, nak := 0,
    dup := 0, sent := false, resend := false, buf0 := [], buf1 := [] }

/-- What EP0 answers to the latest request or token. -/
inductive UsbResp where
  | none | ack | nak | stall | nyet | err
  | data (pid1 : Bool) (d : List Byte)
  /-- The result of a translator transaction, at its complete-split. -/
  | split (r : TtResult)
  deriving DecidableEq, Repr

/-- EP0 of a device: the stages of a control transfer (R755). -/
inductive Ep0 where
  | idle
  /-- A data stage IN with the bytes still to send, whether a zero-length packet ends it, the toggle, and whether a packet
  awaits its handshake. -/
  | dataIn (left : List Byte) (zlp tog sent : Bool)
  /-- A status stage IN, and whether its packet awaits the handshake. -/
  | statusIn (sent : Bool)
  | statusOut
  | stalled
  deriving DecidableEq, Repr

/-- The speed-detection handshake (R741). -/
inductive Chirp where
  | none | ours | waiting
  deriving DecidableEq, Repr

/-- The USB block. -/
structure Usb where
  testen : Bool
  wake : Bool
  /-- The Umaon drives the remote-wakeup K upstream. -/
  kOut : Bool
  fsonly : Bool
  atten : Bool
  hubaddr : BitVec 7
  fnaddr : BitVec 7
  /-- The address that takes effect at the end of the status stage (SET_ADDRESS). -/
  hubNewAddr : Option (BitVec 7)
  fnNewAddr : Option (BitVec 7)
  hubcfg : Bool
  fncfg : Bool
  hubRwe : Bool
  fnRwe : Bool
  idok : Bool
  susp : Bool
  /-- The D+ pull-up is connected. -/
  pullup : Bool
  /-- The link runs at high speed. -/
  hs : Bool
  /-- VBUS is valid. -/
  vbus : Bool
  chirp : Chirp
  evt : BitVec 10
  ie : BitVec 10
  frame : BitVec 11
  uframe : BitVec 3
  /-- The hub runs on its own frame timer (R749). -/
  ownTimer : Bool
  /-- USB_OCNn is low, bit n (R745). -/
  ocPins : BitVec 5
  /-- The link went idle while a port resumed: the suspend follows (Table 16-9). -/
  suspDue : Bool
  line : Nat
  noack : Nat
  ports : Tbl Port
  stopped : Bool
  np0 : Option NpBuf
  np1 : Option NpBuf
  per : List PerEnt
  eps : Tbl Ep
  hubEp0 : Ep0
  fnEp0 : Ep0
  /-- The hub's status-change endpoint: halt and toggle. -/
  scHalt : Bool
  scToggle : Bool
  scSent : Bool
  /-- The answer to the latest token or split. -/
  resp : UsbResp
  /-- The last 64-byte report sent on EP1 since the bus reset (R754). -/
  report : List Byte
  /-- The test mode of the upstream port, and the function's, by selector; 0: none. The `New` ones wait for the status stage. -/
  testmode : Fin 6
  fnTest : Fin 6
  testNew : Fin 6
  fnTestNew : Fin 6
  /-- The function serves EP1, EP2 and EP4 (R761). -/
  served : Bool
  -- the descriptor store: kept by unit and warm resets, emptied by a power reset (R775)
  vid : BitVec 16
  hubPid : BitVec 16
  fnPid : BitVec 16
  bcdDev : BitVec 16
  /-- String descriptors: index, owner bits, UTF-16LE bytes (R751). -/
  strings : List (Byte × Byte × List Byte)
  deriving DecidableEq, Repr

/-- The USB block at power-up (R775). [log 8 DESIGN CHOICE] -/
def Usb.reset : Usb :=
  { testen := false, wake := false, kOut := false, fsonly := false, atten := false, hubaddr := 0, fnaddr := 0, hubNewAddr := none,
    fnNewAddr := none, hubcfg := false, fncfg := false, hubRwe := false, fnRwe := false, idok := false, susp := false,
    pullup := false, hs := false, vbus := false, chirp := .none, evt := 0, ie := 0, frame := 0, uframe := 0,
    ownTimer := false, ocPins := 0, suspDue := false, line := 0, noack := 0, ports := [], stopped := false, np0 := none, np1 := none, per := [], eps := [],
    hubEp0 := .idle, fnEp0 := .idle, scHalt := false, scToggle := false, scSent := false, resp := .none, report := [], testmode := 0,
    fnTest := 0, testNew := 0, fnTestNew := 0,
    served := false, vid := 0, hubPid := 0, fnPid := 0, bcdDev := 0, strings := [] }

/-- What is wrong with the line a session is receiving, in the order of the NO codes (R856, R859). -/
structure LineErr where
  char : Bool
  long : Bool
  lost : Bool
  frame : Bool
  deriving DecidableEq, Repr

def LineErr.none : LineErr := { char := false, long := false, lost := false, frame := false }

/-- A line that has ended and waits for execution: its session, its characters and its defects. -/
structure Line where
  ses : Fin 5
  text : Text
  err : LineErr
  /-- Characters it took in the input buffer (R862). -/
  raw : Nat
  deriving DecidableEq, Repr

/-- A console session (R853). -/
structure Session where
  opn : Bool
  /-- The CONSOLE record turned the UART off. -/
  off : Bool
  rate : Fin 12
  quiet : Bool
  notify : Bool
  /-- A rate to be taken at the end of the reply (BAUD). -/
  newRate : Option (Fin 12)
  -- the CONSOLE record's values, to which the end of a session returns (R869)
  rate0 : Fin 12
  quiet0 : Bool
  notify0 : Bool
  /-- The line being received, its defects, and whether the previous character was a CR that ended a line. -/
  line : Text
  raw : Nat
  err : LineErr
  afterCr : Bool
  /-- The characters received belong to a line that began before release (R148). -/
  preLine : Bool
  /-- The latest character is a CR that closed a line begun before release: an LF after it belongs to that line (R148, R856). -/
  preCr : Bool
  /-- Characters queued for transmission. -/
  out : Text
  /-- The stored replies, latest first: tag and reply (R861). -/
  replay : List (Text × Text)
  lines : BitVec 16
  replays : BitVec 16
  ferr : BitVec 16
  drop : BitVec 16
  /-- A break of 250 ms or more ended the session (R869). -/
  broken : Bool
  deriving DecidableEq, Repr

def Session.reset : Session :=
  { opn := false, off := false, rate := 0, quiet := false, notify := false, newRate := none, rate0 := 0, quiet0 := false,
    notify0 := false, line := [], raw := 0, err := .none, afterCr := false, preLine := false, preCr := false, out := [], replay := [], lines := 0,
    replays := 0, ferr := 0, drop := 0, broken := false }

/-- The open image of the IMAGE verbs (R875). -/
structure ImgUpd where
  port : Side
  /-- Sectors still to erase, first to last, and the number asked for: those no longer listed are erased. -/
  erase : List Nat
  total : Nat
  deriving DecidableEq, Repr

/-- What happens when a reply has been sent (R873). [log 123 DEDUCED] -/
inductive AfterReply where
  | none
  | warm (exit : Bool)
  deriving DecidableEq, Repr

/-- The console. -/
structure Uat where
  ses : Tbl Session
  /-- Helm holder (R868). -/
  helm : Option (Fin 5)
  unlocked : Bool
  helmIdle : Nat
  /-- The outstanding challenge and the session it was issued to (R870). -/
  chal : Option (BitVec 32 × Fin 5)
  /-- Wrong responses in a row, and the lockout (R871). -/
  wrong : Nat
  lockout : Bool
  /-- When the lockout began, in RC counts (R871). -/
  lockAt : Nat
  /-- Lines ended and not yet executed, in line-end order (R862). -/
  queue : List Line
  image : Option ImgUpd
  /-- The session whose reply, once sent, starts a warm reset. -/
  after : AfterReply
  afterSes : Fin 5
  /-- Characters queued up to the end of that reply that no EP3 IN packet holds yet, once it is queued (R873). -/
  afterLeft : Option Nat
  /-- The session that asked for an evaluation and awaits its reply (EVAL). -/
  evalFor : Option (Fin 5 × Text × Bool)
  deriving DecidableEq, Repr

def Uat.reset : Uat :=
  { ses := [], helm := none, unlocked := false, helmIdle := 10, chal := none, wrong := 0, lockout := false, lockAt := 0,
    queue := [], image := none, after := .none, afterSes := 0, afterLeft := none, evalFor := none }

end Sys2Proof.Machine
end

