-- ==== Sys2Proof/Machine/State.lean ====
section
/-! DEFINITION. The state of the Umaon, its state after a power reset, and the reasons a command can stop with. -/

namespace Sys2Proof.Machine

/-- The whole machine: plain data. [log 124 DESIGN CHOICE] -/
structure State where
  /-- Commands that wait, first in, first out. -/
  pending : List Instr
  /-- The model's own counter of free values used so far; nothing of the spec reads it. -/
  free : Nat
  /-- The model's own output: the value that the latest register-read command returned. -/
  rdata : W64
  /-- Microseconds on the RC reference since power-good (WRD_TIME, CAN_TIME, GATE_TREL). -/
  us : Nat
  /-- `us` at the latest release (CAN_TIME, R815). -/
  relUs : Nat
  cpuA : Cpu
  cpuB : Cpu
  cpuG : Cpu
  /-- Working SRAM, gatehouse TCM and DRAM, by physical word index (address / 8). Unlisted: UNWRITTEN. -/
  mem : Tbl TWord
  /-- The shared L2, 2,048 sets of 8 ways: each set's lines, most recently used first. Unlisted: empty. -/
  l2 : Tbl (List L2Line)
  /-- The code words that hold wrong bits (R29). -/
  upset : List Upset
  schA : Sch
  schB : Sch
  irt : Irt
  drc : Drc
  xsp : Xsp
  spk : Spk
  wrd : Wrd
  gate : Gate
  clk : Clk
  grm : Grm
  /-- Counter channels CH00 to CH31. Unlisted: `Chan.reset`. -/
  cta : Tbl Chan
  pio : Pio
  usb : Usb
  canA : Can
  canB : Can
  nfc : Nfc
  uat : Uat
  deriving DecidableEq, Repr

/-- Why a command stops the machine: no command does. -/
inductive Fault where
  /-- Raised by no command; the type needs an inhabitant for the host's outcome. Safe. -/
  | none
  deriving DecidableEq, Repr

/-- Why a command has no meaning. -/
inductive Refusal where
  /-- The dispatch has no meaning for the command yet. Safe: the model says nothing of it. -/
  | notModelled (mnemonic : String)
  deriving DecidableEq, Repr

/-- The outcome of a command. -/
abbrev Out := Host.Outcome State Fault Refusal

/-- The machine right after a power reset, before power-good, as shipped: fuses unblown, flash erased, the Spenik store
UNWRITTEN (R645), the tag store at 0, no pin driven. [log 8 DESIGN CHOICE, 9 DESIGN CHOICE] -/
def State.reset : State :=
  { pending := [], free := 0, rdata := 0, us := 0, relUs := 0, cpuA := .reset, cpuB := .reset, cpuG := .reset, mem := [],
    l2 := [], upset := [],
    schA := .reset, schB := .reset, irt := .reset, drc := .reset, xsp := .reset, spk := .reset, wrd := .reset,
    gate := .reset, clk := .reset, grm := .reset, cta := [], pio := .reset, usb := .reset, canA := .reset, canB := .reset,
    nfc := .reset, uat := .reset }

end Sys2Proof.Machine
end

