-- ==== Sys2Proof/Machine/Ops.lean ====
section
/-! DEFINITION. The named operations over the state that every chapter uses: tandems and lockers, capability fields,
detections and counters, the physical address map, and the words of the volatile and persistent memories. -/

namespace Sys2Proof

/-! Tandems. -/

def Tandem.idx : Tandem → Nat
  | .a => 0 | .b => 1 | .g => 2

/-- The main tandem of a letter. -/
def Side.tandem : Side → Tandem
  | .a => .a | .b => .b

def Side.idx : Side → Nat
  | .a => 0 | .b => 1

def Side.other : Side → Side
  | .a => .b | .b => .a

/-- Lockers of a tandem's cores (R468). -/
def Tandem.lockers : Tandem → Nat
  | .g => 2 | _ => 8

end Sys2Proof

namespace Sys2Proof.Machine

def State.cpu (s : State) : Tandem → Cpu
  | .a => s.cpuA | .b => s.cpuB | .g => s.cpuG

def State.setCpu (s : State) (t : Tandem) (c : Cpu) : State :=
  match t with
  | .a => { s with cpuA := c } | .b => { s with cpuB := c } | .g => { s with cpuG := c }

def State.modCpu (s : State) (t : Tandem) (f : Cpu → Cpu) : State := s.setCpu t (f (s.cpu t))

def State.sch (s : State) : Side → Sch
  | .a => s.schA | .b => s.schB

def State.setSch (s : State) (m : Side) (c : Sch) : State :=
  match m with
  | .a => { s with schA := c } | .b => { s with schB := c }

def State.modSch (s : State) (m : Side) (f : Sch → Sch) : State := s.setSch m (f (s.sch m))

def State.can (s : State) : Side → Can
  | .a => s.canA | .b => s.canB

def State.setCan (s : State) (m : Side) (c : Can) : State :=
  match m with
  | .a => { s with canA := c } | .b => { s with canB := c }

def State.modCan (s : State) (m : Side) (f : Can → Can) : State := s.setCan m (f (s.can m))

/-- What a root-derived domain does: while the crystal stands, nothing (R205). [log 56 DESIGN CHOICE] -/
def State.rooted (s : State) (f : State → State) : State := if s.clk.crystal then f s else s

/-- The next free value. [log 6 DESIGN CHOICE] -/
def State.freeVal (s : State) : W64 := Config.free s.free

/-- The next free value. [log 6 DESIGN CHOICE] -/
def State.freeNext (s : State) : State := { s with free := s.free + 1 }

/-! Lockers and registers (R269, R468). -/

def Cpu.locker (c : Cpu) (n : Nat) : Locker := tget Locker.reset c.lockers n

def Cpu.setLocker (c : Cpu) (n : Nat) (l : Locker) : Cpu := { c with lockers := tset Locker.reset c.lockers n l }

/-- The current locker. -/
def Cpu.lk (c : Cpu) : Locker := c.locker c.cur.val

def Cpu.setLk (c : Cpu) (l : Locker) : Cpu := c.setLocker c.cur.val l

def Locker.getG (l : Locker) (r : Reg) : TWord := if r = 0 then .int 0 else tget .unwritten l.g r.val

/-- A write of g0 is discarded (R269, R305). -/
def Locker.setG (l : Locker) (r : Reg) (v : TWord) : Locker :=
  if r = 0 then l else { l with g := tset .unwritten l.g r.val v }

def Locker.getC (l : Locker) (r : CReg) : Cap := if r = 0 then .null else tget .unwritten l.c r.val

/-- A write of c0 is ignored (R227). -/
def Locker.setC (l : Locker) (r : CReg) (v : Cap) : Locker :=
  if r = 0 then l else { l with c := tset .unwritten l.c r.val v }

def Locker.getF (l : Locker) (r : FReg) : TWord := tget .unwritten l.f r.val

def Locker.setF (l : Locker) (r : FReg) (v : TWord) : Locker := { l with f := tset .unwritten l.f r.val v }

/-! Capability fields (Tables 5-3 to 5-5, R224). -/

def Cap.cursor (c : Cap) : Nat := fld c.a.toNat 0 44
def Cap.perms (c : Cap) : Nat := fld c.a.toNat 44 10
def Cap.ring (c : Cap) : Nat := fld c.a.toNat 54 2
def Cap.sealed (c : Cap) : Bool := bitOf c.a.toNat 56
def Cap.tether (c : Cap) : Bool := bitOf c.a.toNat 57
def Cap.otype (c : Cap) : Nat := fld c.a.toNat 58 6
def Cap.base (c : Cap) : Nat := fld c.b.toNat 0 44
def Cap.mant (c : Cap) : Nat := fld c.b.toNat 44 15
def Cap.expo (c : Cap) : Nat := fld c.b.toNat 59 5
def Cap.len (c : Cap) : Nat := c.mant * 2 ^ c.expo
def Cap.top (c : Cap) : Nat := c.base + c.len

/-- The permissions of Table 5-5, counted from bit 44. -/
def pLD : Nat := 1
def pST : Nat := 2
def pEX : Nat := 4
def pLDC : Nat := 8
def pSTC : Nat := 16
def pTTH : Nat := 32
def pDUR : Nat := 64
def pSEAL : Nat := 128
def pUNSEAL : Nat := 256
def pSYS : Nat := 512

/-- Whether the capability carries every permission of the mask. -/
def Cap.has (c : Cap) (m : Nat) : Bool := c.perms &&& m == m

/-- The well-formedness of R224. -/
def capWellFormed (a b : W64) : Bool :=
  let c : Cap := ⟨.valid, a, b⟩
  decide (c.base % 2 ^ c.expo = 0) && decide (c.top ≤ 2 ^ 44) && (c.sealed || decide (c.otype = 0))

def Cap.setCursor (c : Cap) (x : Nat) : Cap := { c with a := putBits c.a 0 44 x }
def Cap.setPerms (c : Cap) (x : Nat) : Cap := { c with a := putBits c.a 44 10 x }
def Cap.setRing (c : Cap) (x : Nat) : Cap := { c with a := putBits c.a 54 2 x }
def Cap.setTether (c : Cap) : Cap := { c with a := putBits c.a 57 1 1 }
/-- The capability sealed with an object type. -/
def Cap.sealWith (c : Cap) (t : Nat) : Cap := { c with a := putBits (putBits c.a 56 1 1) 58 6 t }
/-- The capability unsealed, with OTYPE 0. -/
def Cap.unseal (c : Cap) : Cap := { c with a := putBits (putBits c.a 56 1 0) 58 6 0 }
def Cap.setBounds (c : Cap) (e l base : Nat) : Cap := { c with b := w64 (pack [(59, e), (44, l), (0, base)]) }

/-- The smallest exponent of R236 from `e` upward, at most `fuel` steps away. -/
def fitExpFrom (b t : Nat) : Nat → Nat → Nat
  | 0, e => e
  | fuel + 1, e => if ceilDiv t (2 ^ e) - b / 2 ^ e ≤ 32767 then e else fitExpFrom b t fuel (e + 1)

/-- The E of R236 for the bounds from `b` to `t`; t ≤ 2^44 needs at most 30. -/
def fitExp (b t : Nat) : Nat := fitExpFrom b t 31 0

/-- A root capability: bounds from `base` of `len` bytes, permissions, CURSOR, ring 0, unsealed (R139). -/
def Cap.root (base len perms cursor : Nat) : Cap :=
  let e := fitExp base (base + len)
  ⟨.valid, w64 (pack [(44, perms), (0, cursor)]), w64 (pack [(59, e), (44, ceilDiv (base + len) (2 ^ e) - base / 2 ^ e),
    (0, base)])⟩

/-- The current ring (R230). -/
def Cpu.ring (c : Cpu) : Nat := c.lk.pcc.ring

/-- PCC carries SYS. -/
def Cpu.sys (c : Cpu) : Bool := c.lk.pcc.has pSYS

/-! Detections, events and violation counters. -/

/-- A detection reaches the warden (Table 2-3); the warden decides in WARDEN_DECISION. Between the trip of VIN_SENSE and the
run-out record it also joins that record's DET (R101). [log 51 DEDUCED] -/
def State.detect (s : State) (bit : Fin 18) (detail : Nat) : State :=
  let due := s.wrd.mode == .runOut && !s.spk.runoutRec
  { s with wrd := { s.wrd with
      arrived := s.wrd.arrived ++ [⟨bit, BitVec.ofNat 8 detail⟩]
      tripDet := if due then s.wrd.tripDet ||| BitVec.ofNat 18 (2 ^ bit.val) else s.wrd.tripDet } }

/-- MCHK reported to the warden. [log 45 DEDUCED] -/
def State.mchk (s : State) (detail : Nat) : State := s.detect 17 detail

/-- A corrected error of a memory group (R897). [log 45 DEDUCED] -/
def State.eccCorr (s : State) (g : Nat) : State :=
  { s with irt := { s.irt with eccCorr := s.irt.eccCorr ||| BitVec.ofNat 8 (2 ^ g) } }

/-- An uncorrectable error of a memory group (R897). [log 45 DEDUCED] -/
def State.eccUnc (s : State) (g : Nat) : State :=
  { s with irt := { s.irt with eccUnc := s.irt.eccUnc ||| BitVec.ofNat 8 (2 ^ g) } }

/-- Violation counter `k` counts one event (R905, R906). -/
def State.vc (s : State) (k : Nat) : State :=
  { s with irt := { s.irt with vc := tmod 0 s.irt.vc k fun x => satAdd 0xFFFFFFFF x 1 } }

/-- The lifecycle state of fuse row 8: 0 BLANK, 1 PROVISIONED, 2 FIELD, 3 RETURNED (Table 3-6, R136). -/
def lifecycleOf (row : W64) : Option (Fin 4) :=
  match wf row 0 24 with
  | 0 => some 0 | 0xFF => some 1 | 0xFFFF => some 2 | 0xFFFFFF => some 3 | _ => none

def State.lifecycle (s : State) : Option (Fin 4) := lifecycleOf (tget 0 s.gate.shadow 8)

/-! The physical address map (Table 1-2). -/

/-- The populated regions; a device region carries its block number in the order of Table 1-2. -/
inductive Region where
  | rom | tcm | sram | spenik | dev (b : Fin 17) | winA | winB | dram
  deriving DecidableEq, Repr

def spkBase : Nat := 0x40000000
def devBase : Nat := 0x80000000
def winABase : Nat := 0x100000000
def winBBase : Nat := 0x180000000
def dramBase : Nat := 0x1000000000

/-- The blocks of Table 1-2 by number. -/
def blkWRD : Fin 17 := 0
def blkCLK : Fin 17 := 1
def blkGATE : Fin 17 := 2
def blkIRT : Fin 17 := 3
def blkSCHA : Fin 17 := 4
def blkSCHB : Fin 17 := 5
def blkSPK : Fin 17 := 6
def blkGRM : Fin 17 := 7
def blkDRC : Fin 17 := 8
def blkXSP : Fin 17 := 9
def blkCTA : Fin 17 := 10
def blkPIO : Fin 17 := 11
def blkUSB : Fin 17 := 12
def blkCANA : Fin 17 := 13
def blkCANB : Fin 17 := 14
def blkNFC : Fin 17 := 15
def blkUAT : Fin 17 := 16

/-- Unit `n` of GATE_UNITS is disabled by fuse. -/
def State.unitOff (s : State) (n : Nat) : Bool := s.gate.dis.getLsbD n

/-- Clock domain `d` of Table 4-4 is gated. -/
def State.gated (s : State) (d : Nat) : Bool := s.clk.gated.getLsbD d

/-- A block is populated: its unit is not disabled by fuse (R35) and its register domain is not gated (R186). -/
def State.blkOn (s : State) (b : Fin 17) : Bool :=
  !s.gated (30 + b.val) &&
    !(match b.val with
      | 12 => s.unitOff 0 | 13 => s.unitOff 1 | 14 => s.unitOff 2 | 15 => s.unitOff 3 | _ => false)

/-- The units of CLK_URST that a block serves. -/
def blkUnits (b : Fin 17) : List Nat :=
  match b.val with
  | 9 => [6] | 10 => [4] | 11 => [5] | 12 => [0] | 13 => [1] | 14 => [2] | 15 => [3] | 16 => [7, 8, 9, 10] | _ => []

/-- The gating of a domain other than its register domain holds a unit of a block in unit reset (R186); a unit that a fuse
disables is none. [log 16 DEDUCED] -/
def State.unitGated (s : State) (b : Fin 17) : Bool :=
  let g (ds : List Nat) : Bool := ds.any s.gated
  match b.val with
  | 9 => g [22, 24] && !s.unitOff 6 | 16 => [1, 2, 3].any fun k => s.gated (47 + k) && !s.unitOff (6 + k)
  | 11 => g [55, 56] | 12 => g [8, 9, 10, 11, 12] | 13 => g [28] | 14 => g [29] | 15 => g [58] | _ => false

/-- A unit of a block is in unit reset: an access stalls until that ends (R186, R190). [log 16 DEDUCED] -/
def State.devBusy (s : State) (b : Fin 17) : Bool := (blkUnits b).any s.clk.urst.getLsbD || s.unitGated b

/-- A read of a register by the core waits for its block (R190). [log 16 DEDUCED] -/
def Cpu.reading (c : Cpu) : Bool := match c.wait with
  | .read _ _ => true
  | _ => false

/-- Initiator `who` executes and block `b` is populated: what a register-access command of its own needs. The crystal's stop
stops it (R205). [log 3 DESIGN CHOICE, 15 DESIGN CHOICE] -/
def State.acc (s : State) (who : Tandem) (b : Fin 17) : Bool :=
  s.blkOn b && (s.cpu who).run == .running && !(s.cpu who).reading && s.clk.crystal

/-- The capacity of an installed channel (Table 12-6): DENS 1, 2 or 3 for 1, 2 or 4 GiB; 0 while not installed (R23). -/
def DramCh.size (c : DramCh) : Nat := if c.ready && c.dens.val != 0 then 2 ^ (29 + c.dens.val) else 0

/-- Installed DRAM (R23). -/
def State.dramSize (s : State) : Nat := s.drc.a.size + s.drc.b.size

/-- The channel that holds a byte of installed DRAM, by its offset in the region (R24). -/
def State.dramChan (s : State) (off : Nat) : Side :=
  if s.drc.a.size = 0 then .b
  else if s.drc.b.size = 0 then .a
  else if s.drc.a.size = s.drc.b.size then (if off / 256 % 2 = 0 then .a else .b)
  else if off < s.drc.a.size then .a else .b

/-- The capacity of a configured flash (R572, R22). -/
def XspPort.size (p : XspPort) : Nat := if p.cap = 0 then 0 else 2 ^ (20 + (p.cap - 1))

/-- The populated region that holds a physical address, for tandem `t` (Table 1-2, R18, R20, R22, R23, R35; R678: no
persistent access once the frame map is lost). -/
def State.region (s : State) (t : Tandem) (a : Nat) : Option Region :=
  if a < 0x40000 then (if t.isG then some .rom else none)
  else if 0x10000000 ≤ a && a < 0x10080000 then (if t.isG then some .tcm else none)
  else if 0x20000000 ≤ a && a < 0x20400000 then some .sram
  else if 0x40000000 ≤ a && a < 0x44000000 then (if s.grm.maplost then none else some .spenik)
  else if h : 0x80000000 ≤ a ∧ a < 0x80110000 then
    let b : Fin 17 := ⟨(a - 0x80000000) / 0x10000, by omega⟩
    if s.blkOn b then some (.dev b) else none
  else if winABase ≤ a && a < winABase + s.xsp.a.size then some .winA
  else if winBBase ≤ a && a < winBBase + s.xsp.b.size then some .winB
  else if dramBase ≤ a && a < dramBase + s.dramSize then some .dram
  else none

/-- The one region that holds `n` bytes from `a`, if one does (R31). -/
def State.regionOf (s : State) (t : Tandem) (a n : Nat) : Option Region :=
  match s.region t a, s.region t (a + n - 1) with
  | some r, some q => if r = q then some r else none
  | _, _ => none

/-! Memory words. -/

/-- The 64 KiB block of DRAM of a physical address is fresh (R569). [log 91 DEDUCED] -/
def State.fresh (s : State) (a : Nat) : Bool :=
  s.drc.fresh.any fun r => decide (r.1 ≤ (a - dramBase) / 0x10000 ∧ (a - dramBase) / 0x10000 < r.2)

/-- The newest of a word's index entries in a list, if it has one. -/
def newestIn (w : Nat) : List LEntry → Option LEntry
  | [] => none
  | e :: r =>
    match newestIn w r with
    | none => if e.word = w then some e else none
    | some f => if e.word = w ∧ f.seq < e.seq then some e else some f

/-- Every entry of the ledger index that a read consults (R608): the OPEN epochs' and the closed epochs', but for entries
whose word already holds a newer applied value. [log 79 DEDUCED] -/
def Spk.index (k : Spk) : List LEntry :=
  (k.opA.entries ++ k.opB.entries ++ k.opG.entries ++ k.closed.flatMap Epoch.entries).filter fun e =>
    decide (tget 0 k.doneSeq e.word ≤ e.seq)

/-- A word of the Spenik store by word index from its base: its newest index entry, else the array (R609). -/
def Spk.word (k : Spk) (w : Nat) : TWord :=
  match newestIn w k.index with
  | some e => e.val
  | none => tget .unwritten k.array w

/-- The 8 bytes of flash at an offset. -/
def XspPort.flashWord (p : XspPort) (off : Nat) : W64 :=
  w64 (ofBytes ((List.range 8).map fun i => tget 0xFF p.flash (off + i)))

/-- The lines of the L2 set of a line, most recently used first (Table 12-1). -/
def State.l2At (s : State) (line : Nat) : List L2Line := tget [] s.l2 (line % 2048)

/-- The L2's own copy of a line. -/
def State.l2Line (s : State) (line : Nat) : Option L2Line := (s.l2At line).find? fun e => e.line == line

/-- A word of a flash window: the L2's copy, which a change of the flash leaves standing (R575), else the flash's. [log 26
DEDUCED] -/
def State.winWord (s : State) (p : XspPort) (base a : Nat) : W64 :=
  match s.l2Line (a / 64) with
  | some e => e.win.getD (a % 64 / 8) (p.flashWord (a - base))
  | none => p.flashWord (a - base)

/-- The tagged word with physical word index `w`, as the L2 gives it. [log 10 DEDUCED, 12 DEDUCED, 48 DESIGN CHOICE] -/
def State.memWord (s : State) (w : Nat) : TWord :=
  let a := 8 * w
  if a < 0x40000 then (if Config.romInsn w then ⟨.insn, Config.romBits w⟩ else .int (Config.romBits w))
  else if 0x40000000 ≤ a && a < 0x44000000 then s.spk.word (w - spkBase / 8)
  else if winABase ≤ a && a < winBBase then ⟨.bytes, s.winWord s.xsp.a winABase a⟩
  else if winBBase ≤ a && a < winBBase + 0x80000000 then ⟨.bytes, s.winWord s.xsp.b winBBase a⟩
  else if dramBase ≤ a && s.fresh a then .unwritten
  else tget .unwritten s.mem w

/-- A fresh block is cleared before it is written (R569): its words are UNWRITTEN and its fresh bit goes. -/
def clearFresh (n : Nat) (l : List (Nat × Nat)) : List (Nat × Nat) :=
  l.flatMap fun r =>
    if r.1 ≤ n ∧ n < r.2 then (if r.1 < n then [(r.1, n)] else []) ++ (if n + 1 < r.2 then [(n + 1, r.2)] else []) else [r]

/-- The site is a word of the 64 KiB block from word index `lo`. -/
def Site.inBlock (lo : Nat) : Site → Bool
  | .word w | .away w => lo ≤ w && w < lo + 0x2000
  | _ => false

/-- Write a word of the working SRAM, the TCM or DRAM; the hardware writes a fresh block's words UNWRITTEN first, with valid
check bits (R569). -/
def State.setMem (s : State) (w : Nat) (v : TWord) : State :=
  let a := 8 * w
  if dramBase ≤ a ∧ s.fresh a = true then
    let n := (a - dramBase) / 0x10000
    let lo := dramBase / 8 + n * 0x2000
    { s with mem := tset .unwritten (tclr s.mem lo (lo + 0x2000)) w v,
             drc := { s.drc with fresh := clearFresh n s.drc.fresh },
             upset := s.upset.filter fun u => !(u.site.inBlock lo) }
  else { s with mem := tset .unwritten s.mem w v }

/-- The OPEN epoch of a tandem. -/
def Spk.op (k : Spk) : Tandem → OpenEp
  | .a => k.opA | .b => k.opB | .g => k.opG

def Spk.setOp (k : Spk) (t : Tandem) (o : OpenEp) : Spk :=
  match t with
  | .a => { k with opA := o } | .b => { k with opB := o } | .g => { k with opG := o }

/-- Replace the entry of a word in an epoch (one entry for each distinct word, R608). [log 79 DEDUCED] -/
def putEntry (e : LEntry) : List LEntry → List LEntry
  | [] => [e]
  | f :: r => if f.word = e.word then e :: r else f :: putEntry e r

/-- Words that the L2 accepts as one persistent write of tandem `t`: entries with one sequence number (R607, R620). -/
def Spk.accept (k : Spk) (t : Tandem) (ws : List (Nat × TWord)) : Spk :=
  let o := k.op t
  let es := ws.foldl (fun l p => putEntry ⟨p.1, p.2, k.seq + 1⟩ l) o.entries
  { k.setOp t { o with entries := es } with seq := k.seq + 1 }

/-- The words that `ws` adds to an epoch's count (R604). -/
def OpenEp.extra (o : OpenEp) (ws : List Nat) : List Nat := ws.filter fun w => !o.counted.contains w

/-- Admission of a persistent store (R604 to R606): `none` where LEDGER_FULL is due. -/
def Spk.ledgerAdmit (k : Spk) (t : Tandem) (ws : List Nat) : Option Spk :=
  let o := k.op t
  let l := o.extra ws ++ o.counted
  if o.extra ws = [] then some k
  else if 32768 < l.length then none
  else some (k.setOp t { o with counted := l, hw := o.hw || decide (29492 ≤ l.length) })

/-- A LEDGER_FULL fault is counted in SPK_OPEN_x.FULL. -/
def Spk.refuse (k : Spk) (t : Tandem) : Spk :=
  let o := k.op t
  k.setOp t { o with full := satAdd 0xFF o.full 1 }

/-- A write to a line clears the reservations of the tandems that did not make it (R340); a hold of the line has then ended
(R343). -/
def State.loseResv (s : State) (by_ : Option Tandem) (line : Nat) : State :=
  let f (t : Tandem) (c : Cpu) : Cpu := if by_ ≠ some t then
      { c with resv := if c.resv = some line then none else c.resv, hold := if c.hold = some line then none else c.hold }
    else c
  { s with cpuA := f .a s.cpuA, cpuB := f .b s.cpuB, cpuG := f .g s.cpuG }

/-- A word's bits with bytes replaced from byte `off` on. [log 11 DESIGN CHOICE, 17 DEDUCED] -/
def spliceBytes (v : W64) (off : Nat) (bs : List Byte) : W64 :=
  let old := bytesOf 8 v.toNat
  w64 (ofBytes ((old.take off ++ bs ++ old.drop (off + bs.length)).take 8))

/-- What a store entry leaves in the words it writes: word index and new word, from the words before it. -/
def SbEnt.writes (e : SbEnt) (view : Nat → TWord) : List (Nat × TWord) :=
  match e.tag with
  | .dev => []
  | .part => [(e.addr / 8, ⟨.bytes, spliceBytes (view (e.addr / 8)).bits (e.addr % 8) e.bytes⟩)]
  | .whole t => [(e.addr / 8, ⟨t, w64 (ofBytes e.bytes)⟩)]
  | .pair ta tb => [(e.addr / 8, ⟨ta, w64 (ofBytes (e.bytes.take 8))⟩), (e.addr / 8 + 1, ⟨tb, w64 (ofBytes (e.bytes.drop 8))⟩)]

/-- A word as it stands after the buffered stores `sb`, oldest first. [log 21 DEDUCED] -/
def viewThrough (base : Nat → TWord) : List SbEnt → Nat → TWord
  | [], w => base w
  | e :: r, w => viewThrough (fun x => ((e.writes base).lookup x).getD (base x)) r w

/-- A word as the tandem's own loads see it: after every older buffered store of its own (R554). [log 12 DEDUCED, 21 DEDUCED] -/
def State.viewWord (s : State) (t : Tandem) (w : Nat) : TWord := viewThrough s.memWord (s.cpu t).sb w

/-- The byte at a physical address, as the L2 gives it. -/
def State.byteAt (s : State) (a : Nat) : Byte := BitVec.ofNat 8 ((s.memWord (a / 8)).bits.toNat / 2 ^ (8 * (a % 8)))

/-- PCC.CURSOR advances by 4 (R273); past the last address the next word lies outside the space (R301). -/
def Cpu.advance (c : Cpu) : Cpu :=
  let a := c.lk.pcc.cursor + 4
  { c.setLk { c.lk with pcc := c.lk.pcc.setCursor a } with pcOver := decide (2 ^ 44 ≤ a) }

end Sys2Proof.Machine
end

