-- ==== Sys2Proof/Machine/CanBus.lean ====
section
/-! DEFINITION. The CAN controllers and the safe channel, blocks CANA and CANB (chapter 17). -/

namespace Sys2Proof

/-- Data bytes of a DLC. -/
def dlcLen (fdf : Bool) (dlc : Nat) : Nat :=
  if !fdf then min 8 dlc
  else match dlc with
    | 9 => 12 | 10 => 16 | 11 => 20 | 12 => 24 | 13 => 32 | 14 => 48 | 15 => 64 | n => n

def CanFrame.n (f : CanFrame) : Nat := if f.rtr then 0 else dlcLen f.fdf f.dlc.toNat

/-- Data byte `i`. -/
def CanFrame.byte (f : CanFrame) (i : Nat) : Byte := if i < f.n then (f.data[i]?).getD 0 else 0

/-- What decides bus arbitration: the base identifier, then SRR and IDE, then the rest of an extended identifier. -/
def CanFrame.key (f : CanFrame) : Nat :=
  if f.ide then f.id.toNat / 2 ^ 18 * 2 ^ 19 + 2 ^ 18 + f.id.toNat % 2 ^ 18 else f.id.toNat % 2 ^ 11 * 2 ^ 19

end Sys2Proof

namespace Sys2Proof.Machine

/-- The controller's domains run and its unit is present (R35, R186). [log 3 DESIGN CHOICE] -/
def State.canOn (s : State) (c : Side) : Bool :=
  match c with
  | .a => s.blkOn blkCANA && !s.gated 28 | .b => s.blkOn blkCANB && !s.gated 29

def canBlk (c : Side) : Fin 17 :=
  match c with
  | .a => blkCANA | .b => blkCANB

/-- Do `f` to a controller whose bus side runs; in RUN-OUT none does (R814). -/
def State.onCan (s : State) (c : Side) (f : State → State) : State :=
  if s.canOn c && s.wrd.mode != .runOut && s.clk.crystal then f s else s

/-- Microseconds since release (CAN_TIME). -/
def State.canTime (s : State) : BitVec 32 := if s.gate.released then BitVec.ofNat 32 (s.us - s.relUs) else 0

def Can.event (c : Can) (n : Nat) : Can := { c with evt := c.evt ||| BitVec.ofNat 7 (2 ^ n) }
/-- A rejected write sets BADWR (R797, R798, R808). [log 101 DEDUCED] -/
def Can.badwr (c : Can) : Can := c.event 6

/-- A state change sets CAN_EVT.STATE (R789). -/
def Can.goto (c : Can) (st : CanState) : Can := if c.st = st then c else ({ c with st := st } : Can).event 0

/-- Codes of Table 17-3. -/
def CanState.code : CanState → Nat
  | .off => 0 | .monitor => 1 | .integrating => 2 | .active => 3 | .passive => 4 | .busOff => 5 | .recovering => 6

/-- The controller transmits and acknowledges. -/
def Can.onBus (c : Can) : Bool := c.st == .active || c.st == .passive

def Can.getMb (c : Can) (m : Nat) : Mbox := tget Mbox.reset c.mb m
def Can.setMb (c : Can) (m : Nat) (b : Mbox) : Can := { c with mb := tset Mbox.reset c.mb m b }
def Can.modMb (c : Can) (m : Nat) (f : Mbox → Mbox) : Can := c.setMb m (f (c.getMb m))
def Can.getRxc (c : Can) (n : Nat) : Rxc := tget Rxc.reset c.rxc n
def Can.setRxc (c : Can) (n : Nat) (x : Rxc) : Can := { c with rxc := tset Rxc.reset c.rxc n x }

/-! Bit timing (R784). -/

/-- CAN_BT satisfies R784 with FDEN as given. -/
def btOk (bt : W64) (fden : Bool) : Bool :=
  let nbrp := wf bt 0 6
  let t1 := wf bt 6 9
  let t2 := wf bt 16 8
  let nsjw := wf bt 24 8
  let dbrp := wf bt 32 6
  let d1 := wf bt 38 6
  let d2 := wf bt 44 5
  let dsjw := wf bt 49 5
  let tdco := wf bt 55 7
  let n := nbrp * (1 + t1 + t2)
  let d := dbrp * (1 + d1 + d2)
  decide (1 ≤ nbrp ∧ nbrp ≤ 32 ∧ 2 ≤ t1 ∧ t1 ≤ 256 ∧ 2 ≤ t2 ∧ t2 ≤ 128 ∧ 1 ≤ nsjw ∧ nsjw ≤ t2 ∧ 80 ≤ n) &&
    (if fden then
      decide (1 ≤ dbrp ∧ dbrp ≤ 32 ∧ 1 ≤ d1 ∧ d1 ≤ 32 ∧ 1 ≤ d2 ∧ d2 ≤ 16 ∧ 1 ≤ dsjw ∧ dsjw ≤ d2 ∧ 10 ≤ d ∧ d ≤ n)
    else decide (dbrp = 0 ∧ d1 = 0 ∧ d2 = 0 ∧ dsjw = 0 ∧ tdco = 0))

/-- The bits of CAN_BT that its card lists. -/
def btMask : W64 := 0x3FBFFFFFFFFF7FFF

/-! Frames and mailboxes (R793, R797 to R804). -/

/-- The CRC of R793 over the pseudo-header and the bytes before the CRC field. -/
def safeCrc (id : BitVec 29) (ide : Bool) (bs : List Byte) : Nat :=
  crc32cOf (bytesOf 4 (id.toNat + b2n ide * 2 ^ 31) ++ bs)

def Mbox.kind (b : Mbox) : Nat := wf b.cfg 62 2
def Mbox.owner (b : Mbox) : Side := if b.cfg.getLsbD 61 then .b else .a
def Mbox.fdf (b : Mbox) : Bool := b.cfg.getLsbD 60
def Mbox.ide (b : Mbox) : Bool := b.cfg.getLsbD 58
def Mbox.dlc (b : Mbox) : Nat := wf b.cfg 54 4
def Mbox.retry (b : Mbox) : Nat := wf b.cfg 46 8
def Mbox.conn (b : Mbox) : Nat := wf b.cfg 30 15
def Mbox.id (b : Mbox) : BitVec 29 := (b.cfg.setWidth 29)
def Mbox.n (b : Mbox) : Nat := dlcLen b.fdf b.dlc

/-- The identifier that the frame carries: 11 bits of a base frame. -/
def Mbox.frameId (b : Mbox) : BitVec 29 := if b.ide then b.id else b.id &&& 0x7FF

/-- The payload or data bytes `lo` up to `hi` of a half. -/
def Mbox.part (b : Mbox) (h : Side) (lo hi : Nat) : List Byte :=
  (List.range (hi - lo)).map fun i => tget 0 (match h with | .a => b.dataA | .b => b.dataB) (lo + i)

/-- The frame of a mailbox, from half `h` with DEG as given (R799). -/
def Mbox.build (b : Mbox) (brsen : Bool) (h : Side) (deg : Bool) : CanFrame :=
  let n := b.n
  let body := bytesOf 2 b.nextseq.toNat ++ bytesOf 2 (b.conn + b2n deg * 2 ^ 15) ++ b.part h 4 (n - 4)
  let data := if b.kind = 0 then b.part h 0 n else body ++ bytesOf 4 (safeCrc b.frameId b.ide body)
  { ide := b.ide, id := b.frameId, fdf := b.fdf, brs := b.fdf && b.cfg.getLsbD 59 && brsen,
    esi := false, rtr := false, dlc := BitVec.ofNat 4 b.dlc, data := data }

/-- A mailbox is admitted: PENDING with its frame. -/
def Mbox.admitFrame (b : Mbox) (brsen : Bool) (h : Side) (deg : Bool) : Mbox :=
  { b with st := .pend, deg := deg, errs := 0, frame := some (b.build brsen h deg) }

/-- The half has submitted the mailbox (Table 17-7). [log 103 DEDUCED] -/
def Mbox.submitted (b : Mbox) (h : Side) : Bool :=
  match h with
  | .a => b.ha | .b => b.hb

/-- A half submits the mailbox (Table 17-7). [log 103 DEDUCED] -/
def Mbox.submit (b : Mbox) (h : Side) : Mbox :=
  match h with
  | .a => { b with ha := true } | .b => { b with hb := true }

/-- Mailbox states by code (Table 17-7). -/
def MbState.code : MbState → Nat
  | .empty => 0 | .half => 1 | .pend => 2 | .tx => 3 | .done => 4 | .aborted => 5 | .retryEnd => 6 | .withheld => 7

/-- A writer that a mailbox does not belong to (R797). -/
def Mbox.notMine (b : Mbox) (h : Side) : Bool := b.kind != 2 && b.owner != h

/-- The gate: `none` admits nothing, else the number of halves that a SAFE2 frame needs (R802, R104). A reaction to an
emergency-stop fault closes it in every mode, until the outputs are re-armed (Table 2-4). -/
def State.gate2 (s : State) : Option Nat :=
  if s.wrd.rcStopped || s.wrd.esGates then none
  else match s.wrd.mode with
    | .run => some 2 | .reduced => some 1 | _ => none

/-- A mailbox that a change of the gate has withheld in HALF in this microsecond, at the other half's SUBMIT: the change came
first, and the SUBMIT starts a new HALF (Table 17-9). [log 103 DEDUCED] -/
def Mbox.restarts (b : Mbox) (h : Side) (us : Nat) : Bool :=
  b.st == .withheld && b.cutUs == some us && b.submitted h.other && !b.submitted h

/-- SUBMIT of half `h` (R797, R799, R802, R810). A SAFE2 frame that the gate does not admit becomes WITHHELD. [log 102
DEDUCED] -/
def canSubmit (h : Side) (c : Side) (m : Nat) (s : State) : State :=
  let k := s.can c
  let b := k.getMb m
  let bad : State := s.modCan c Can.badwr
  if b.notMine h then bad
  else if b.kind ≠ 2 then
    if b.st = .empty then s.modCan c fun k => k.setMb m ((b.submit h).admitFrame k.brsen h (b.kind == 1)) else bad
  else match s.gate2 with
    | none => if b.st = .empty then s.modCan c fun k => k.setMb m { b.submit h with st := .withheld, errs := 0 } else bad
    | some 1 =>
      if b.st = .empty ∨ b.restarts h s.us = true then
        s.modCan c fun k => k.setMb m ((({ b with ha := false, hb := false } : Mbox).submit h).admitFrame k.brsen h true)
      else bad
    | some _ =>
      if b.st = .empty then s.modCan c fun k => k.setMb m { b.submit h with st := .half, errs := 0 }
      else if b.st = .half ∧ b.submitted h = false then
        let b2 := b.submit h
        if b.part .a 4 (b.n - 4) = b.part .b 4 (b.n - 4) then s.modCan c fun k => k.setMb m (b2.admitFrame k.brsen h false)
        else s.modCan c fun k => ({ k.setMb m { b2 with st := .withheld } with dsmis := satAdd 0xFFFF k.dsmis 1 } : Can).event 2
      else bad

/-- RELEASE, ABORT and SETSEQ (CAN_MBGO). [log 102 DEDUCED, 103 DEDUCED] -/
def canRelease (h : Side) (c : Side) (m : Nat) (s : State) : State :=
  let b := (s.can c).getMb m
  if b.notMine h || decide (b.st.code < 4) then s.modCan c Can.badwr
  else s.modCan c fun k => k.setMb m { b with st := .empty, ha := false, hb := false, deg := false, errs := 0, frame := none, cutUs := none }

/-- ABORT (CAN_MBGO): HALF or PENDING becomes ABORTED (Table 17-7). [log 102 DEDUCED] -/
def canAbort (h : Side) (c : Side) (m : Nat) (s : State) : State :=
  let b := (s.can c).getMb m
  if b.notMine h || !(b.st == .half || b.st == .pend) then s.modCan c Can.badwr
  else s.modCan c fun k => k.setMb m { b with st := .aborted }

/-- SETSEQ (CAN_MBGO): accepted only while EMPTY. [log 102 DEDUCED] -/
def canSetSeq (h : Side) (c : Side) (m : Nat) (seq : BitVec 16) (s : State) : State :=
  let b := (s.can c).getMb m
  if b.notMine h || b.st != .empty then s.modCan c Can.badwr
  else s.modCan c fun k => k.setMb m { b with nextseq := seq }

/-- A write of CAN_MBCFG_m by half `h`: only while the mailbox is EMPTY, and a RAW or SAFE1 mailbox's by its owner alone (R797,
R798). [log 101 DEDUCED] -/
def mbcfgWrite (h c : Side) (m v : Nat) (s : State) : State :=
  let b := (s.can c).getMb m
  let kind := fld v 62 2
  let fdf := bitOf v 60
  let dlc := fld v 54 4
  let new : Mbox := { b with cfg := w64 v &&& 0xFFFFDFFFDFFFFFFF }
  if b.notMine h = true ∨ b.st ≠ .empty ∨ kind = 3 ∨ (kind ≠ 0 ∧ ¬ (8 ≤ dlc ∧ (fdf = true ∨ dlc = 8))) then s.modCan c Can.badwr
  else s.modCan c fun k => k.setMb m new

/-- A write of 8 bytes of the writer's half (CAN_MBDATA). -/
def mbdataWrite (h : Side) (c : Side) (m w v : Nat) (s : State) : State :=
  let b := (s.can c).getMb m
  let put (t : Tbl Byte) : Tbl Byte := ((List.range 8).zip (bytesOf 8 v)).foldl (fun t p => tset 0 t (8 * w + p.1) p.2) t
  if !b.notMine h && (b.st == .empty || (b.kind == 2 && b.st == .half && !b.submitted h)) then
    s.modCan c fun k => k.setMb m (match h with
      | .a => { b with dataA := put b.dataA } | .b => { b with dataB := put b.dataB })
  else s.modCan c Can.badwr

/-- DUAL_SOURCE_WINDOW_EXPIRY (R802). -/
def execDualSourceWindowExpiry (c : Side) (m : Fin 32) (s : State) : Out :=
  .next (s.onCan c fun s =>
    let b := (s.can c).getMb m.val
    if b.st = .half then
      s.modCan c fun k =>
        ({ k.setMb m.val { b with st := .withheld } with dslate := satAdd 0xFFFF k.dslate 1 } : Can).event 3
    else s)

/-- Every mailbox of both controllers. -/
def State.onMboxes (s : State) (f : Mbox → Mbox) : State :=
  let g (k : Can) : Can := (List.range 32).foldl (fun k m => k.modMb m f) k
  { s with canA := g s.canA, canB := g s.canB }

/-- The gates close: every SAFE2 mailbox in HALF or PENDING becomes WITHHELD (R804). [log 103 DEDUCED] -/
def State.gatesClose (s : State) : State :=
  s.onMboxes fun b =>
    if b.kind = 2 ∧ (b.st = .half ∨ b.st = .pend) then
      { b with st := .withheld, cutUs := if b.st = .half then some s.us else none }
    else b

/-- A main tandem's reset aborts its RAW and SAFE1 mailboxes (R804). [log 75 DEDUCED] -/
def State.mboxReset (s : State) (h : Side) : State :=
  s.onMboxes fun b => if b.kind ≠ 2 ∧ b.owner = h ∧ (b.st = .half ∨ b.st = .pend) then { b with st := .aborted } else b

/-! Transmission (R800, R801, R803). -/

/-- The PENDING mailbox that wins the internal arbitration (R800). -/
def Can.winner (k : Can) : Option Nat :=
  (((List.range 32).filter fun m => (k.getMb m).st == .pend && (!(k.getMb m).fdf || k.fden)).foldl
    (fun (b : Option (Nat × Nat)) m =>
      let x := match (k.getMb m).frame with
        | some f => f.key | none => 0
      match b with
      | none => some (x, m)
      | some p => if x < p.1 then some (x, m) else b) none).map (·.2)

/-- The mailbox in TX. -/
def Can.txing (k : Can) : Option Nat := (List.range 32).find? fun m => (k.getMb m).st == .tx

/-- The bus is idle: an awaited MONITOR is entered (R787). [log 105 DEDUCED] -/
def Can.idle (k : Can) : Can :=
  if k.toMonitor && k.txing.isNone && !k.rxBusy then ({ k with toMonitor := false } : Can).goto .monitor else k

/-- CAN_ARBITRATION_START: the winning PENDING mailbox enters TX (R800). [log 105 DEDUCED] -/
def execCanArbitrationStart (c : Side) (s : State) : Out :=
  .next (s.onCan c fun s => s.modCan c fun k =>
    let k := k.idle
    if k.onBus && k.txing.isNone then
      match k.winner with
      | some m => k.modMb m fun b =>
          { b with st := .tx, frame := b.frame.map fun f => { f with esi := f.fdf && k.st == .passive } }
      | none => k
    else k)

/-- CAN_ARBITRATION_LOST (R800): the winner's frame holds the bus until it ends. [log 105 DEDUCED] -/
def execCanArbitrationLost (c : Side) (s : State) : Out :=
  .next (s.onCan c fun s => s.modCan c fun k =>
    match k.txing with
    | some m => { (k.modMb m fun b => { b with st := .pend }) with rxBusy := true }
    | none => k)

/-- A frame ends in error: retried, or RETRYEND (R801). -/
def Mbox.failed (b : Mbox) : Mbox :=
  let n := satAdd 0xFF b.errs 1
  { b with errs := n, st := if b.retry ≠ 0 ∧ b.retry ≤ n then .retryEnd else .pend }

/-- The state that the error counters give while on the bus (R789). -/
def Can.settle (k : Can) : Can :=
  if k.onBus then
    if 255 < k.tec then
      let k := ({ k with boff := satAdd 0xFF k.boff 1 } : Can).goto .busOff
      if k.boman then k else k.goto .recovering
    else if 127 < k.tec ∨ 127 < k.recv then k.goto .passive
    else k.goto .active
  else k

/-- CAN_TX_END: DONE, or an error (R799, R801). `tdcv` is the loop delay measured on the frame (R785). -/
def execCanTxEnd (c : Side) (ok : Bool) (tdcv : BitVec 7) (s : State) : Out :=
  .next (s.onCan c fun s =>
    let time := s.canTime
    s.modCan c fun k =>
      match k.txing with
      | none => k
      | some m =>
        let fd := match (k.getMb m).frame with
          | some f => f.fdf && f.brs | none => false
        let k := if k.tdcen && fd then { k with tdcv := tdcv } else k
        if ok then
          ({ (k.modMb m fun b => { b with st := .done, time := time, nextseq := if b.kind = 0 then b.nextseq else b.nextseq + 1 })
            with tec := if k.onBus then k.tec - 1 else k.tec } : Can).settle.idle
        else (k.modMb m Mbox.failed).idle)

/-- CAN_TX_COMPARE_MISMATCH (R803, Table 2-3). -/
def execCanTxCompareMismatch (c : Side) (m : Fin 32) (s : State) : Out :=
  .next <|
    if !s.canOn c || ((s.can c).getMb m.val).st != .pend then s
    else match s.wrd.mode with
      | .run | .reduced =>
        (s.modCan c fun k =>
          (({ (k.modMb m.val fun b => { b with st := .withheld }) with cmphold := true } : Can).goto .monitor).event 5).detect 3 c.idx
      | .runOut => s.detect 3 c.idx
      | _ => s

/-! Errors and states (R783, R787 to R790). -/

def Can.countErr (k : Can) (e : CanErr) : Can :=
  match e with
  | .bit => { k with eBit := satAdd 0xFF k.eBit 1 }
  | .stuff => { k with eStuff := satAdd 0xFF k.eStuff 1 }
  | .form => { k with eForm := satAdd 0xFF k.eForm 1 }
  | .crc => { k with eCrc := satAdd 0xFF k.eCrc 1 }
  | .ack => { k with eAck := satAdd 0xFF k.eAck 1 }

/-- CAN_BUS_ERROR: as the transmitter (`tx`) or a receiver. `exempt` marks an error for which ISO 11898-1:2015 changes no
counter; `extra` counts the further steps of 8 that dominant bits after the error flag add. In MONITOR an error counts in
CAN_ERRC alone (R783, R788). [log 105 DEDUCED] -/
def execCanBusError (c : Side) (e : CanErr) (tx exempt : Bool) (extra : Nat) (s : State) : Out :=
  .next (s.onCan c fun s => s.modCan c fun k =>
    let k := { k with rxBusy := false }
    if k.st = .monitor then k.countErr e
    else if k.onBus then
      let k := k.countErr e
      let k := if tx && e == .ack && k.st == .passive then { k with lonely := satAdd 0xFFFF k.lonely 1 } else k
      let k := if tx then { k with tec := k.tec + (if exempt then 0 else 8) + 8 * extra }
        else { k with recv := min 255 (k.recv + (if exempt then 0 else 1) + 8 * extra) }
      k.settle
    else k)

/-- CAN_INTEGRATION_END: 11 recessive bits end INTEGRATING (R788). [log 105 DEDUCED] -/
def execCanIntegrationEnd (c : Side) (s : State) : Out :=
  .next (s.onCan c fun s => s.modCan c fun k => if k.st = .integrating then (k.goto .active).settle.idle else k)

/-- CAN_RECOVERY_END: RECOVERING ends in ERROR-ACTIVE with both error counters 0 (R789). [log 105 DEDUCED] -/
def execCanRecoveryEnd (c : Side) (s : State) : Out :=
  .next (s.onCan c fun s => s.modCan c fun k =>
    if k.st = .recovering then (({ k with tec := 0, recv := 0 } : Can).goto .active).idle else k)

/-- A protocol exception event, counted in VC_CAN_PEX (R782); in MONITOR the controller stays there. [log 106 DESIGN CHOICE] -/
def canPex (c : Side) (s : State) : State :=
  let k := s.can c
  if k.pexdis then s
  else if k.onBus then (s.modCan c fun k => k.goto .integrating).vc 16
  else if k.st = .monitor then s.vc 16
  else s

def execCanProtocolException (c : Side) (s : State) : Out := .next (s.onCan c fun s => (canPex c s).modCan c fun k => { k with rxBusy := false })

/-- CAN_CTL as it reads. -/
def Can.ctlWord (k : Can) : Nat :=
  pack [(16, k.dswin.toNat), (11, b2n k.pexdis), (10, b2n k.tdcen), (9, b2n k.brsen), (8, b2n k.fden), (4, b2n k.boman), (0, k.op.val)]

/-! The writes of CAN_CTL (R787, R789, R808). -/

/-- A frame in progress is cut off: its mailbox is PENDING again, no attempt counted. [log 103 DEDUCED] -/
def Can.cutOff (k : Can) : Can :=
  match k.txing with
  | some m => k.modMb m fun b => { b with st := .pend }
  | none => k

/-- A request of OP (R787). -/
def Can.request (k : Can) (op : Nat) : Can :=
  match op with
  | 0 => ({ k.cutOff with op := 0, toMonitor := false, rxBusy := false } : Can).goto .off
  | 1 =>
    if k.st = .off then
      if btOk k.bt k.fden then ({ k with op := 1, tec := 0, recv := 0 } : Can).goto .monitor else k.badwr
    else if k.st = .monitor then { k with op := 1 }
    else { k with op := 1, toMonitor := true }
  | 2 =>
    if k.st = .off ∧ btOk k.bt k.fden = false then k.badwr
    else if k.st = .off ∨ k.st = .monitor then
      ({ k with op := 2, tec := 0, recv := 0, cmphold := false, toMonitor := false } : Can).goto .integrating
    else { k with cmphold := false }
  | _ => k

/-- RECOVER, or BOMAN cleared, in BUS-OFF (R789). [log 104 DESIGN CHOICE] -/
def Can.recover (k : Can) (go : Bool) : Can := if k.st = .busOff ∧ (go = true ∨ k.boman = false) then k.goto .recovering else k

/-- A write of CAN_CTL. [log 101 DEDUCED, 104 DESIGN CHOICE] -/
def Can.ctlWrite (k : Can) (v : Nat) : Can :=
  let same := bitOf v 11 == k.pexdis && bitOf v 10 == k.tdcen && bitOf v 9 == k.brsen && bitOf v 8 == k.fden
  let fden := bitOf v 8
  if k.op ≠ 0 ∧ same = false then k.badwr
  else if k.st = .off ∧ (fld v 0 2 = 1 ∨ fld v 0 2 = 2) ∧ btOk k.bt fden = false then k.badwr
  else
    let k := { k with dswin := if fld v 16 8 = 0 then k.dswin else BitVec.ofNat 8 (fld v 16 8), pexdis := bitOf v 11,
                      tdcen := bitOf v 10, brsen := bitOf v 9, fden := fden, boman := bitOf v 4 }
    (k.request (fld v 0 2)).recover (bitOf v 5)

/-! Reception (R791 to R796). -/

/-- The filter matches the frame (R791). -/
def fltHit (flt : W64) (mask : BitVec 29) (f : CanFrame) : Bool :=
  let fd := wf flt 58 2
  let id := if f.ide then f.id else f.id &&& 0x7FF
  flt.getLsbD 63 && flt.getLsbD 60 == f.ide && (fd == 0 || (fd == 1 && !f.fdf) || (fd == 2 && f.fdf)) &&
    ((flt.setWidth 29 ^^^ id) &&& mask) == 0

/-- The first matching filter. -/
def Can.filter (k : Can) (f : CanFrame) : Option (Fin 128) :=
  (List.finRange 128).find? fun n => fltHit (tget 0 k.flt n.val) (tget 0 k.fltm n.val) f

/-- Store a frame, or drop it in a full FIFO (R792). -/
def Can.store (k : Can) (e : RxEntry) : Can :=
  if 64 ≤ k.fifo.length then ({ k with ovf := satAdd 0xFF k.ovf 1 } : Can).event 4 else { k with fifo := k.fifo ++ [e] }

/-- Check 5 of Table 17-6 and the acceptance (R795), on connection `ch`. -/
def rxcAccept (c : Side) (ch : Fin 32) (fl : Fin 128) (f : CanFrame) (s : State) : State :=
  let x := (s.can c).getRxc ch.val
  let seq := ofBytes ((List.range 2).map f.byte)
  let deg := bitOf (ofBytes ((List.range 4).map f.byte)) 31
  let ahead := (seq + 2 ^ 16 - x.eseq.toNat) % 2 ^ 16
  let time := s.canTime
  let take (gap : Bool) (lost : Nat) (s : State) : State := s.modCan c fun k =>
    (k.setRxc ch.val { x with st := .live, eseq := BitVec.ofNat 16 (seq + 1), lost := satAdd 0xFFFF x.lost lost,
                              acc := x.acc + 1 }).store
      { frame := f, safe := true, gap := gap, deg := deg, rxc := ch, filt := fl, time := time }
  if x.st = .sync ∨ ahead = 0 then take false 0 s
  else if ahead ≤ 32767 then (take true ahead s).vc 21
  else if 2 ^ 16 - 32 ≤ ahead then
    (s.modCan c fun k => k.setRxc ch.val { x with dup := satAdd 0xFFFF x.dup 1 }).vc 20
  else s.vc 21

/-- A safe-channel frame for a connection: checks 1 to 4 of Table 17-6, in order. -/
def rxcCheck (c : Side) (ch : Fin 32) (fl : Fin 128) (f : CanFrame) (s : State) : State :=
  let x := (s.can c).getRxc ch.val
  let n := f.n
  let bs := (List.range n).map f.byte
  if ¬ (x.st = .sync ∨ x.st = .live) then s.modCan c fun k => k.setRxc ch.val { x with drop := satAdd 0xFFFF x.drop 1 }
  else if n < 8 ∨ n ≠ dlcLen true x.dlc.toNat then s.vc 17
  else if ofBytes (bs.drop (n - 4)) ≠ safeCrc (if f.ide then f.id else f.id &&& 0x7FF) f.ide (bs.take (n - 4)) then s.vc 18
  else if ofBytes ((bs.drop 2).take 2) % 2 ^ 15 ≠ x.conn.toNat then s.vc 19
  else rxcAccept c ch fl f s

/-- The receive error counter after a successful reception: the standard leaves the value below 128 open (119 to 127). [log
106 DESIGN CHOICE] -/
def Can.recvGood (k : Can) (free : W64) : Can :=
  if k.onBus then ({ k with recv := if 127 < k.recv then 119 + free.toNat % 9 else k.recv - 1 } : Can).settle else k

/-- A valid frame reaches the filters. -/
def canReceive (c : Side) (f : CanFrame) (s : State) : State :=
  let s := (s.modCan c fun k => k.recvGood s.freeVal).freeNext
  let k := s.can c
  let time := s.canTime
  let noMatch (s : State) : State := s.modCan c fun k => { k with noMatch := satAdd 0xFF k.noMatch 1 }
  if f.rtr then s.modCan c fun k => { k with rtr := satAdd 0xFF k.rtr 1 }
  else match k.filter f with
    | none => noMatch s
    | some n =>
      let flt := tget 0 k.flt n.val
      match wf flt 61 2 with
      | 0 => s.modCan c fun k => k.store
          { frame := f, safe := false, gap := false, deg := false, rxc := 0, filt := n, time := time }
      | 2 => rxcCheck c ⟨wf flt 53 5, by unfold wf fld; omega⟩ n f s
      | _ => noMatch s

/-- CAN_FRAME_RECEIVED (R791; R782 for an FD frame while FDEN is 0; R143 before release). -/
def execCanFrameReceived (c : Side) (f : CanFrame) (s : State) : Out :=
  .next (s.onCan c fun s =>
    let s := s.modCan c fun k => { k with rxBusy := false }
    let k := s.can c
    if f.fdf && !k.fden then canPex c s
    else if k.onBus || (k.st == .monitor && s.gate.released) then (canReceive c f s).modCan c Can.idle
    else s)

/-- RXPOP: the head entry goes (R792). -/
def Can.pop (k : Can) : Can := { k with fifo := k.fifo.drop 1 }

/-- OPEN and CLOSE of a connection (R796). [log 104 DESIGN CHOICE] -/
def Can.open_ (k : Can) (ch : Nat) : Can := k.setRxc ch { k.getRxc ch with st := .sync }
/-- CLOSE of a connection (CAN_RXC_c). [log 104 DESIGN CHOICE] -/
def Can.close (k : Can) (ch : Nat) : Can := k.setRxc ch { k.getRxc ch with st := .closed }

/-- CAN_CONNECTION_TIMEOUT (R796). -/
def execCanConnectionTimeout (c : Side) (ch : Fin 32) (s : State) : Out :=
  .next (s.onCan c fun s => s.modCan c fun k =>
    let x := k.getRxc ch.val
    if x.st = .sync ∨ x.st = .live then
      let k := k.setRxc ch.val { x with st := .timeout }
      if x.ie then k.event 1 else k
    else k)

/-- A write of CAN_RXC_c (R807). [log 104 DESIGN CHOICE] -/
def Can.rxcWrite (k : Can) (ch v : Nat) : Can :=
  let x := k.getRxc ch
  let act (k : Can) : Can :=
    let k := if bitOf v 63 then k.open_ ch else k
    if bitOf v 62 then k.close ch else k
  let alone := fld v 30 30 == 0 && (bitOf v 63 || bitOf v 62)
  if alone then act k
  else if x.st ≠ .closed ∨ fld v 45 10 = 0 ∨ 1000 < fld v 45 10 ∨ fld v 55 4 < 8 then k
  else act (k.setRxc ch { x with ie := bitOf v 59, dlc := BitVec.ofNat 4 (fld v 55 4), tmo := BitVec.ofNat 10 (fld v 45 10),
                                 conn := BitVec.ofNat 15 (fld v 30 15) })

/-! The registers. -/

def canWide (off : Nat) : Bool :=
  off == 0x18 || off == 0x20 || (decide (0x100 ≤ off ∧ off < 0x150) && off % 8 == 0) ||
    (decide (0x1000 ≤ off ∧ off < 0x2000) && (off % 0x80 == 0 || off % 0x80 == 8 ||
      (decide (0x18 ≤ off % 0x80 ∧ off % 0x80 < 0x58) && off % 8 == 0))) ||
    (decide (0x3000 ≤ off ∧ off < 0x3800) && off % 8 == 0) || (decide (0x4000 ≤ off ∧ off < 0x4200) && off % 8 == 0)

/-- A write of CAN_MBGO_m; several actions in one write are taken in the order RELEASE, SETSEQ, ABORT, SUBMIT. [log 102
DEDUCED] -/
def mbgoWrite (h c : Side) (m v : Nat) (s : State) : State :=
  let s := if bitOf v 2 then canRelease h c m s else s
  let s := if bitOf v 3 then canSetSeq h c m (BitVec.ofNat 16 (fld v 16 16)) s else s
  let s := if bitOf v 1 then canAbort h c m s else s
  if bitOf v 0 then canSubmit h c m s else s

/-- A write of a CAN register by a host half (R797, R808). [log 101 DEDUCED] -/
def canWriteBy (h c : Side) (off v : Nat) (s : State) : State :=
  let on (f : Can → Can) : State := s.modCan c f
  if off = 0x8 then on fun k => k.ctlWrite v
  else if off = 0x18 then on fun k => if k.op ≠ 0 ∨ btOk (w64 v &&& btMask) k.fden = false then k.badwr
    else { k with bt := w64 v &&& btMask }
  else if off = 0x38 then (if bitOf v 0 then on Can.pop else s)
  else if off = 0x40 then on fun k => { k with evt := k.evt &&& ~~~(BitVec.ofNat 7 v) }
  else if off = 0x44 then on fun k => { k with ie := BitVec.ofNat 7 v }
  else if off = 0x48 then on fun k => { k with mbie := BitVec.ofNat 32 v }
  else if off = 0x58 then on fun k => { k with rxie := bitOf v 0 }
  else if 0x1000 ≤ off && off < 0x2000 then
    let m := (off - 0x1000) / 0x80
    let r := off % 0x80
    if r = 0 then mbcfgWrite h c m v s
    else if r = 0x10 then mbgoWrite h c m v s
    else if 0x18 ≤ r && r < 0x58 && r % 8 == 0 then mbdataWrite h c m ((r - 0x18) / 8) v s
    else s
  else if 0x3000 ≤ off && off < 0x3800 && off % 8 == 0 then
    let n := (off - 0x3000) / 16
    if off % 16 = 0 then
      (if fld v 61 2 = 3 ∨ fld v 58 2 = 3 then s else on fun k => { k with flt := tset 0 k.flt n (w64 v &&& 0xFFE000001FFFFFFF) })
    else on fun k => { k with fltm := tset 0 k.fltm n (BitVec.ofNat 29 v) }
  else if 0x4000 ≤ off && off < 0x4200 && off % 16 == 0 then on fun k => k.rxcWrite ((off - 0x4000) / 16) v
  else s

/-- A write of the block: tandem G writes nothing (R797). -/
def canWrite (c : Side) (who : Tandem) (off v : Nat) (s : State) : State :=
  match who.side with
  | some h => canWriteBy h c off v s
  | none => s

def RxEntry.word0 (e : RxEntry) : Nat :=
  let f := e.frame
  pack [(63, 1), (62, b2n f.fdf), (61, b2n f.brs), (60, b2n f.esi), (59, b2n f.ide), (55, f.dlc.toNat), (54, b2n e.safe),
    (53, b2n e.gap), (52, b2n e.deg), (47, e.rxc.val), (40, e.filt.val), (0, f.id.toNat)]

/-- CAN_RXF_w: the head entry. -/
def Can.rxf (k : Can) (w : Nat) : Nat :=
  match k.fifo with
  | [] => 0
  | e :: _ =>
    match w with
    | 0 => e.word0
    | 1 => e.time.toNat
    | w => ofBytes ((List.range 8).map fun i => e.frame.byte (8 * (w - 2) + i))

/-- CAN_MBSTAT_m. [log 103 DEDUCED] -/
def Mbox.statCard (b : Mbox) : Nat :=
  pack [(61, b.st.code), (60, b2n b.ha), (59, b2n b.hb), (58, b2n b.deg), (50, b.errs), (34, b.nextseq.toNat), (0, b.time.toNat)]

def RxcState.code : RxcState → Nat
  | .closed => 0 | .sync => 1 | .live => 2 | .timeout => 3

def Rxc.card (x : Rxc) : Nat :=
  pack [(60, x.st.code), (59, b2n x.ie), (55, x.dlc.toNat), (45, x.tmo.toNat), (30, x.conn.toNat), (0, x.eseq.toNat)]

def canRead (c : Side) (who : Tandem) (off : Nat) (s : State) : Nat × State :=
  let k := s.can c
  let h : Side := who.side.getD .a
  if off = 0x0 then (0x4D550101, s)
  else if off = 0x8 then
    (k.ctlWord, s)
  else if off = 0x10 then
    (pack [(29, k.st.code), (28, b2n k.cmphold), (16, min 0xFF k.tec), (8, min 0xFF k.recv), (0, k.tdcv.toNat)], s)
  else if off = 0x18 then (k.bt.toNat, s)
  else if off = 0x20 then
    (pack [(56, k.eBit), (48, k.eStuff), (40, k.eForm), (32, k.eCrc), (24, k.eAck), (16, k.boff), (0, k.lonely)],
      s.setCan c { k with eBit := 0, eStuff := 0, eForm := 0, eCrc := 0, eAck := 0, boff := 0, lonely := 0 })
  else if off = 0x28 then (pack [(16, k.dsmis), (0, k.dslate)], s.setCan c { k with dsmis := 0, dslate := 0 })
  else if off = 0x30 then
    (pack [(24, k.ovf), (16, k.noMatch), (8, k.rtr), (0, k.fifo.length)], s.setCan c { k with ovf := 0, noMatch := 0, rtr := 0 })
  else if off = 0x40 then (k.evt.toNat, s)
  else if off = 0x44 then (k.ie.toNat, s)
  else if off = 0x48 then (k.mbie.toNat, s)
  else if off = 0x50 then (s.canTime.toNat, s)
  else if off = 0x58 then (b2n k.rxie, s)
  else if 0x100 ≤ off && off < 0x150 && off % 8 == 0 then (k.rxf ((off - 0x100) / 8), s)
  else if 0x1000 ≤ off && off < 0x2000 then
    let b := k.getMb ((off - 0x1000) / 0x80)
    let r := off % 0x80
    if r = 0 then (b.cfg.toNat, s)
    else if r = 8 then (b.statCard, s)
    else if 0x18 ≤ r && r < 0x58 && r % 8 == 0 then (ofBytes (b.part h (r - 0x18) (r - 0x10)), s)
    else (0, s)
  else if 0x3000 ≤ off && off < 0x3800 && off % 8 == 0 then
    let n := (off - 0x3000) / 16
    (if off % 16 = 0 then (tget 0 k.flt n).toNat else (tget 0 k.fltm n).toNat, s)
  else if 0x4000 ≤ off && off < 0x4200 && off % 8 == 0 then
    let n := (off - 0x4000) / 16
    let x := k.getRxc n
    if off % 16 = 0 then (x.card, s)
    else (pack [(48, x.dup), (32, x.lost), (16, x.drop), (0, x.acc.toNat)],
      s.setCan c (k.setRxc n { x with dup := 0, lost := 0, drop := 0 }))
  else (0, s)

end Sys2Proof.Machine
end

