-- ==== Sys2Proof/Machine/Panel.lean ====
section
/-! DEFINITION. Panel I/O, block PIO (chapter 15). -/

namespace Sys2Proof.Machine

def State.modPio (s : State) (f : Pio → Pio) : State := { s with pio := f s.pio }

/-- A reset of the block keeps what its supply balls carry. -/
def Pio.board (p : Pio) : Pio := { Pio.reset with sense33 := p.sense33, bare := p.bare }

/-- Bank `k` works (R702). -/
def Pio.on (p : Pio) (k : Nat) : Bool := p.en.getLsbD k

/-- PIO_CFG_n and its FUNC. -/
def Pio.cfgOf (p : Pio) (n : Nat) : BitVec 32 := tget 0 p.cfg n
def Pio.func (p : Pio) (n : Nat) : Nat := fld (p.cfgOf n).toNat 0 4

/-- Bit `i` of a bank's word set to a level. -/
def setBit32 (v : BitVec 32) (i : Nat) (b : Bool) : BitVec 32 :=
  if b then v ||| BitVec.ofNat 32 (2 ^ i) else v &&& ~~~(BitVec.ofNat 32 (2 ^ i))

def bankBit (t : Tbl (BitVec 32)) (n : Nat) : Bool := (tget 0 t (n / 32)).getLsbD (n % 32)
def setBank (t : Tbl (BitVec 32)) (n : Nat) (b : Bool) : Tbl (BitVec 32) :=
  tmod 0 t (n / 32) fun v => setBit32 v (n % 32) b

/-- The debounced level of a pin changes, with its event (R706). -/
def Pio.putDeb (p : Pio) (n : Nat) (level : Bool) : Pio :=
  if bankBit p.deb n = level then p
  else
    let c := p.cfgOf n
    let hit := if level then c.getLsbD 9 else c.getLsbD 10
    { p with deb := setBank p.deb n level, evt := if hit then setBank p.evt n true else p.evt }

/-- PIO_DEB follows PIO_IN but for function 1 (R705). -/
def Pio.follow (p : Pio) (n : Nat) : Pio := if p.func n = 1 then p else p.putDeb n (bankBit p.inn n)

/-- PIO_IN_EDGE (R704, R706). A pin of a disabled bank reads 0 (R702). -/
def execPioInEdge (n : Fin 512) (level : Bool) (s : State) : Out :=
  .next (if s.pio.on (n.val / 32) && s.clk.crystal then
    s.modPio fun p => ({ p with inn := setBank p.inn n.val level } : Pio).follow n.val else s)

/-- DEBOUNCE_CHANGE (R705): the debounced level takes the raw level. -/
def execDebounceChange (n : Fin 512) (s : State) : Out :=
  .next (if s.pio.on (n.val / 32) ∧ s.pio.func n.val = 1 ∧ s.clk.crystal = true then s.modPio fun p => p.putDeb n.val (bankBit p.inn n.val) else s)

/-- A bank goes off: its pins read 0 and raise no events (R702). [log 94 DEDUCED] -/
def Pio.bankOff (p : Pio) (k : Nat) : Pio :=
  { p with en := p.en &&& ~~~(BitVec.ofNat 16 (2 ^ k)), inn := tset 0 p.inn k 0, deb := tset 0 p.deb k 0 }

/-- A write of EN and VSEL for one bank; a supply below 1.5 V agrees with neither VSEL (R702, R934). [log 94 DEDUCED] -/
def Pio.writeBank (p : Pio) (k : Nat) (en vsel : Bool) : Pio :=
  let v := BitVec.ofNat 16 (2 ^ k)
  let p := { p with vsel := if vsel then p.vsel ||| v else p.vsel &&& ~~~v }
  if !en then p.bankOff k
  else if vsel = p.sense33.getLsbD k ∧ p.bare.getLsbD k = false then { p with en := p.en ||| v }
  else { p.bankOff k with vmis := p.vmis ||| v }

def bcfgWrite (v : Nat) (s : State) : State :=
  (List.range 16).foldl (fun s k => s.modPio fun p => p.writeBank k (bitOf v (16 + k)) (bitOf v k)) s

/-- The supply of a bank changes: of one below 1.5 V no rule gives SENSE33, which is free (R934, R935). [log 95 DESIGN
CHOICE] -/
def Pio.supply (p : Pio) (k : Nat) (sense : BankSense) (free : Bool) : Pio :=
  let v := BitVec.ofNat 16 (2 ^ k)
  let p := { p with bare := if sense = BankSense.none then p.bare ||| v else p.bare &&& ~~~v }
  if (match sense with | .v33 => true | .v18 => false | .none => free) then { p with sense33 := p.sense33 ||| v }
  else { p with sense33 := p.sense33 &&& ~~~v }

/-- BANK_SUPPLY_MISMATCH (R723): the supply leaves the sensed level, and an enabled bank goes off. [log 95 DESIGN CHOICE] -/
def execBankSupplyMismatch (bank : Fin 16) (sense33 : BankSense) (s : State) : Out :=
  .next ((s.modPio fun p =>
    let q := p.supply bank.val sense33 (s.freeVal.getLsbD 0)
    if p.on bank.val then { q.bankOff bank.val with vmis := q.vmis ||| BitVec.ofNat 16 (2 ^ bank.val) } else q).freeNext)

/-! The matrix (R708 to R710). -/

def Pio.rows (p : Pio) : Nat := wf p.scfg 56 6
def Pio.cols (p : Pio) : Nat := wf p.scfg 50 6
def Pio.scanOn (p : Pio) : Bool := p.scfg.getLsbD 63

/-- A write of SCFG.EN = 1 that R708 or R716 rejects. -/
def Pio.scfgBad (p : Pio) (v : Nat) : Bool :=
  let rows := fld v 56 6
  let cols := fld v 50 6
  let rb := fld v 41 9
  let cb := fld v 32 9
  let pins (b n f : Nat) : Bool :=
    decide (b + n ≤ 512) && (List.range n).all fun i => p.on ((b + i) / 32) && p.func (b + i) == f
  !(decide (1 ≤ rows ∧ rows ≤ 32 ∧ 1 ≤ cols ∧ cols ≤ 32 ∧ (rb + rows ≤ cb ∨ cb + cols ≤ rb) ∧ fld v 8 4 ≠ 0 ∧ fld v 24 8 ≠ 0)
    && pins rb rows 5 && pins cb cols 6)

def scfgWrite (v : Nat) (s : State) : State :=
  s.modPio fun p =>
    if bitOf v 63 && p.scfgBad v then { p with scfg := w64 (v % 2 ^ 63), badcfg := true } else { p with scfg := w64 v }

/-- A change of key (r, c) goes to the FIFO, or is lost (R709, R720). -/
def Pio.keyEntry (p : Pio) (ms r c : Nat) (press : Bool) : Pio :=
  if 64 ≤ p.fifo.length then { p with lost := satAdd 0xFF p.lost 1 }
  else
    let wet := (tget 0 p.wet r).getLsbD c
    { p with fifo := p.fifo ++ [BitVec.ofNat 32 (pack [(31, 1), (30, b2n press), (29, b2n wet), (24, r), (19, c), (0, ms % 2 ^ 19)])] }

/-- One key in a forward scan (R709). -/
def Pio.scanKey (ms : Nat) (sensed : List (BitVec 32)) (p : Pio) (r c : Nat) : Pio :=
  let now := ((sensed[r]?).getD 0).getLsbD c
  let old := (tget 0 p.keys r).getLsbD c
  let i := 32 * r + c
  if now = old then { p with keyRun := tset 0 p.keyRun i 0 }
  else
    let n := tget 0 p.keyRun i + 1
    if n < wf p.scfg 8 4 then { p with keyRun := tset 0 p.keyRun i n }
    else ({ p with keyRun := tset 0 p.keyRun i 0, keys := tmod 0 p.keys r fun v => setBit32 v c now } : Pio).keyEntry ms r c now

/-- Key (r, c) has its row and its column in enabled banks: a disabled bank's pins raise no event (R702). [log 94 DEDUCED] -/
def Pio.keyLive (p : Pio) (r c : Nat) : Bool := p.on ((wf p.scfg 41 9 + r) / 32) && p.on ((wf p.scfg 32 9 + c) / 32)

/-- Every live key of the matrix, row by row. -/
def Pio.forKeys (p : Pio) (f : Pio → Nat → Nat → Pio) : Pio :=
  (List.range p.rows).foldl (fun p r =>
    (List.range p.cols).foldl (fun p c => if p.keyLive r c then f p r c else p) p) p

/-- The engine can drive its pins. -/
def State.scans (s : State) : Bool := s.pio.scanOn && s.wrd.mode != .runOut && !s.gated 55 && s.clk.crystal

/-- KEY_SCAN: `sensed` is the closed columns of each row. -/
def execKeyScan (sensed : List (BitVec 32)) (s : State) : Out :=
  .next (if s.scans then
    s.modPio fun p => { p.forKeys (Pio.scanKey (s.us / 1000) sensed) with scans := p.scans + 1 } else s)

/-- One key in a wet test (R710). [log 94 DEDUCED] -/
def Pio.wetKey (sensed : List (BitVec 32)) (p : Pio) (r c : Nat) : Pio :=
  let now := ((sensed[r]?).getD 0).getLsbD c
  let old := (tget 0 p.wet r).getLsbD c
  let i := 32 * r + c
  if now = old then { p with wetRun := tset 0 p.wetRun i 0 }
  else if tget 0 p.wetRun i = 0 then { p with wetRun := tset 0 p.wetRun i 1 }
  else { p with wetRun := tset 0 p.wetRun i 0, wet := tmod 0 p.wet r fun v => setBit32 v c now,
                wetcnt := if now then satAdd 0xFFFF p.wetcnt 1 else p.wetcnt }

/-- WET_FILM_TEST, after every WDIV-th forward scan: `sensed` is the wet columns of each row. [log 94 DEDUCED] -/
def execWetFilmTest (sensed : List (BitVec 32)) (s : State) : Out :=
  .next <|
    let wdiv := wf s.pio.scfg 0 8
    if s.scans ∧ wdiv ≠ 0 ∧ wdiv ≤ s.pio.scans then s.modPio fun p => { p.forKeys (Pio.wetKey sensed) with scans := 0 } else s

/-! PWM (R711). -/

/-- A write of PIO_PWM_j. [log 94 DEDUCED] -/
def pwmWrite (j v : Nat) (s : State) : State :=
  if fld v 0 16 < 2 then s
  else s.modPio fun p =>
    let old := (tget 0 p.pwm j).toNat
    let new := w64 (pack [(63, fld v 63 1), (0, fld v 0 36)])
    let p := { p with pwm := tset 0 p.pwm j new }
    if fld old 0 16 ≠ fld v 0 16 ∨ fld old 63 1 ≠ fld v 63 1 then { p with pwmEff := tset 0 p.pwmEff j new } else p

/-- PWM_PERIOD_END: DUTY and PRE take effect. [log 94 DEDUCED] -/
def execPwmPeriodEnd (gen : Fin 64) (s : State) : Out :=
  .next (if (tget 0 s.pio.pwmEff gen.val).getLsbD 63 && s.clk.crystal then
    s.modPio fun p => { p with pwmEff := tset 0 p.pwmEff gen.val (tget 0 p.pwm gen.val) } else s)

/-! The registers. -/

def pioWide (off : Nat) : Bool := off == 0x10 || off == 0x2000 || (0x3000 ≤ off && off < 0x3200 && off % 8 == 0)

/-- A write of PIO_CFG_n (R704). -/
def cfgWrite (n v : Nat) (s : State) : State :=
  if 7 ≤ fld v 0 4 ∨ fld v 4 2 = 3 then s
  else s.modPio fun p =>
    ({ p with cfg := tset 0 p.cfg n (BitVec.ofNat 32 (pack [(16, fld v 16 6), (9, fld v 9 2), (0, fld v 0 8)])) } : Pio).follow n

def bankWrite (k r v : Nat) (s : State) : State :=
  let x := BitVec.ofNat 32 v
  match r with
  | 0x08 => s.modPio fun p => { p with out := tset 0 p.out k x }
  | 0x0C => s.modPio fun p => { p with out := tmod 0 p.out k (· ||| x) }
  | 0x10 => s.modPio fun p => { p with out := tmod 0 p.out k (· &&& ~~~x) }
  | 0x14 => s.modPio fun p => { p with evt := tmod 0 p.evt k (· &&& ~~~x) }
  | 0x18 => s.modPio fun p => { p with ie := tset 0 p.ie k x }
  | _ => s

def pioWrite (off v : Nat) (s : State) : State :=
  if off = 0x8 then bcfgWrite v s
  else if off = 0xC then s.modPio fun p => { p with vmis := p.vmis &&& ~~~(BitVec.ofNat 16 (v / 2 ^ 16)) }
  else if off = 0x10 then (if v &&& 0x8888888888888888 = 0 then s.modPio fun p => { p with debt := w64 v } else s)
  else if 0x100 ≤ off && off < 0x500 then bankWrite ((off - 0x100) / 0x40) (off % 0x40) v s
  else if 0x1000 ≤ off && off < 0x1800 && off % 4 == 0 then cfgWrite ((off - 0x1000) / 4) v s
  else if off = 0x2000 then scfgWrite v s
  else if off = 0x2008 then s.modPio fun p => { p with badcfg := p.badcfg && !bitOf v 7 }
  else if 0x3000 ≤ off && off < 0x3200 && off % 8 == 0 then pwmWrite ((off - 0x3000) / 8) v s
  else s

def bankRead (p : Pio) (k r : Nat) : Nat :=
  match r with
  | 0x00 => (tget 0 p.inn k).toNat
  | 0x04 => (tget 0 p.deb k).toNat
  | 0x08 => (tget 0 p.out k).toNat
  | 0x14 => (tget 0 p.evt k).toNat
  | 0x18 => (tget 0 p.ie k).toNat
  | _ => 0

/-- A read of PIO_SFIFO removes the oldest entry. -/
def sfifoRead (s : State) : Nat × State :=
  match s.pio.fifo with
  | [] => (0, s)
  | e :: r => (e.toNat, s.modPio fun p => { p with fifo := r })

def pioRead (off : Nat) (s : State) : Nat × State :=
  let p := s.pio
  if off = 0x0 then (0x4D550101, s)
  else if off = 0x8 then (pack [(16, p.en.toNat), (0, p.vsel.toNat)], s)
  else if off = 0xC then (pack [(16, p.vmis.toNat), (0, p.sense33.toNat)], s)
  else if off = 0x10 then (p.debt.toNat, s)
  else if 0x100 ≤ off && off < 0x500 then (bankRead p ((off - 0x100) / 0x40) (off % 0x40), s)
  else if 0x1000 ≤ off && off < 0x1800 && off % 4 == 0 then ((p.cfgOf ((off - 0x1000) / 4)).toNat, s)
  else if off = 0x2000 then (p.scfg.toNat, s)
  else if off = 0x2008 then
    (pack [(16, p.wetcnt), (8, p.lost), (7, b2n p.badcfg), (0, p.fifo.length)], s.modPio fun p => { p with wetcnt := 0, lost := 0 })
  else if off = 0x2010 then sfifoRead s
  else if 0x2100 ≤ off && off < 0x2180 && off % 4 == 0 then ((tget 0 p.keys ((off - 0x2100) / 4)).toNat, s)
  else if 0x2180 ≤ off && off < 0x2200 && off % 4 == 0 then ((tget 0 p.wet ((off - 0x2180) / 4)).toNat, s)
  else if 0x3000 ≤ off && off < 0x3200 && off % 8 == 0 then ((tget 0 p.pwm ((off - 0x3000) / 8)).toNat, s)
  else (0, s)

end Sys2Proof.Machine
end

