-- ==== Sys2Proof/Machine/Counter.lean ====
section
/-! DEFINITION. The counter array, block CTA (chapter 15). -/

namespace Sys2Proof.Machine

def State.chan (s : State) (n : Nat) : Chan := tget Chan.reset s.cta n
def State.setChan (s : State) (n : Nat) (c : Chan) : State := { s with cta := tset Chan.reset s.cta n c }
def State.modChan (s : State) (n : Nat) (f : Chan → Chan) : State := s.setChan n (f (s.chan n))

/-! Fields of CHn_CTL. -/

def Chan.run (c : Chan) : Bool := c.ctl.getLsbD 31
def Chan.oneshot (c : Chan) : Bool := c.ctl.getLsbD 30
def Chan.mode (c : Chan) : Nat := fld c.ctl.toNat 27 3
def Chan.slv (c : Chan) : Nat := fld c.ctl.toNat 25 2
def Chan.mstr (c : Chan) : Nat := fld c.ctl.toNat 20 5
def Chan.edge (c : Chan) : Nat := fld c.ctl.toNat 18 2
def Chan.capedge (c : Chan) : Nat := fld c.ctl.toNat 16 2
def Chan.setRun (c : Chan) (b : Bool) : Chan :=
  { c with ctl := BitVec.ofNat 32 (c.ctl.toNat % 2 ^ 31 + b2n b * 2 ^ 31) }

/-- The channel's group is gated, which holds its channels in reset (R186, R721), or its clock stands (R205). -/
def State.chanHeld (s : State) (n : Nat) : Bool := s.gated (51 + n / 8) || !s.clk.crystal

/-! Fields of CHn_PIN. -/

def Chan.pinA (c : Chan) : Nat := fld c.pin.toNat 0 9
def Chan.pinB (c : Chan) : Nat := fld c.pin.toNat 9 9
def Chan.capPin (c : Chan) : Nat := fld c.pin.toNat 20 9

/-- A channel sees the level of a pin of an enabled bank whose function is an input, a row or a column; any other is a constant
low level (R704, R714). -/
def State.pinSeen (s : State) (n : Nat) : Bool := s.pio.on (n / 32) && [0, 1, 5, 6].contains (s.pio.func n)

/-! One cycle of the array (R687, R690, R694). An event is `some false` (down) or `some true` (up). -/

/-- The channel underflows, or overflows, on an event. -/
def Chan.under (c : Chan) (e : Option Bool) : Bool := e == some false && c.cnt == 0
def Chan.overflows (c : Chan) (e : Option Bool) : Bool := e == some true && decide (c.reload ≤ c.cnt)

/-- The event of channel `n` from its own source `own` and the events `prev` of the others found so far; the channel `load` is
being loaded, which discards its event (R689). [log 93 DEDUCED] -/
def State.chanEvent (s : State) (load : Option Nat) (own : Nat → Option Bool) (prev : List (Option Bool)) (n : Nat) : Option Bool :=
  let c := s.chan n
  let ev (m : Nat) : Option Bool := (prev[m]?).getD none
  let gate := c.slv != 1 || (s.chan c.mstr).phase
  if !c.run || !gate || s.chanHeld n || load == some n then none
  else match c.mode with
    | 2 =>
      let m := s.chan (n - 1)
      if m.under (ev (n - 1)) then some false else if m.overflows (ev (n - 1)) then some true else none
    | 4 => if (s.chan c.mstr).under (ev c.mstr) then some false else none
    | _ => own n

/-- The events of one cycle, through every chain of links (R694). -/
def State.chanEvents (s : State) (load : Option Nat) (own : Nat → Option Bool) : List (Option Bool) :=
  (List.range 32).foldl (fun prev _ => (List.range 32).map (s.chanEvent load own prev)) (List.replicate 32 none)

/-- A match drives the phase low (R690). [log 93 DEDUCED] -/
def Chan.matchNow (c : Chan) : Chan := if c.cnt = c.cmp then { c with mtch := true, phase := false } else c

/-- A channel takes its event (R687, R690). [log 93 DEDUCED] -/
def Chan.take (c : Chan) (e : Option Bool) : Chan :=
  match e with
  | none => c
  | some false =>
    if c.cnt = 0 then
      ({ (if c.oneshot then c.setRun false else c) with
          cnt := c.reload, unf := true, phase := true, unfs := if c.opened then c.unfs + 1 else c.unfs }).matchNow
    else ({ c with cnt := c.cnt - 1 }).matchNow
  | some true =>
    if c.reload ≤ c.cnt then ({ c with cnt := 0, ovf := true, phase := true }).matchNow
    else ({ c with cnt := c.cnt + 1 }).matchNow

/-- One cycle in which the channels' own sources give the events `own` and the channel `load` takes none. In RUN-OUT no channel
counts (R724). [log 93 DEDUCED] -/
def State.chanCycleBut (s : State) (load : Option Nat) (own : Nat → Option Bool) : State :=
  if s.wrd.mode = .runOut then s
  else
    let evs := s.chanEvents load own
    (List.range 32).foldl (fun s' n =>
      let c := s.chan n
      let e := (evs[n]?).getD none
      let m := s.chan c.mstr
      let slaveReset := c.slv == 2 && !s.chanHeld n && m.under ((evs[c.mstr]?).getD none)
      if slaveReset then s'.setChan n { (if c.under e then c.take e else c) with cnt := c.reload }
      else s'.setChan n (c.take e)) s

/-- One such cycle without a write. [log 93 DEDUCED] -/
def State.chanCycle (s : State) (own : Nat → Option Bool) : State := s.chanCycleBut none own

/-- The TIMER or EVENT source of channel `n` gives a down event (Table 15-1): an EVENT channel's, at an edge of its PINA that
CTL.EDGE selects (R693, R714). -/
def State.sourceDown (s : State) (k : CountCycle) (n : Nat) : Bool :=
  let c := s.chan n
  match c.mode with
  | 0 => k.rising.getLsbD n || k.falling.getLsbD n
  | 1 => s.pinSeen c.pinA && ((k.rising.getLsbD n && c.edge != 1) || (k.falling.getLsbD n && c.edge != 0))
  | _ => false

/-- The cycle's events (Table 15-1). -/
def State.ownEvents (s : State) (k : CountCycle) (n : Nat) : Option Bool := if s.sourceDown k n then some false else none

/-- QUADRATURE_STEP: a new sample of the filtered inputs of a QUAD channel (R698, R714). A step is up when A changes to
differ from B, and down otherwise. [log 93 DEDUCED] -/
def execQuadratureStep (n : Fin 32) (a b : Bool) (s : State) : Out :=
  .next <|
    let c := s.chan n.val
    if c.mode = 3 ∧ s.chanHeld n.val = false then
      let a := a && s.pinSeen c.pinA
      let b := b && s.pinSeen c.pinB
      let da := a != c.a
      let db := b != c.b
      let s := s.modChan n.val fun c => { c with a := a, b := b }
      if da && db then s.modChan n.val fun c => { c with qerr := satAdd 0xFF c.qerr 1 }
      else if da || db then s.chanCycle fun m => if m = n.val then some (da && a != b) else none
      else s
    else s

/-- A capture puts a value into CAP (R699). -/
def Chan.capture (c : Chan) (v : BitVec 32) (long : Bool) : Chan :=
  { c with capValue := v, capOvr := c.capOvr || c.capValid, capValid := true, capLong := long, capf := true }

/-- CAPTURE_EDGE of CAPPIN (R699, R714). -/
def execCaptureEdge (n : Fin 32) (rising : Bool) (s : State) : Out :=
  .next <|
    let c := s.chan n.val
    if n.val < 16 ∧ s.chanHeld n.val = false ∧ s.pinSeen c.capPin = true ∧ bitOf c.capedge (if rising then 0 else 1) = true then
      s.setChan n.val (c.capture c.cnt false)
    else s

/-- The opening and the closing edge of a pulse (R700). -/
def Chan.pulseEdge (c : Chan) (rising opening : Bool) : Chan :=
  let put (c : Chan) : Chan := if rising then { c with rise := c.cnt } else { c with fall := c.cnt }
  if opening then { put c with opened := true, unfs := 0 }
  else if c.opened then
    let start := if rising then c.fall else c.rise
    let width := ((start.toNat : Int) - c.cnt.toNat) % ((c.reload.toNat : Int) + 1)
    { (put c).capture (BitVec.ofInt 32 width) (decide (1 < c.unfs)) with opened := false }
  else c

/-- PULSE_CAPTURE_EDGE of CAPPIN (R700, R714). -/
def execPulseCaptureEdge (n : Fin 32) (rising : Bool) (s : State) : Out :=
  .next <|
    let c := s.chan n.val
    if 16 ≤ n.val ∧ s.chanHeld n.val = false ∧ s.pinSeen c.capPin = true ∧ (c.capedge = 1 ∨ c.capedge = 2) then
      s.setChan n.val (c.pulseEdge rising (rising == (c.capedge == 1)))
    else s

/-! The registers. -/

/-- A write of CHn_CTL that is ignored as a whole (R693, R694). [log 93 DEDUCED] -/
def ctlBad (n v : Nat) : Bool :=
  let mode := fld v 27 3
  let slv := fld v 25 2
  decide (5 ≤ mode) || (mode == 2 && n == 0) || (mode == 3 && decide (n < 16)) || slv == 3 ||
    fld v 20 5 == n || fld v 18 2 == 3 || (decide (16 ≤ n) && fld v 16 2 == 3)

/-- A write of CHn_CMP (R691). [log 93 DEDUCED] -/
def Chan.writeCmp (c : Chan) (v : Nat) : Chan :=
  { c with cmp := BitVec.ofNat 32 v,
           cmplate := c.cmplate || (c.mode != 2 && c.mode != 3 && decide (c.cnt.toNat ≤ v % 2 ^ 32)) }

/-- The cycle in which channel `n` accepts a write (Table 15-6): a LOAD stands and its event is discarded, an underflow loads
the RELOAD written, and the new CMP is compared, late by the count that the cycle leaves. [log 93 DEDUCED] -/
def State.chanCycleWith (s : State) (own : Nat → Option Bool) (w : ChanWrite) : State :=
  let n := w.n.val
  match w.reg with
  | .load => (s.chanCycleBut (some n) own).modChan n fun c => { c with cnt := w.val }
  | .reload => (s.modChan n fun c => { c with reload := w.val }).chanCycle own
  | .cmp => ((s.modChan n fun c => { c with cmp := w.val }).chanCycle own).modChan n fun c => c.writeCmp w.val.toNat

/-- A write of CHn_STAT: the W1C flags. -/
def Chan.clearStat (c : Chan) (v : Nat) : Chan :=
  { c with cmplate := c.cmplate && !bitOf v 5, capf := c.capf && !bitOf v 4, ovf := c.ovf && !bitOf v 3,
           unf := c.unf && !bitOf v 2, mtch := c.mtch && !bitOf v 1 }

/-- For every channel that a mask names. -/
def State.onChans (s : State) (mask : Nat) (f : Chan → Chan) : State :=
  (List.range 32).foldl (fun s n => if bitOf mask n && !s.chanHeld n then s.modChan n f else s) s

def ctaWide (off : Nat) : Bool :=
  decide (0x100 ≤ off ∧ off < 0x900) && (off % 0x40 == 0x20 || (off % 0x40 == 0x28 && decide (0x500 ≤ off)))

def chanWrite (n r v : Nat) (s : State) : State :=
  if s.chanHeld n then s
  else match r with
    | 0x00 => if ctlBad n v then s else s.modChan n fun c => { c with ctl := BitVec.ofNat 32 v }
    | 0x04 => s.modChan n fun c => { c with pin := BitVec.ofNat 32 (fld v 0 18 + fld v 20 9 * 2 ^ 20) }
    | 0x0C => s.modChan n fun c => { c with cnt := BitVec.ofNat 32 v }
    | 0x10 => s.modChan n fun c => { c with reload := BitVec.ofNat 32 v }
    | 0x14 => s.modChan n fun c => c.writeCmp v
    | 0x1C => s.modChan n fun c => c.clearStat v
    | _ => s

def ctaWrite (off v : Nat) (s : State) : State :=
  if off = 0x8 then s.onChans v fun c => c.setRun true
  else if off = 0xC then s.onChans v fun c => c.setRun false
  else if off = 0x10 then s.onChans v fun c => { c with hold := c.cnt }
  else if 0x100 ≤ off && off < 0x900 then chanWrite ((off - 0x100) / 0x40) (off % 0x40) v s
  else s

/-- A read of CHn_CNT: the next channel's CNT goes to its HOLD where it is in CASCADE mode (R696, R717). -/
def cntRead (n : Nat) (s : State) : Nat × State :=
  ((s.chan n).cnt.toNat,
    if n < 31 ∧ (s.chan (n + 1)).mode = 2 then s.modChan (n + 1) fun c => { c with hold := c.cnt } else s)

def Chan.statCard (c : Chan) : Nat :=
  pack [(24, c.qerr), (6, b2n c.phase), (5, b2n c.cmplate), (4, b2n c.capf), (3, b2n c.ovf), (2, b2n c.unf), (1, b2n c.mtch),
    (0, b2n c.run)]

def chanRead (n r : Nat) (s : State) : Nat × State :=
  let c := s.chan n
  match r with
  | 0x00 => (c.ctl.toNat, s)
  | 0x04 => (c.pin.toNat, s)
  | 0x08 => cntRead n s
  | 0x10 => (c.reload.toNat, s)
  | 0x14 => (c.cmp.toNat, s)
  | 0x18 => (c.hold.toNat, s)
  | 0x1C => (c.statCard, s.modChan n fun c => { c with qerr := 0 })
  | 0x20 => (pack [(63, b2n c.capValid), (62, b2n c.capOvr), (61, b2n c.capLong), (0, c.capValue.toNat)],
      s.modChan n fun c => { c with capValid := false, capOvr := false, capLong := false })
  | 0x28 => if 16 ≤ n then (pack [(32, c.rise.toNat), (0, c.fall.toNat)], s) else (0, s)
  | _ => (0, s)

def ctaRead (off : Nat) (s : State) : Nat × State :=
  if off = 0x0 then (0x4D550101, s)
  else if off = 0x14 then (pack ((List.range 32).map fun n => (n, b2n (s.chan n).run)), s)
  else if 0x100 ≤ off && off < 0x900 then chanRead ((off - 0x100) / 0x40) (off % 0x40) s
  else (0, s)

end Sys2Proof.Machine
end

