-- ==== Sys2Proof/Machine/Nfc.lean ====
section
/-! DEFINITION. The NFC tag island, the tag store and the host window, block NFC (chapter 18). A field command takes effect
whole in one command; its hold of the store (R836) lasts until its time has passed, or a host block that waited for it is
served. -/

namespace Sys2Proof.Machine

def State.modNfc (s : State) (f : Nfc → Nfc) : State := { s with nfc := f s.nfc }

/-- The host side runs: its block is populated and D58 is not gated (R186). -/
def State.nfcOn (s : State) : Bool := s.blkOn blkNFC && !s.gated 58 && s.clk.crystal

/-- Do `f` to the registers of the host side while it runs and the die is powered (R145, R824: from release on). -/
def State.nfcReg (s : State) (f : Nfc → Nfc) : State := if s.gate.released && s.nfcOn then s.modNfc f else s

/-- A violation counted only while the die is powered and has been released (R145, R824). -/
def State.nfcVc (s : State) (k : Nat) : State := if s.gate.released then s.vc k else s

/-- The island's UID: 0xE0, the manufacturer code and bits [47:0] of fuse row 25 (NFC_UID). -/
def State.nfcUid (s : State) : W64 :=
  w64 (pack [(56, 0xE0), (48, Config.nfcMfr.toNat), (0, wf (tget 0 s.gate.fuses 25) 0 48)])

def Nfc.block (n : Nfc) (b : Nat) : BitVec 32 := tget 0 n.store b
def Nfc.setBlock (n : Nfc) (b : Nat) (v : BitVec 32) : Nfc := { n with store := tset 0 n.store b v }

/-- The bytes of blocks `lo` to `lo + k - 1`. -/
def Nfc.bytes (n : Nfc) (lo k : Nat) : List Byte := (List.range k).flatMap fun i => bytesOf 4 (n.block (lo + i)).toNat

/-- Write little-endian bytes, four to a block, from block `lo` on; `k` blocks. -/
def Nfc.putBytes (n : Nfc) (lo k : Nat) (bs : List Byte) : Nfc :=
  (List.range k).foldl (fun n i => n.setBlock (lo + i) (BitVec.ofNat 32 (ofBytes ((bs.drop (4 * i)).take 4)))) n

/-- The region of a block is locked against the field (R826, R835). -/
def Nfc.locked (n : Nfc) (b : Nat) : Bool := decide (b / 256 < 18) || n.locks.getLsbD (b / 256 - 18)

/-! Host commands (R834, R837). -/

/-- Serve host blocks up to but not including block `k` of the command under way, in ascending order. [log 108 DESIGN CHOICE] -/
def Nfc.serveTo (n : Nfc) (k : Nat) : Nfc :=
  match n.run with
  | none => n
  | some h =>
    let hi := min h.count k
    let n1 := ((List.range hi).drop n.runAt).foldl (fun (n : Nfc) j =>
      if h.write then n.setBlock (h.start + j) (BitVec.ofNat 32 (ofBytes ((List.range 4).map fun i => tget 0 n.hbuf (4 * j + i))))
      else { n with hbuf := ((List.range 4).foldl (fun t i =>
        tset 0 t (4 * j + i) (BitVec.ofNat 8 ((n.block (h.start + j)).toNat / 2 ^ (8 * i)))) n.hbuf) }) n
    { n1 with runAt := max n.runAt hi }

/-- The host command under way gives no access: RANGE or DENIED (R834). -/
def Nfc.hostErr (n : Nfc) : Fin 4 :=
  match n.run with
  | none => 0
  | some h =>
    if 64 < h.count ∨ 8192 < h.start + h.count then 2
    else if h.write ∧ n.owner.val < 2 ∧ h.start < 4608 ∧ h.count ≠ 0 then 1
    else 0

/-- Blocks of the host command that have been served when a field command is decoded; none of a command that fails its
checks. [log 108 DESIGN CHOICE] -/
def Nfc.advance (n : Nfc) (k : Nat) : Nfc := if n.hostErr = 0 then n.serveTo k else n

/-- A host command ends. [log 108 DESIGN CHOICE] -/
def Nfc.hostEnd (n : Nfc) (err : Fin 4) : Nfc :=
  { n with run := none, runAt := 0, waits := 0, waited := false, done := true, err := err, evt := n.evt ||| 1 }

/-- The host command under way has blocks still to access. [log 108 DESIGN CHOICE] -/
def Nfc.hostLeft (n : Nfc) : Bool :=
  n.hostErr == 0 && (match n.run with | some h => decide (n.runAt < h.count) | none => false)

/-- A field command holds the store, at most `us` microseconds; while the die is unpowered nothing counts them (R836). Before it
every host block that waited for the hold before has been served (R837): `served` counts those served so far. [log 108
DESIGN CHOICE] -/
def State.nfcHold (s : State) (served us : Nat) : State :=
  let s := s.modNfc fun n =>
    let n := n.advance (if n.waited then max served (n.runAt + 1) else served)
    { n with waited := n.hostLeft, waits := n.waits + b2n n.hostLeft }
  if s.gate.pgood then (s.modNfc fun n => { n with hold := some (s.us + 1 + s.freeVal.toNat % us) }).freeNext else s

/-- The time of a hold has passed. [log 1 DESIGN CHOICE, 108 DESIGN CHOICE] -/
def State.nfcTick (s : State) : State :=
  match s.nfc.hold with
  | some t => if t ≤ s.us then s.modNfc fun n => { n with hold := none } else s
  | none => s

/-- RUN-OUT, a reset or gating cuts a host command off: the block in progress completes, the rest are abandoned (Table
18-8). How far it had come is a free value. [log 108 DESIGN CHOICE] -/
def State.nfcAbandon (s : State) : State :=
  match s.nfc.run with
  | none => s
  | some h =>
    let s := if s.nfc.hostErr = 0 then
        (s.modNfc fun n => n.serveTo (n.runAt + s.freeVal.toNat % (h.count - n.runAt + 1))).freeNext
      else s
    s.modNfc fun n => n.hostEnd 3

/-- NFC_HOST_COMMAND: a write of NFC_HCMD (R834). Before release nobody reaches the host window (R144, R145, R845). -/
def State.nfcHostWrite (s : State) (who : Tandem) (v : Nat) : State :=
  let write := bitOf v 30
  if !s.gate.released then s
  else if bitOf v 31 && (s.nfc.run.isSome || (write && s.nfc.lockbusy) || s.wrd.mode == .runOut) then
    s.modNfc fun n => { n with refused := true }
  else
    let s := s.modNfc fun n =>
      { n with dir := write, count := BitVec.ofNat 7 (v / 2 ^ 23), start := BitVec.ofNat 13 v }
    if bitOf v 31 then
      s.modNfc fun n =>
        { n with run := some ⟨write, fld v 23 7, fld v 0 13⟩, runAt := 0, waits := b2n n.hold.isSome, waited := n.hold.isSome,
                 err := 0, waitus := 0,
                 owner := match who with
                   | .a => 0 | .b => 1 | .g => 2 }
    else s

/-- NFC_HOST_COMMAND_END (R834, R837, R846): a hold that its blocks waited for has ended, each of at most 20 ms. `fail` is a
block whose programming fails its verify; it keeps its old value, and the command ends there. [log 108 DESIGN CHOICE] -/
def execNfcHostCommandEnd (waitus : BitVec 21) (fail : Option (Fin 64)) (s : State) : Out :=
  .next <| s.rooted fun s =>
    match s.nfc.run with
    | none => s
    | some h =>
      s.modNfc fun n =>
        if n.hostErr ≠ 0 then n.hostEnd n.hostErr
        else
          let wait := if h.count = 0 then 0 else min waitus.toNat (20000 * n.waits)
          let n := if n.hostLeft then { n with hold := none } else n
          match fail with
          | some j =>
            if h.write ∧ n.runAt ≤ j.val ∧ j.val < h.count then { (n.serveTo j.val).hostEnd 3 with waitus := wait }
            else { (n.serveTo h.count).hostEnd 0 with waitus := wait }
          | none => { (n.serveTo h.count).hostEnd 0 with waitus := wait }

/-! Locks (R835). -/

/-- A write of NFC_LOCK (R835). [log 109 DESIGN CHOICE] -/
def State.nfcLockWrite (s : State) (v : Nat) : State :=
  if s.nfc.lockbusy || !s.gate.released then s else s.modNfc fun n => { n with lockReg := BitVec.ofNat 14 (v / 2 ^ 18), lockbusy := true }

/-- NFC_LOCK_PERSISTED: the written locks are in force (R835). [log 109 DESIGN CHOICE] -/
def execNfcLockPersisted (s : State) : Out :=
  .next <| s.rooted fun s => (if s.nfc.lockbusy then s.modNfc fun n => { n with locks := n.lockReg, lockbusy := false } else s)

/-! The field (R821, R823 to R827). -/

/-- NFC_FIELD_CHANGE. Without a field the tag forgets its state; it is Ready when one appears. -/
def execNfcFieldChange (present : Bool) (s : State) : Out :=
  .next <|
    if present = s.nfc.field then s
    else
      let s := s.modNfc fun n => { n with field := present, tag := .ready, hold := none }
      if s.gate.pgood && s.nfcOn then s.modNfc fun n => { n with evt := n.evt ||| 2 } else s

/-- NFC is disabled by fuse: as GATE_UNITS.DIS has it once the fuses are loaded, and before that as the array has it (R823,
R874). [log 62 DESIGN CHOICE] -/
def State.nfcOff (s : State) : Bool :=
  if 3 ≤ s.gate.step.val then s.unitOff 3 else (tget 0 s.gate.fuses 9).getLsbD 3

/-- The island answers the field (R823): the carrier clocks it while the die is unpowered, else the root does (R27, R821).
[log 3 DESIGN CHOICE, 62 DESIGN CHOICE, 107 PRESUMED] -/
def State.tagOn (s : State) : Bool := s.nfc.field && !s.nfcOff && (!s.gate.pgood || s.clk.crystal)

/-- The request is one that the tag in its state processes (ISO/IEC 15693). [log 107 PRESUMED] -/
def Nfc.listens (n : Nfc) (r : NfcReq) : Bool :=
  match r.addressed with
  | some b => b
  | none => if r.selectFlag then n.tag == .selected else n.tag != .quiet

def State.tagSay (s : State) (r : NfcResp) : State :=
  let s := s.modNfc fun n => { n with resp := r }
  match r with
  | .none => s
  | _ => s.nfcReg fun n => { n with served := n.served + 1 }

/-- An error answer, with the violation counter of Table 18-3. -/
def State.tagErr (s : State) (code : Byte) (k : Option Nat) : State :=
  (match k with
    | some k => s.nfcVc k
    | none => s).tagSay (.err code)

/-- Run a field request: no answer where the island is off, the coding is unsupported (Table 18-1) or the tag does not
listen. [log 108 DESIGN CHOICE] -/
def State.onTag (s : State) (r : NfcReq) (f : State → State) : State :=
  if !s.tagOn then s
  else if !r.codingOk then (s.nfcVc 32).tagSay .none
  else if s.nfc.listens r then f s
  else s.tagSay .none

/-- Checks 2 and 3 of Table 18-3 for a supported command; `write`: Option_flag 1 is unsupported; `ext`: 0x30 to 0x3C. -/
def State.tagCheck (s : State) (r : NfcReq) (lenOk write ext : Bool) (f : State → State) : State :=
  if !(r.lengthOk && lenOk) then s.tagErr 0x02 (some 33)
  else if (write && r.optionFlag) || (r.extFlag && !ext) then s.tagErr 0x03 (some 32)
  else f s

/-- Checks 4 and 5: block count and range; `ext`: extended addressing. -/
def State.tagRange (s : State) (first n limit : Nat) (ext : Bool) (f : State → State) : State :=
  if limit < n then s.tagErr 0xA2 (some 34)
  else if (if ext then 8192 else 256) < first + n then s.tagErr 0x10 (some 34)
  else f s

def Nfc.status (n : Nfc) (b : Nat) : Byte := if n.locked b then 1 else 0

/-- A read of `n` blocks. -/
def State.tagRead (s : State) (r : NfcReq) (first n : Nat) (ext : Bool) : State :=
  s.onTag r fun s => s.tagCheck r true false ext fun s => s.tagRange first n 64 ext fun s =>
    let s := s.nfcHold r.served 100
    s.tagSay (.ok ((List.range n).flatMap fun i =>
      (if r.optionFlag then [s.nfc.status (first + i)] else []) ++ bytesOf 4 (s.nfc.block (first + i)).toNat))

/-- The lock status of `n` blocks. -/
def State.tagSecurity (s : State) (r : NfcReq) (first n : Nat) (ext : Bool) : State :=
  s.onTag r fun s => s.tagCheck r true false ext fun s => s.tagRange first n 64 ext fun s =>
    let s := s.nfcHold r.served 100
    s.tagSay (.ok ((List.range n).map fun i => s.nfc.status (first + i)))

/-- A write of `n` blocks (R827, R838, R842, R846). [log 108 DESIGN CHOICE] -/
def State.tagWrite (s : State) (r : NfcReq) (first n : Nat) (ext : Bool) (data : List (BitVec 32)) (prog : NfcProg) : State :=
  s.onTag r fun s => s.tagCheck r (data.length == n) true ext fun s => s.tagRange first n 4 ext fun s =>
    let s := s.nfcHold r.served (4500 * n + 1341)
    if (List.range n).any fun i => s.nfc.locked (first + i) then s.tagErr 0xA1 (some 35)
    else
      let put (k : Nat) (s : State) : State := s.modNfc fun t =>
        ((List.range n).zip data).foldl (fun t p => if p.1 < k then t.setBlock (first + p.1) p.2 else t) t
      match prog with
      | .verifyFail => s.tagErr 0x13 none
      | .fieldLost k => (put k s).tagSay .none
      | .ok =>
        let s := (put n s).nfcReg fun t =>
          { t with evt := t.evt ||| 4, fwBlock := BitVec.ofNat 13 first, fwN := BitVec.ofNat 3 n }
        s.tagSay (.ok [])

def execReadSingleBlock (req : NfcReq) (block : Byte) (s : State) : Out := .next (s.tagRead req block.toNat 1 false)
def execReadMultipleBlocks (req : NfcReq) (first count : Byte) (s : State) : Out :=
  .next (s.tagRead req first.toNat (count.toNat + 1) false)
def execExtendedReadSingleBlock (req : NfcReq) (block : BitVec 16) (s : State) : Out :=
  .next (s.tagRead req block.toNat 1 true)
def execExtendedReadMultipleBlocks (req : NfcReq) (first count : BitVec 16) (s : State) : Out :=
  .next (s.tagRead req first.toNat (count.toNat + 1) true)
def execGetMultipleBlockSecurityStatus (req : NfcReq) (first count : Byte) (s : State) : Out :=
  .next (s.tagSecurity req first.toNat (count.toNat + 1) false)
def execExtGetMultipleBlockSecurityStatus (req : NfcReq) (first count : BitVec 16) (s : State) : Out :=
  .next (s.tagSecurity req first.toNat (count.toNat + 1) true)
def execWriteSingleBlock (req : NfcReq) (block : Byte) (data : BitVec 32) (prog : NfcProg) (s : State) : Out :=
  .next (s.tagWrite req block.toNat 1 false [data] prog)
def execWriteMultipleBlocks (req : NfcReq) (first count : Byte) (data : List (BitVec 32)) (prog : NfcProg) (s : State) : Out :=
  .next (s.tagWrite req first.toNat (count.toNat + 1) false data prog)
def execExtendedWriteSingleBlock (req : NfcReq) (block : BitVec 16) (data : BitVec 32) (prog : NfcProg) (s : State) : Out :=
  .next (s.tagWrite req block.toNat 1 true [data] prog)
def execExtendedWriteMultipleBlocks (req : NfcReq) (first count : BitVec 16) (data : List (BitVec 32)) (prog : NfcProg)
    (s : State) : Out :=
  .next (s.tagWrite req first.toNat (count.toNat + 1) true data prog)

/-- The mask equals the UID's low bits; of 16 slots, the 4 bits above it number the slot in which the tag answers. [log 107
PRESUMED] -/
def invHits (m : InvMask) (mask uid : W64) : Bool :=
  wf mask 0 m.len.val == wf uid 0 m.len.val && (match m.slot with
    | none => true
    | some k => wf uid m.len.val 4 == k.val)

/-- INVENTORY: answered outside the Quiet state where the AFI is absent or 0 and the mask fits. [log 107 PRESUMED] -/
def execInventory (req : NfcReq) (afi : Option Byte) (maskLen : InvMask) (mask : W64) (s : State) : Out :=
  .next <|
    if !s.tagOn then s
    else if !req.codingOk then (s.nfcVc 32).tagSay .none
    else if s.nfc.tag == .quiet then s.tagSay .none
    else s.tagCheck req true false false fun s =>
      if (afi.getD 0) ≠ 0 ∨ invHits maskLen mask s.nfcUid = false then s.tagSay .none
      else s.tagSay (.ok (0 :: bytesOf 8 s.nfcUid.toNat))

/-- STAY_QUIET: only an addressed request; it is not answered. [log 107 PRESUMED] -/
def execStayQuiet (req : NfcReq) (s : State) : Out :=
  .next (s.onTag req fun s => s.tagCheck req true false false fun s =>
    ((if req.addressed = some true then s.modNfc fun n => { n with tag := .quiet } else s)).tagSay .none)

/-- SELECT: addressed to this tag it selects it; addressed to another, a selected tag returns to Ready. [log 107 PRESUMED] -/
def execSelect (req : NfcReq) (s : State) : Out :=
  .next <|
    if s.tagOn && req.codingOk && decide (req.addressed = some false) then
      (if s.nfc.tag = .selected then s.modNfc fun n => { n with tag := .ready } else s).tagSay .none
    else s.onTag req fun s => s.tagCheck req true false false fun s =>
      if req.addressed = some true then (s.modNfc fun n => { n with tag := .selected }).tagSay (.ok []) else s.tagSay .none

/-- RESET_TO_READY: the tag returns to Ready. [log 107 PRESUMED] -/
def execResetToReady (req : NfcReq) (s : State) : Out :=
  .next (s.onTag req fun s => s.tagCheck req true false false fun s =>
    (s.modNfc fun n => { n with tag := .ready }).tagSay (.ok []))

/-- Information flags 0x03, the UID, DSFID 0 and AFI 0. [log 107 PRESUMED] -/
def execGetSystemInformation (req : NfcReq) (s : State) : Out :=
  .next (s.onTag req fun s => s.tagCheck req true false false fun s =>
    s.tagSay (.ok (0x03 :: bytesOf 8 s.nfcUid.toNat ++ [0, 0])))

/-- The memory size alone: field 0x1FFF, block size 4 (coded as the standard codes it, bytes minus 1). [log 107 PRESUMED] -/
def execExtendedGetSystemInformation (req : NfcReq) (s : State) : Out :=
  .next (s.onTag req fun s => s.tagCheck req true false true fun s =>
    s.tagSay (.ok (0x04 :: bytesOf 8 s.nfcUid.toNat ++ [0xFF, 0x1F, 0x03])))

/-- NFC_UNSUPPORTED_COMMAND: the lock and write-AFI commands, or (`custom`) 0xA0 to 0xDF and undefined codes (Table 18-1). -/
def execNfcUnsupportedCommand (req : NfcReq) (custom : Bool) (s : State) : Out :=
  .next (s.onTag req fun s =>
    if custom && !(req.selectFlag || req.addressed.isSome) then (s.nfcVc 33).tagSay .none
    else s.tagErr 0x01 (some 33))

/-- NFC_LINE_ERROR (R827). -/
def execNfcLineError (s : State) : Out :=
  .next (if s.tagOn then (s.nfcReg fun n => { n with line := satAdd 0xFFFF n.line 1 }).tagSay .none else s)

/-! Mirroring (R829 to R833, Tables 14-6 and 18-5). -/

/-- A record of 60 bytes with its CRC-32C. [log 110 DEDUCED] -/
def withCrc (bs : List Byte) : List Byte := bs ++ bytesOf 4 (crc32cOf bs)

/-- GATE_STAT.SLOT. -/
def slotCode (o : Option Side) : Nat :=
  match o with
  | none => 0 | some .a => 1 | some .b => 2

/-- The grade: 0 for MU4-SC, 1 for MU4-MC (R829). [log 125 DESIGN CHOICE] -/
def gradeByte : Byte := if Config.gradeMC then 1 else 0

/-- WRD_ID.BLOCK. -/
def wrdBlock : Nat := 0x04

/-- The lifecycle as GATE_LIFE.STATE shows it; BLANK where the pattern is none of Table 3-6. -/
def State.lifeState (s : State) : Nat :=
  match s.lifecycle with
  | some x => x.val
  | none => 0

/-- "felsadric:umaon" -/
def ndefType : List Byte :=
  [0x66, 0x65, 0x6C, 0x73, 0x61, 0x64, 0x72, 0x69, 0x63, 0x3A, 0x75, 0x6D, 0x61, 0x6F, 0x6E]

/-- Blocks 1 to 15 of region 0: the NDEF message TLV and the terminator (R829). -/
def State.ndef (s : State) : List Byte :=
  let payload := bytesOf 8 (tget 0 s.gate.shadow 25).toNat ++ [0x55, 0x4D, gradeByte, BitVec.ofNat 8 s.lifeState, 0x01,
    0, 0, 0]
  let msg : List Byte := [0xD4, 15, 16] ++ ndefType ++ payload
  [0x03, BitVec.ofNat 8 msg.length] ++ msg ++ [0xFE]

/-- The identity record (Table 18-5). -/
def State.identity (s : State) : List Byte :=
  let seq := match s.gate.slot with
    | none => 0 | some .a => s.gate.slotA.seq.toNat | some .b => s.gate.slotB.seq.toNat
  let cd := s.grm.cur.cdate
  withCrc (bytesOf 8 (tget 0 s.gate.shadow 25).toNat ++ bytesOf 2 0x4D55 ++
    [BitVec.ofNat 8 wrdBlock, BitVec.ofNat 8 s.lifeState, BitVec.ofNat 8 s.gate.profile.val, gradeByte,
      BitVec.ofNat 8 (slotCode s.gate.slot), 0] ++ bytesOf 4 seq ++
    bytesOf 4 ((cd.getD 0).toNat + b2n cd.isSome * 2 ^ 31) ++ List.replicate 36 0)

/-- The life record (Table 14-6). -/
def State.lifeRecord (s : State) : List Byte :=
  let m := s.grm.cur
  let row (i : Nat) : LifeRes := tget .reset m.life i
  withCrc (bytesOf 4 m.evals.toNat ++ bytesOf 3 m.evalDay.toNat ++ [m.evalProf] ++ bytesOf 8 m.dev.toNat ++
    ((List.range 6).flatMap fun i => bytesOf 2 (row i).d ++ bytesOf 2 (row i).lo ++ bytesOf 2 (row i).hi) ++
    bytesOf 2 (row 6).d ++ bytesOf 2 (pack ((List.range 7).map fun i => (2 * i, (row i).st.val))) ++ bytesOf 4 m.powmin)

/-- A stored record of 64 bytes has the right CRC. -/
def Nfc.crcOk (n : Nfc) (lo : Nat) : Bool := n.bytes (lo + 15) 1 == bytesOf 4 (crc32cOf (n.bytes lo 15))

/-- The life copy that a reader does not use, and of two with equal EVALS the one not written last: the one tandem G writes
(R830). [log 110 DEDUCED] -/
def Nfc.lifeTarget (n : Nfc) : Nat :=
  let a := (n.block 272).toNat
  let b := (n.block 288).toNat
  if !n.crcOk 272 then 272
  else if !n.crcOk 288 then 288
  else if b < a then 288 else if a < b ∨ n.lifeB = true then 272 else 288

/-- One host write by tandem G, as the host window shows it afterwards; one that met a hold has waited for its end, a free
time of at most 20 ms. [log 110 DEDUCED] -/
def State.mirrorWrite (s : State) (lo k : Nat) (bs : List Byte) : State :=
  let wait := if s.nfc.hold.isSome then s.freeVal.toNat % 20001 else 0
  (if s.nfc.hold.isSome then s.freeNext else s).modNfc fun n =>
    { (n.putBytes lo k bs) with
      dir := true, count := BitVec.ofNat 7 k, start := BitVec.ofNat 13 lo, owner := 2, err := 0, done := true, waitus := wait,
      hold := none, evt := n.evt ||| 1, hbuf := ((List.range (4 * k)).zip bs).foldl (fun t p => tset 0 t p.1 p.2) n.hbuf }

/-- Tandem G mirrors: after release, in the four modes of R832, through a host window that is on. -/
def State.mirrors (s : State) : Bool :=
  s.gate.released && s.nfcOn && [Mode.run, .reduced, .safeHold, .service].contains s.wrd.mode

/-- Do a mirror; a GO that finds a command BUSY, or a lock write not yet persisted, is refused (R834, Table 18-8). [log 110
DEDUCED] -/
def State.mirror (s : State) (f : State → State) : State :=
  if !s.mirrors then s
  else if s.nfc.run.isSome || s.nfc.lockbusy then s.modNfc fun n => { n with refused := true }
  else f s

/-- The warden record in a ring slot, byte for byte; `none` where the slot holds none. [log 83 DEDUCED] -/
def State.ringBytes (s : State) (i : Nat) : Option (List Byte) :=
  match tget [] s.spk.ring i with
  | [] => none
  | ws => some (ws.flatMap fun w => bytesOf 8 w.toNat)

/-- A slot's copy of its warden record, then the index block (R831, R832). [log 110 DEDUCED] -/
def State.mirrorSlot (s : State) (i : Nat) : State :=
  match s.ringBytes i with
  | none => s
  | some bs => (s.mirrorWrite (512 + 16 * i) 16 bs).mirrorWrite 256 1 [s.spk.newest, 0, 0, 0]

/-- The RECNO of a slot differs between the warden ring and the tag store (R832). [log 110 DEDUCED] -/
def State.slotStale (s : State) (i : Nat) : Bool :=
  match tget [] s.spk.ring i with
  | [] => false
  | w :: _ => decide (ofBytes ((s.nfc.bytes (512 + 16 * i) 2).take 6) ≠ wf w 0 48)

/-- TAG_STORE_MIRROR (R829 to R832). [log 110 DEDUCED] -/
def execTagStoreMirror (what : Mirror) (s : State) : Out :=
  .next <| s.rooted fun s => s.mirror fun s =>
    match what with
    | .identity =>
      let bs := [0xE1, 0x43, 0x7F, 0x01] ++ s.ndef
      s.mirrorWrite 0 32 (bs ++ List.replicate (64 - bs.length) 0 ++ s.identity)
    | .life =>
      let t := s.nfc.lifeTarget
      (s.mirrorWrite t 16 s.lifeRecord).modNfc fun n => { n with lifeB := t == 288 }
    | .slot i => s.mirrorSlot i.val
    | .ring => (List.range 256).foldl (fun s i => if s.slotStale i then s.mirrorSlot i else s) s

/-- NFCMAKER_MIRROR (R833, R843): the bytes of the NFCMAKER record that step 5 has applied into blocks 4,608 onwards, each
block that differs in a host write of its own. [log 63 DEDUCED, 110 DEDUCED] -/
def execNfcmakerMirror (s : State) : Out :=
  .next <| s.rooted fun s => s.mirror fun s =>
    match s.gate.recs.find? fun r => r.type == 0x000B && r.val != [] with
    | some r => (List.range (r.val.length / 4)).foldl (fun s i =>
        let bs := (r.val.drop (4 * i)).take 4
        if s.nfc.bytes (4608 + i) 1 = bs then s else s.mirrorWrite (4608 + i) 1 bs) s
    | none => s

/-! Release, and the registers. -/

/-- What release loads (R847). -/
def State.nfcRelease (s : State) : State :=
  if s.nfcOn then s.modNfc fun n => { n with lockReg := n.locks, uid := s.nfcUid } else s

/-- A reset of the registers: every one but NFC_LOCK and NFC_UID takes its reset value; the island keeps the store, the
locks, the field and its own state (R847). A host command under way is cut off first. Whether a lock write under way
persists is a free value. [log 109 DESIGN CHOICE] -/
def State.nfcReset (s : State) : State :=
  let s := s.nfcAbandon
  let s := if s.nfc.lockbusy then
      (if s.freeVal.getLsbD 0 then s.modNfc fun n => { n with locks := n.lockReg } else s).freeNext
    else s
  s.modNfc fun n =>
    { Nfc.reset with store := n.store, locks := n.locks, tag := n.tag, resp := n.resp, field := n.field, hold := n.hold,
                     lifeB := n.lifeB, lockReg := n.lockReg, uid := n.uid }

def nfcWide (off : Nat) : Bool := off == 0x10 || (0x100 ≤ off && off < 0x200 && off % 8 == 0)

def nfcRead (off : Nat) (s : State) : Nat × State :=
  let n := s.nfc
  if off = 0x0 then (0x4D550101, s)
  else if off = 0x8 then (pack [(2, b2n n.lockbusy), (1, b2n n.hold.isSome), (0, b2n n.field)], s)
  else if off = 0x10 then (n.uid.toNat, s)
  else if off = 0x18 then (pack [(18, n.lockReg.toNat), (0, 0x3FFFF)], s)
  else if off = 0x20 then
    (pack [(31, b2n n.run.isSome), (30, b2n n.dir), (23, n.count.toNat), (0, n.start.toNat)], s)
  else if off = 0x28 then
    (pack [(31, b2n n.run.isSome), (30, b2n n.done), (28, n.err.val), (26, n.owner.val), (25, b2n n.refused),
      (0, min 0x1FFFFF n.waitus)], s)
  else if off = 0x30 then (n.evt.toNat, s)
  else if off = 0x34 then (n.ie.toNat, s)
  else if off = 0x38 then (pack [(16, n.line), (0, n.served.toNat)], s.modNfc fun n => { n with line := 0 })
  else if off = 0x40 then (pack [(16, n.fwBlock.toNat), (0, n.fwN.toNat)], s)
  else if 0x100 ≤ off && off < 0x200 && off % 8 == 0 then
    (ofBytes ((List.range 8).map fun i => tget 0 n.hbuf (off - 0x100 + i)), s)
  else (0, s)

def nfcWrite (who : Tandem) (off v : Nat) (s : State) : State :=
  if !s.gate.released then s
  else if off = 0x18 then s.nfcLockWrite v
  else if off = 0x20 then s.nfcHostWrite who v
  else if off = 0x28 then s.modNfc fun n => { n with done := n.done && !bitOf v 30, refused := n.refused && !bitOf v 25 }
  else if off = 0x30 then s.modNfc fun n => { n with evt := n.evt &&& ~~~(BitVec.ofNat 3 v) }
  else if off = 0x34 then s.modNfc fun n => { n with ie := BitVec.ofNat 3 v }
  else if 0x100 ≤ off && off < 0x200 && off % 8 == 0 then
    s.modNfc fun n =>
      { n with hbuf := ((List.range 8).zip (bytesOf 8 v)).foldl (fun t p => tset 0 t (off - 0x100 + p.1) p.2) n.hbuf }
  else s

end Sys2Proof.Machine
end

