-- ==== Sys2Proof/Machine/Cache.lean ====
section
/-! DEFINITION. The caches, the branch-target buffer and the performance counters of the main tandems, the shared L2, and the
check bits that guard what they and the memories hold (chapters 8 and 12, R29, R41, R588). -/

namespace Sys2Proof.Machine

/-! What the hardware beneath the registers changes. -/

/-- What caches, lookups and check bits change in a core. -/
def Cpu.hw (c r : Cpu) : Cpu :=
  { c with front := r.front, itlb := r.itlb, dtlb := r.dtlb, tlb := r.tlb, xmulti := r.xmulti, resv := r.resv }

/-- What they change in a DRAM channel: its error counts (R570). -/
def DramCh.hw (c r : DramCh) : DramCh := { c with corr := r.corr, unc := r.unc, last := r.last }

/-- `s` but for what caches, lookups and check bits change, which is as `r` has it: no register that a word names, no memory
word, no mode and no unit (R387, R415, R546, R570). -/
def State.hw (s r : State) : State :=
  { s with free := r.free, cpuA := s.cpuA.hw r.cpuA, cpuB := s.cpuB.hw r.cpuB, cpuG := s.cpuG.hw r.cpuG, l2 := r.l2,
           upset := r.upset, wrd := { s.wrd with arrived := r.wrd.arrived, tripDet := r.wrd.tripDet },
           irt := { s.irt with eccCorr := r.irt.eccCorr, eccUnc := r.irt.eccUnc },
           drc := { s.drc with a := s.drc.a.hw r.drc.a, b := s.drc.b.hw r.drc.b },
           spk := { s.spk with c1 := r.spk.c1, c2 := r.spk.c2, unc := r.spk.unc, eccLast := r.spk.eccLast } }

def State.modFront (s : State) (t : Tandem) (f : Front → Front) : State :=
  s.modCpu t fun c => { c with front := f c.front }

/-- Events of Table 8-11 of a main tandem (R402). -/
def State.event (s : State) (t : Tandem) (code n : Nat) : State :=
  if t.isG then s else s.modFront t fun f => { f with ev := tmod 0 f.ev code fun x => x + n }

/-! Check bits (R29, R41, R534, R563, R600). -/

/-- The memory group that reports an error in a tandem's own arrays. [log 45 DEDUCED] -/
def ownGroup : Tandem → Nat
  | .a => 2 | .b => 3 | .g => 1

/-- The memory group of a word in its own memory (IRT_ECC, R24, R561). -/
def State.memGroup (s : State) (w : Nat) : Nat :=
  let a := 8 * w
  if a < 0x20000000 then 1 else if a < spkBase then 0 else if a < devBase then 7
  else match s.dramChan (a - dramBase) with
    | .a => 5 | .b => 6

def State.siteGroup (s : State) : Site → Nat
  | .word w | .away w => s.memGroup w
  | .l2 _ => 4
  | .transit _ | .transfer _ => 4
  | .l1d m _ | .l1i m _ | .btb m _ | .tlb m _ | .itlb m _ | .dtlb m _ => ownGroup m.tandem
  | .reg t | .saved t _ | .shadow t _ => ownGroup t
  | .metadata _ _ => 7

/-- The wrong bits that the code of a site corrects: one, two in the Spenik store, none of a word from a wrong location (R29,
R563, R600). -/
def Site.limit : Site → Nat
  | .word w => if spkBase ≤ 8 * w ∧ 8 * w < devBase then 2 else 1
  | .away _ => 0
  | .metadata _ _ => 2
  | _ => 1

/-- The wrong bits at a site. -/
def State.wrong (s : State) (x : Site) : Nat :=
  match s.upset.find? fun u => u.site == x with
  | some u => u.bits
  | none => 0

/-- The site holds right bits again. -/
def State.clearSite (s : State) (x : Site) : State := { s with upset := s.upset.filter fun u => u.site != x }

def State.setSite (s : State) (x : Site) (n : Nat) : State :=
  { s with upset := ⟨x, n⟩ :: s.upset.filter fun u => u.site != x }

def DramCh.count (c : DramCh) (unc : Bool) (a : Nat) : DramCh :=
  { c with corr := if unc then c.corr else satAdd 0xFF c.corr 1, unc := if unc then satAdd 0xFF c.unc 1 else c.unc,
           last := BitVec.ofNat 40 (a / 8 * 8) }

/-- Count an error in SPK_ECC. -/
def Spk.countEcc (k : Spk) (bits : Nat) (unc : Bool) (a : Nat) : Spk :=
  { k with c1 := if !unc && bits == 1 then satAdd 0xFF k.c1 1 else k.c1,
           c2 := if !unc && bits == 2 then satAdd 0xFF k.c2 1 else k.c2,
           unc := if unc then satAdd 0xFF k.unc 1 else k.unc, eccLast := BitVec.ofNat 40 (a / 8 * 8) }

/-- The memory of a word counts an error that a read of it finds, and IRT_ECC shows its group (R570, R640, R897). -/
def State.countWord (s : State) (w bits : Nat) (unc : Bool) : State :=
  let g := s.memGroup w
  let s := if unc then s.eccUnc g else s.eccCorr g
  if g = 5 then { s with drc := { s.drc with a := s.drc.a.count unc (8 * w) } }
  else if g = 6 then { s with drc := { s.drc with b := s.drc.b.count unc (8 * w) } }
  else if g = 7 then { s with spk := s.spk.countEcc bits unc (8 * w) }
  else s

/-- An error that a read of a site finds is counted (R897); event 0x0E of Table 8-11 counts no wrong path, so that of a
fetched word waits for the word's execution. A metadata word has no physical address that the spec states (R653). [log 85
DEDUCED] -/
def State.countSite (s : State) (x : Site) (bits : Nat) (unc : Bool) : State :=
  let own (m : Side) (s : State) : State :=
    if unc then s.eccUnc (ownGroup m.tandem) else (s.eccCorr (ownGroup m.tandem)).event m.tandem 0x0E 1
  match x with
  | .word w | .away w => s.countWord w bits unc
  | .l1d m _ => own m s
  | .reg .a => own .a s
  | .reg .b => own .b s
  | .metadata _ _ =>
    let s := if unc then s.eccUnc 7 else s.eccCorr 7
    { s.freeNext with spk := s.spk.countEcc bits unc (wf s.freeVal 0 40) }
  | _ => if unc then s.eccUnc (s.siteGroup x) else s.eccCorr (s.siteGroup x)

/-- A read of a site: its error, if it holds one, is counted; the answer says whether it is uncorrectable. -/
def State.check (s : State) (x : Site) : State × Bool :=
  let n := s.wrong x
  if n = 0 then (s, false) else (s.countSite x n (decide (x.limit < n)), decide (x.limit < n))

/-- An error of something that passes once: a transfer, a register read. -/
def State.checkOnce (s : State) (x : Site) : State × Bool :=
  let r := s.check x
  (r.1.clearSite x, r.2)

/-- A transfer across the fabric of a word whose memory corrects `lim` bits: the same rule holds of it (R41). [log 127
DESIGN CHOICE] -/
def State.transfer (s : State) (x : Site) (lim : Nat) : State × Bool :=
  let n := s.wrong x
  if n = 0 then (s, false) else ((s.countSite x n (decide (lim < n))).clearSite x, decide (lim < n))

/-- The wrong bits that the memory of a word corrects. -/
def wordLimit (w : Nat) : Nat := (Site.word w).limit

/-- A read of a word in its own memory. -/
def State.checkWord (s : State) (w : Nat) : State × Bool :=
  let r := s.check (.away w)
  if r.2 then r else r.1.check (.word w)

/-- An error found by a write-back, a dropped fetch or a prefetch goes to the warden alone (R415, R588). -/
def State.dropped (s : State) (g : Nat) : State := (s.mchk g).eccUnc g

/-- The arrays of a tandem hold right bits after its reset. -/
def Site.ofTandem (t : Tandem) : Site → Bool
  | .l1d m _ | .l1i m _ | .btb m _ | .tlb m _ | .itlb m _ | .dtlb m _ => m.tandem == t
  | .reg u | .saved u _ | .shadow u _ | .transit u => u == t
  | _ => false

/-- Every site that satisfies `p` holds right bits again. -/
def State.heal (s : State) (p : Site → Bool) : State := { s with upset := s.upset.filter fun u => !p u.site }

/-- A TLB entry with V = 0 and valid check bits. -/
def TlbEnt.kill (e : TlbEnt) : TlbEnt := { e with hi := putBits e.hi 55 1 0 }

/-! The shared L2 (R544 to R548). -/

/-- The regions that caches hold (R546). -/
def cachedAddr (a : Nat) : Bool :=
  (0x20000000 ≤ a && a < 0x20400000) || (spkBase ≤ a && a < 0x44000000) || (winABase ≤ a && a < winBBase + 0x80000000) ||
    decide (dramBase ≤ a)

/-- The regions whose lines the L2 writes back (Table 12-1, R607). -/
def writeBackAddr (a : Nat) : Bool := (0x20000000 ≤ a && a < 0x20400000) || decide (dramBase ≤ a)

/-- A line of the Spenik store (Table 1-2). -/
def spkLine (line : Nat) : Bool := spkBase ≤ 64 * line && 64 * line < 0x44000000

def isWindow (a : Nat) : Bool := winABase ≤ a && a < winBBase + 0x80000000

/-- The word indices of a 64-byte line. -/
def lineWords (line : Nat) : List Nat := (List.range 8).map (8 * line + ·)

/-- The L1 caches hold no half of a 64-byte line (R546). -/
def Front.lose (f : Front) (line : Nat) : Front :=
  let rm (f : Front) (l : Nat) : Front :=
    { f with l1d := tmod [] f.l1d (l % 256) fun x => x.filter fun n => n != l,
             l1i := tmod [] f.l1i (l % 256) fun x => x.filter fun e => e.line != l }
  rm (rm f (2 * line)) (2 * line + 1)

/-- A core loses a line with the L2, and its reservation there outside its hold (R340, R343, R546). [log 24 DEDUCED] -/
def Cpu.lose (c : Cpu) (line : Nat) : Cpu :=
  { c with front := c.front.lose line, resv := if c.resv = some line ∧ c.hold ≠ some line then none else c.resv }

/-- The write-back of a dirty word finds its error; the memory keeps an uncorrectable word so (R588). [log 127 DESIGN CHOICE] -/
def State.backWord (s : State) (w : Nat) : State :=
  let n := max 2 (s.wrong (.l2 w))
  let r := s.check (.l2 w)
  let x := r.1.transfer (.transfer .back) 1
  if r.2 || x.2 then (x.1.dropped 4).setSite (.word w) n else x.1.clearSite (.word w)

/-- A line leaves the L2: written back if it is dirty, and gone from every L1 (R546, R585). [log 24 DEDUCED] -/
def State.l2Drop (s : State) (e : L2Line) : State :=
  let s := if e.dirty then (lineWords e.line).foldl State.backWord s else s
  let s := (lineWords e.line).foldl (fun s w => s.clearSite (.l2 w)) s
  { s with l2 := tmod [] s.l2 (e.line % 2048) fun l => l.filter fun x => x.line != e.line,
           cpuA := s.cpuA.lose e.line, cpuB := s.cpuB.lose e.line, cpuG := s.cpuG.lose e.line }

/-- A tandem's hold covers the line (R343). -/
def State.lineHeld (s : State) (line : Nat) : Bool := [s.cpuA, s.cpuB, s.cpuG].any fun c => c.hold == some line

/-- The line that a full set gives up: the least recently used one that no hold covers (Table 12-1, R343). [log 24 DEDUCED] -/
def State.victim (s : State) (l : List L2Line) : Option L2Line :=
  if l.length < 8 then none else l.reverse.find? fun e => !s.lineHeld e.line

/-- A read of the word leaves its memory alone: a window's flash has no check bits here, a fresh block is not read, and a
word of the Spenik store with an index entry comes from it (R569, R609). -/
def State.unread (s : State) (w : Nat) : Bool :=
  isWindow (8 * w) || (decide (dramBase ≤ 8 * w) && s.fresh (8 * w)) ||
    (spkLine (w / 8) && (newestIn (w - spkBase / 8) s.spk.index).isSome)

/-- The fill of a word from its memory counts its error; an uncorrectable one, there or in transit, stays in the L2 (R41, R570,
R588). [log 127 DESIGN CHOICE] -/
def State.fillWord (s : State) (w : Nat) : State :=
  let s := s.clearSite (.l2 w)
  let n := max 2 (s.wrong (.word w))
  let r := if s.unread w then (s, false) else s.checkWord w
  let x := r.1.transfer (.transfer .fill) (wordLimit w)
  if r.2 || x.2 then x.1.setSite (.l2 w) n else x.1

/-- Put a line into the L2 as its most recently used one. -/
def State.l2Put (s : State) (line : Nat) : State :=
  match s.l2Line line with
  | some e => { s with l2 := tset [] s.l2 (line % 2048) (e :: (s.l2At line).filter fun x => x.line != line) }
  | none =>
    let s := match s.victim (s.l2At line) with
      | some e => s.l2Drop e
      | none => s
    let s := (lineWords line).foldl State.fillWord s
    let win := if isWindow (64 * line) then (lineWords line).map fun w => (s.memWord w).bits else []
    { s with l2 := tset [] s.l2 (line % 2048) (⟨line, false, win, []⟩ :: s.l2At line) }

/-- The L2 serves a line, after its fill on a miss: a DRAM burst brings both lines of its block (R546, R565). [log 12
DEDUCED] -/
def State.l2Fill (s : State) (line : Nat) : State :=
  let twin := if line % 2 = 0 then line + 1 else line - 1
  if (s.l2Line line).isNone && decide (dramBase ≤ 64 * line) then (s.l2Put twin).l2Put line else s.l2Put line

/-- A tandem's read at the L2: the answer is the memory group of an uncorrectable error, in transit too (R41, R588). -/
def State.l2Read (s : State) (t : Tandem) (w : Nat) : State × Option Nat :=
  let r : State × Option Nat :=
    if (s.l2Line (w / 8)).isSome then
      let r := (s.l2Fill (w / 8)).check (.l2 w)
      (r.1, if r.2 then some 4 else none)
    else
      let s' := s.l2Fill (w / 8)
      (s', if 1 < s'.wrong (.l2 w) then some (s.memGroup w) else none)
  let x := r.1.transfer (.transit t) (if (s.l2Line (w / 8)).isSome then 1 else wordLimit w)
  (x.1, if r.2.isSome then r.2 else if x.2 then some 4 else none)

/-- The lines of the L2. -/
def State.l2Lines (s : State) : List L2Line := s.l2.flatMap fun x => x.2

/-- Every line that satisfies `p` leaves the L2. -/
def State.l2Remove (s : State) (p : Nat → Bool) : State :=
  (s.l2Lines.filter fun e => p e.line).foldl State.l2Drop s

/-! The L1 caches (R384, R545). -/

def Front.hasD (f : Front) (l : Nat) : Bool := (tget [] f.l1d (l % 256)).contains l

/-- The line as the instruction cache holds it, with the words of its fill (R389). [log 19 DEDUCED] -/
def Front.codeLine (f : Front) (l : Nat) : Option CodeLine := (tget [] f.l1i (l % 256)).find? fun e => e.line == l

def Front.has (f : Front) (fetch : Bool) (l : Nat) : Bool := if fetch then (f.codeLine l).isSome else f.hasD l

/-- A line becomes the most recently used of its L1 set; an instruction line keeps the words it was filled with. -/
def Front.use (f : Front) (fetch : Bool) (l : Nat) (ws : List TWord) : Front :=
  if fetch then
    let e := (f.codeLine l).getD ⟨l, ws⟩
    { f with l1i := tmod [] f.l1i (l % 256) fun x => (e :: x.filter fun y => y.line != l).take 4 }
  else { f with l1d := tmod [] f.l1d (l % 256) fun x => (l :: x.filter fun n => n != l).take 4 }

/-- The data cache gives up a half line. -/
def Front.drop (f : Front) (l : Nat) : Front := { f with l1d := tmod [] f.l1d (l % 256) fun x => x.filter fun n => n != l }

def l1Site (m : Side) (fetch : Bool) (w : Nat) : Site := if fetch then .l1i m w else .l1d m w

/-- The four words of a 32-byte line. -/
def halfWords (l : Nat) : List Nat := (List.range 4).map (4 * l + ·)

/-- A core's L1 takes a line from the L2, unless a word of it is uncorrectable there. [log 127 DESIGN CHOICE] -/
def State.l1Fill (s : State) (m : Side) (fetch : Bool) (l : Nat) : State :=
  if (halfWords l).any fun w => decide (1 < s.wrong (.l2 w)) then s
  else ((halfWords l).foldl (fun s w => s.clearSite (l1Site m fetch w)) s).modFront m.tandem fun f =>
    f.use fetch l ((halfWords l).map s.memWord)

/-- A tandem reads a word as data or code: from its L1, the L2 or the memory behind it. The answer is the memory group of an
uncorrectable error (R17, R258, R546, R588). [log 12 DEDUCED] -/
def State.readWord (s : State) (t : Tandem) (fetch : Bool) (w : Nat) : State × Option Nat :=
  if !cachedAddr (8 * w) then
    let r := s.checkWord w
    let x := r.1.transfer (.transit t) 1
    (x.1, if r.2 then some (s.memGroup w) else if x.2 then some 4 else none)
  else match t.side with
    | none => s.l2Read t w
    | some m =>
      if (s.cpu t).front.has fetch (w / 4) then
        let r := s.check (l1Site m fetch w)
        (r.1.modFront t fun f => f.use fetch (w / 4) [], if r.2 then some (ownGroup t) else none)
      else
        let r := (s.event t (if fetch then 0x01 else 0x02) 1).l2Read t w
        (if r.2.isNone then r.1.l1Fill m fetch (w / 4) else r.1, r.2)

/-- The next-line request after an instruction-cache miss: within the 4 KiB block and the region, raising nothing; each of its
four words is read (R384, R415). -/
def State.prefetch (s : State) (m : Side) (w : Nat) : State :=
  let t := m.tandem
  let l := w / 4 + 1
  if bitOf (s.cpu t).timctl.toNat 1 || l % 128 == 0 || (s.cpu t).front.has true l ||
      decide (s.region t (32 * l) ≠ s.region t (8 * w)) then s
  else
    let one (s : State) (w : Nat) : State :=
      let r := s.l2Read t w
      match r.2 with
      | some g => r.1.dropped g
      | none => r.1
    ((halfWords l).foldl one (s.event t 0x01 1)).l1Fill m true l

/-- A fetch of a word, with its next-line request on a miss. -/
def State.fetchRead (s : State) (t : Tandem) (w : Nat) : State × Option Nat :=
  let r := s.readWord t true w
  match t.side with
  | some m => if cachedAddr (8 * w) && !(s.cpu t).front.has true (w / 4) then (r.1.prefetch m w, r.2) else r
  | none => r

/-- The word as the tandem's instruction cache holds it, else as the L2 gives it (R389). [log 19 DEDUCED] -/
def State.codeWord (s : State) (t : Tandem) (w : Nat) : TWord :=
  match (s.cpu t).front.codeLine (w / 4) with
  | some e => e.words.getD (w % 4) (s.memWord w)
  | none => s.memWord w

/-- F reads a tagged word, two instruction words, at once: its value, the memory group of an uncorrectable error, and
whether the L1 corrected one (R389, R399). [log 19 DEDUCED] -/
def State.fetchTagged (s : State) (t : Tandem) (w : Nat) : State × TWord × Option Nat × Bool :=
  let fix := match t.side with
    | some m => (s.cpu t).front.has true (w / 4) && s.wrong (.l1i m w) == 1
    | none => false
  let r := s.fetchRead t w
  (s.hw r.1, r.1.codeWord t w, r.2, fix)

/-! Writes at the L2 (R547, R607). -/

/-- A line is dirty; `old` is what the memory behind it holds. -/
def L2Line.written (e : L2Line) (old : List TWord) : L2Line := if e.dirty then e else { e with dirty := true, back := old }

/-- What the writer's transfer leaves of its words: right ones, or uncorrectable ones, which the warden hears of (R41). [log
127 DESIGN CHOICE] -/
def State.written (s : State) (t : Tandem) (site : Nat → Site) (ws : List Nat) : State :=
  let x := s.transfer (.transit t) 1
  if x.2 then ws.foldl (fun s w => s.setSite (site w) 2) (x.1.dropped 4) else x.1

/-- The L2 accepts a write to a line: the line is filled and dirty, the other tandems' data caches lose its half, the writer's
holds it unless a word of it is uncorrectable (R545 to R547, R588). `old` gives the words before the write. [log 12 DEDUCED] -/
def State.l2Accept (s : State) (t : Tandem) (old : Nat → TWord) (ws : List Nat) : State :=
  match ws with
  | [] => s
  | w :: _ =>
    if !cachedAddr (8 * w) then (ws.foldl (fun s w => (s.clearSite (.word w)).clearSite (.away w)) s).written t .word ws
    else
      let s := s.l2Fill (w / 8)
      let s := ws.foldl (fun s w => ((s.clearSite (.l2 w)).clearSite (.l1d .a w)).clearSite (.l1d .b w)) s
      let s := s.written t .l2 ws
      let s := if writeBackAddr (8 * w) then
          { s with l2 := tmod [] s.l2 (w / 8 % 2048) fun l => l.map fun e =>
              if e.line = w / 8 then e.written ((lineWords e.line).map old) else e }
        else s
      let l := w / 4
      let other (m : Side) (s : State) : State :=
        if m.tandem = t then
          (if (s.cpu t).front.hasD l && !(halfWords l).any (fun w => decide (1 < s.wrong (.l2 w))) then
              s.modFront t fun f => f.use false l []
            else (s.modFront t fun f => f.drop l).l1Fill m false l)
        else s.modFront m.tandem fun f => f.drop l
      other .b (other .a s)

/-- Write whole words at the L2 for an initiator: one write, whose words are adjacent. -/
def State.writeWords (s : State) (t : Tandem) (ws : List (Nat × TWord)) : State :=
  match ws with
  | [] => s
  | (w, _) :: _ =>
    let old := s.memWord
    let s := s.loseResv (some t) (w / 8)
    let s := if spkBase ≤ 8 * w ∧ 8 * w < 0x44000000 then
        { s with spk := s.spk.accept t (ws.map fun p => (p.1 - spkBase / 8, p.2)) }
      else ws.foldl (fun s p => s.setMem p.1 p.2) s
    s.hw (s.l2Accept t old (ws.map fun p => p.1))

/-! The branch-target buffer (R385, R403, R410, R414). -/

def Cpu.btbOff (c : Cpu) : Bool := bitOf c.timctl.toNat 0

/-- The set of a word address: bits [6:2]. -/
def btbSet (a : Nat) : Nat := a / 4 % 32

def Front.btbAt (f : Front) (a : Nat) : Option BtbEnt := (tget [] f.btb (btbSet a)).find? fun e => e.va == a

/-- Put an entry as the most recently used of its set of four; a resolution that rewrites one refreshes the order too. [log
18 DESIGN CHOICE] -/
def Front.btbPut (f : Front) (e : BtbEnt) : Front :=
  { f with btb := tmod [] f.btb (btbSet e.va) fun l => (e :: l.filter fun x => x.va != e.va).take 4 }

def Front.btbDel (f : Front) (a : Nat) : Front :=
  { f with btb := tmod [] f.btb (btbSet a) fun l => l.filter fun x => x.va != a }

def Front.count (f : Front) (code n : Nat) : Front := { f with ev := tmod 0 f.ev code fun x => x + n }

/-- An entry is allocated (event 0x07). -/
def Front.btbNew (f : Front) (a target : Nat) (ctr : Fin 4) : Front := (f.btbPut ⟨a, target, ctr⟩).count 0x07 1

/-- The control transfers of majors 0x20 to 0x25 as the buffer tells them apart. -/
inductive CtiKind where
  /-- Compare-and-branch. -/
  | cond
  /-- J and JAL. -/
  | jump
  /-- JALR and JALC. -/
  | reg
  deriving DecidableEq, Repr

/-- The prediction at a word: taken to a target, where its entry's counter says so. -/
def Front.predicted (f : Front) (a : Nat) : Option Nat :=
  match f.btbAt a with
  | some e => if 2 ≤ e.ctr.val then some e.target else none
  | none => none

/-- A counter after a resolution. -/
def nextCtr (c : Fin 4) (taken : Bool) : Fin 4 := if taken then (if c.val = 3 then c else c + 1) else (if c.val = 0 then c else c - 1)

/-- A control transfer at `a` resolves: what it counts and what it leaves in the buffer (R385, Table 8-2). Only a conditional
branch changes the counter of an entry it hits; a J or JAL leaves it. [log 18 DESIGN CHOICE] -/
def Front.resolve (f : Front) (off : Bool) (k : CtiKind) (a target : Nat) (taken : Bool) : Front :=
  let p := if off then none else f.predicted a
  let wrong := match k with
    | .cond => if taken then p != some target else p.isSome
    | .jump => false
    | .reg => p != some target
  let f := if wrong then f.count (if k = .reg then 0x06 else 0x05) 1 else f
  if off then f
  else match f.btbAt a with
    | some e => f.btbPut ⟨a, target, if k = .cond then nextCtr e.ctr taken else e.ctr⟩
    | none =>
      match k with
      | .cond => if taken then f.btbNew a target 2 else f
      | .jump => f.btbNew a target 3
      | .reg => f.btbNew a target 2

/-- Bits [31:25] of the instruction word at an address: a long word's major. -/
def majorAt (e : FqEnt) : Nat := wf e.word.bits (e.va % 8 * 8 + 25) 7

/-- The displacement of J and JAL. -/
def dispAt (e : FqEnt) : Int := signed 25 (wf e.word.bits (e.va % 8 * 8) 25)

/-- The groups of the uncorrectable errors in words of the queue, one for each tagged word. -/
def errGroups (l : List FqEnt) : List Nat :=
  ((l.filterMap fun e => e.err.map fun g => (e.va / 8, g)).eraseDups).map fun p => p.2

/-- F keeps `n` words of its queue and goes on at `next`; those it discards count, and their errors go to the warden alone
(event 0x08, R387, R415). -/
def State.discard (s : State) (t : Tandem) (n next : Nat) : State :=
  let gone := (s.cpu t).front.fq.drop n
  let s := s.modFront t fun f => { f with fq := f.fq.take n, next := next, turn := none }.count 0x08 gone.length
  (errGroups gone).foldl State.dropped s

/-- A J or JAL at the head of a queue that is discarded may have allocated its entry in D (R387). [log 18 DESIGN CHOICE] -/
def Front.headInD (f : Front) (off inD : Bool) : Front :=
  match f.fq with
  | e :: _ =>
    if !off && e.word.tag == .insn && (majorAt e == 0x22 || majorAt e == 0x23) && (f.btbAt e.va).isNone && inD then
      f.btbNew e.va (wrap 44 ((e.va : Int) + 4 * dispAt e)) 3
    else f
  | [] => f

/-- Discard what F has fetched ahead; the word in execution is over. -/
def State.flushFetch (s : State) (t : Tandem) : State :=
  if (s.cpu t).front.fq.isEmpty then s.modFront t fun f => { f with cur := none }
  else
    let f := (s.cpu t).front
    let off := (s.cpu t).btbOff || t.isG
    let s' := s.modFront t fun f => { f.headInD off (s.freeVal.getLsbD 0) with cur := none }
    { s.hw (s'.discard t 0 f.next) with free := s.free + 1 }

/-- D decodes a word at `a` that is no control transfer of majors 0x20 to 0x25: the entry it hits goes, the words from its
predicted target are discarded, and fetch continues sequentially (R385). -/
def State.decoded (s : State) (t : Tandem) (a : Nat) : State :=
  let f := (s.cpu t).front
  if t.isG || (s.cpu t).btbOff || (f.btbAt a).isNone then s
  else
    let s' := s.modFront t fun f => f.btbDel a
    if (f.predicted a).isNone then s'
    else
      let n := (f.fq.takeWhile fun e => e.va == a + 4).length
      s.hw (s'.discard t n (a + 4 + 4 * n))

/-- D decodes a J or JAL at `a`: a miss allocates its entry (R385). -/
def Front.jumpInD (f : Front) (off : Bool) (a target : Nat) : Front :=
  if off || (f.btbAt a).isSome then f else f.btbNew a target 3

/-- A change of a main tandem's branch-target buffer; tandem G has none. -/
def State.learn (s : State) (t : Tandem) (g : Front → Front) : State := if t.isG then s else s.modFront t g

/-! Performance counters (R402). -/

/-- Counting is enabled for a ring. -/
def Cpu.pmOn (c : Cpu) (ring : Nat) : Bool := bitOf c.pmctl.toNat 4 && bitOf c.pmctl.toNat ring

/-- The events of Table 8-11 that the caches, lookups and the branch-target buffer decide. -/
def evHeld : List Nat := [0x01, 0x02, 0x05, 0x06, 0x07, 0x08, 0x09, 0x0A, 0x0E]

/-- The events of one code since the counters last counted: decided by the state, or, for the stall cycles, free; none where
nothing stalled. A word directly after a load may stall one cycle (R380, R381). [log 40 DESIGN CHOICE] -/
def pmEvents (code : Nat) (ev : Tbl Nat) (pair entered : Bool) (free : W64) : Nat :=
  match code with
  | 0x00 => 0
  | 0x03 => tget 0 ev 0x03 % 2 * (free.toNat % 2)
  | 0x0C => b2n pair
  | 0x0F => b2n entered
  | c => if evHeld.contains c then tget 0 ev c else if tget 0 ev c = 0 then 0 else free.toNat % 2 ^ 32

/-- The counters have counted; a load has put 2 under code 0x03, which leaves 1 there for the word after it. -/
def Front.counted (f : Front) : Front := { f with ev := if 2 ≤ tget 0 f.ev 0x03 then [(0x03, 1)] else [] }

/-- What the end of a word says to the counters: its ring, whether it retired, whether it is a pair word, whether an exception
was entered, and the number of the counter it wrote. -/
structure PmWord where
  ring : Nat
  retired : Bool := false
  pair : Bool := false
  entered : Bool := false
  wrote : Option Nat := none
  deriving DecidableEq, Repr

/-- One counter: its value after `n` more events, and whether it wraps; a written one keeps the written value (R404, R411).
[log 40 DESIGN CHOICE] -/
def pmStep (old n width : Nat) (written : Option Nat) : Nat × Bool :=
  (written.getD ((old + n) % 2 ^ width), decide (2 ^ width ≤ old + n))

/-- The counters of a main tandem at the end of a word, or at an entry, under PMCTL and PMSEL as they stood before it (R317);
`old` is the core then. Cycle counts and stall cycles are free values. [log 40 DESIGN CHOICE] -/
def Cpu.pmCount (c old : Cpu) (p : PmWord) (cyc : W64) (fr : Nat → W64) : Cpu :=
  let wr (n v : Nat) : Option Nat := if p.wrote = some n then some v else none
  let a := pmStep old.pmcyc.toNat cyc.toNat 64 (wr 0x182 c.pmcyc.toNat)
  let b := pmStep old.pmret.toNat (b2n p.retired) 64 (wr 0x183 c.pmret.toNat)
  let e (i : Nat) : Nat × Bool :=
    pmStep (tget 0 old.pmev i).toNat (pmEvents (wf old.pmsel (8 * i) 8) c.front.ev p.pair p.entered (fr i)) 32
      (wr (0x184 + i) (tget 0 c.pmev i).toNat)
  let put (i : Nat) (m : Tbl (BitVec 32)) : Tbl (BitVec 32) := tset 0 m i (BitVec.ofNat 32 (e i).1)
  { c with pmcyc := w64 a.1, pmret := w64 b.1, pmev := put 3 (put 2 (put 1 (put 0 c.pmev))),
           pmctl := c.pmctl ||| w64 (pack [(16, b2n a.2), (17, b2n b.2), (18, b2n (e 0).2), (19, b2n (e 1).2), (20, b2n (e 2).2),
             (21, b2n (e 3).2)]),
           front := c.front.counted }

/-- The counters' turn at the end of a word or at an entry. [log 40 DESIGN CHOICE] -/
def pmTick (t : Tandem) (old : Cpu) (p : PmWord) (s : State) : State :=
  if t.isG then s
  else if !old.pmOn p.ring then s.modFront t Front.counted
  else ({ s with free := s.free + 5 } : State).modCpu t fun c => c.pmCount old p s.freeVal fun i => Config.free (s.free + 1 + i)

end Sys2Proof.Machine
end

