-- ==== Sys2Proof/Machine/SchBlk.lean ====
section
/-! DEFINITION. The hardware scheduler of a main tandem and its register block SCHA or SCHB (chapter 10). -/

namespace Sys2Proof.Machine

def Sch.getCtx (h : Sch) (k : Nat) : Ctx := tget Ctx.reset h.ctx k
def Sch.setCtx (h : Sch) (k : Nat) (c : Ctx) : Sch := { h with ctx := tset Ctx.reset h.ctx k c }
def Sch.modCtx (h : Sch) (k : Nat) (f : Ctx → Ctx) : Sch := h.setCtx k (f (h.getCtx k))
def Sch.getLk (h : Sch) (n : Nat) : LkInfo := tget LkInfo.reset h.lk n
def Sch.setLk (h : Sch) (n : Nat) (l : LkInfo) : Sch := { h with lk := tset LkInfo.reset h.lk n l }

/-- The running context while the scheduler is enabled. -/
def Sch.isRunning (h : Sch) (k : Fin 64) : Bool := h.running == some k

/-- A context becomes READY behind every READY context (R483). -/
def Sch.makeReady (h : Sch) (k : Fin 64) : Sch :=
  { h.modCtx k.val fun c => { c with st := .ready } with queue := h.queue ++ [k] }

/-- An uncorrectable error in the context bank goes to the warden and to the tandem's memory group (R498, R897). [log 45
DEDUCED] -/
def State.bankUnc (s : State) (t : Tandem) : State := (s.mchk 0x13).eccUnc (ownGroup t)

/-- The core of the main tandem waits in WAIT (R481). [log 42 DEDUCED] -/
def State.parked (s : State) (m : Side) : Bool := (s.cpu m.tandem).wait == .parked

/-- Parked: in WAIT while no context is READY (R481, SCH_STAT.PARK). -/
def State.isPark (s : State) (m : Side) : Bool := s.parked m && (s.sch m).queue.isEmpty

/-- A wait ends: the word after WAIT is next (R481). -/
def State.endWait (s : State) (t : Tandem) : State :=
  (pmTick t (s.cpu t) { ring := (s.cpu t).ring, retired := true } s).modCpu t fun c =>
    { c.advance with wait := .none, entering := none, front := { c.front with cur := none } }

/-- A wake of context `k` (R480, R481). [log 42 DEDUCED, 138 DESIGN CHOICE] -/
def State.wake (s : State) (m : Side) (k : Fin 64) : State :=
  let h := s.sch m
  let c := h.getCtx k.val
  let mark (s : State) : State := s.modSch m fun h => h.modCtx k.val fun c =>
    if c.pend then { c with merge := satAdd 0xFF c.merge 1 } else { c with pend := true }
  match c.st with
  | .blocked =>
    if h.isRunning k && s.isPark m then (s.modSch m fun h => h.modCtx k.val fun c => { c with st := .running }).endWait m.tandem
    else s.modSch m fun h => h.makeReady k
  | .ready | .running => mark s
  | .free | .faulted => s.modSch m fun h => { h with wfree := satAdd 0xFF h.wfree 1 }

/-- The READY context of highest PRI, the one READY longest among equals (R483). [log 42 DEDUCED] -/
def Sch.best (h : Sch) : Option (Fin 64) :=
  h.queue.foldl (fun b k =>
    match b with
    | none => some k
    | some j => if (h.getCtx j.val).pri < (h.getCtx k.val).pri then some k else some j) none

/-- A READY context of PRI at least `p` exists. [log 42 DEDUCED] -/
def Sch.readyAt (h : Sch) (p : Nat) : Bool := h.queue.any fun k => decide (p ≤ (h.getCtx k.val).pri)

/-- A switch is due (R482): one that WAIT made due stays so when a wake makes the waiting context READY. -/
def State.switchDue (s : State) (m : Side) : Bool :=
  let h := s.sch m
  match h.running with
  | none => false
  | some r =>
    let c := h.getCtx r.val
    h.en && !h.queue.isEmpty &&
      (s.parked m || c.st == .ready || h.readyAt (c.pri + 1) || (h.yielded && h.readyAt c.pri))

/-- The 77 words of R477 from one locker into another, whose floating-point words stay. -/
def moveWords (dst src : Locker) : Locker := { src with f := dst.f, fcsr := dst.fcsr }

/-- The scheduler lockers, lowest first. -/
def Sch.schedLockers (h : Sch) : List (Fin 8) := [0, 1, 2, 3, 4, 5, 6, 7].filter fun n => h.lkmask.getLsbD n.val

/-- The victim of R485: BLOCKED or FAULTED before READY, lower PRI first, least recently run first. The outgoing context
counts as READY. [log 42 DEDUCED] -/
def Sch.victim (h : Sch) (inc out : Fin 64) : Option (Fin 8 × Fin 64) :=
  let rank (k : Fin 64) : Nat × Nat × Nat :=
    let c := h.getCtx k.val
    (if k ≠ out ∧ (c.st = .blocked ∨ c.st = .faulted) then 0 else 1, c.pri, c.stamp)
  let less (x y : Nat × Nat × Nat) : Bool :=
    decide (x.1 < y.1 ∨ (x.1 = y.1 ∧ (x.2.1 < y.2.1 ∨ (x.2.1 = y.2.1 ∧ x.2.2 < y.2.2))))
  h.schedLockers.foldl (fun b n =>
    match (h.getLk n.val).occ with
    | none => b
    | some k =>
      if (h.getCtx k.val).pin || k = inc then b
      else match b with
        | none => some (n, k)
        | some (p, j) => if less (rank k) (rank j) then some (n, k) else some (p, j)) none

/-- FPST of a locker in which context `k` becomes current (R489). -/
def Sch.fpstFor (h : Sch) (n : Nat) (k : Fin 64) : FpSt :=
  if !(h.getCtx k.val).fpen then .off else if (h.getLk n).fpown = some k then .live else .deferred

/-- Context `k` becomes current in locker `n` (R486). -/
def State.makeCurrent (s : State) (m : Side) (k : Fin 64) (n : Fin 8) : State :=
  let s := s.modSch m fun h =>
    let h := { h with running := some k, runlk := n, yielded := false, clock := h.clock + 1 }
    let h := h.modCtx k.val fun c => { c with st := .running, res := some n, runs := c.runs + 1, stamp := h.clock }
    h.setLk n.val { h.getLk n.val with occ := some k, fpst := h.fpstFor n.val k }
  (s.modCpu m.tandem fun c => { c with cur := n, resv := none, wait := .none, entering := none, pcOver := false }).flushFetch m.tandem

/-- A due switch is taken (R482 to R486). `bankErr`: the fill meets an uncorrectable error in the bank (R498). [log 42
DEDUCED, 137 DESIGN CHOICE] -/
def State.switchTo (s : State) (m : Side) (bankErr : Bool) : State :=
  let t := m.tandem
  let h := s.sch m
  match h.running, h.best with
  | some out, some inc =>
    -- the outgoing context: a running one becomes READY; one that waited, woke or was lost keeps its state (R480, R499)
    let leave (s : State) : State :=
      let s := if s.parked m then s.endWait t else s
      s.modSch m fun h =>
        let q := h.queue.filter fun k => decide (k ≠ inc)
        if (h.getCtx out.val).st = .running then
          { h.modCtx out.val fun c => { c with st := .ready } with queue := if h.yielded then q ++ [out] else out :: q }
        else { h with queue := q }
    let count (nonres : Bool) (s : State) : State := s.modSch m fun h =>
      if nonres then { h with nonres := satAdd 0xFFFFFFFF h.nonres 1 } else { h with resCnt := satAdd 0xFFFFFFFF h.resCnt 1 }
    let fill (n : Fin 8) (s : State) : State :=
      let slot := ((s.sch m).getCtx inc.val).slot
      s.modCpu t fun c => c.setLocker n.val (moveWords (c.locker n.val) slot)
    if h.getCtx inc.val |>.res |>.isSome then
      match (h.getCtx inc.val).res with
      | some n => (count false (leave s)).makeCurrent m inc n
      | none => s
    else if bankErr then
      (s.modSch m fun h => { h.modCtx inc.val fun c => { c with st := .faulted } with
        queue := h.queue.filter fun k => decide (k ≠ inc), bankecc := satAdd 0xFF h.bankecc 1 }).bankUnc t
    else
      match h.schedLockers.find? fun n => (h.getLk n.val).occ.isNone with
      | some n => (fill n (count true (leave s))).makeCurrent m inc n
      | none =>
        match h.victim inc out with
        | none => s
        | some (n, v) =>
          let s := count true (leave s)
          let lk := (s.cpu t).locker n.val
          let s := s.modSch m fun h => h.modCtx v.val fun c => { c with res := none, slot := moveWords c.slot lk }
          (fill n s).makeCurrent m inc n
  | _, _ => s

/-- SLICE_EXPIRY (R482, R484). -/
def State.sliceExpiry (s : State) (m : Side) : State :=
  let h := s.sch m
  match h.running with
  | some r =>
    let c := s.cpu m.tandem
    if h.en && h.slice != 0 && (h.getCtx r.val).st == .running && c.run == .running && c.cpl == 0 && c.cur == h.runlk
        && h.readyAt (h.getCtx r.val).pri
    then s.modSch m fun h => { h with yielded := true } else s
  | none => s

/-! Lazy floating-point state (R487 to R490). -/

/-- Copy the 17 floating-point words of R488. -/
def fpCopy (dst src : Locker) : Locker := { dst with f := src.f, fcsr := src.fcsr }

/-- The swap of R490 in the current locker of the main tandem, whose context is `k`. -/
def State.fpSwap (s : State) (m : Side) (k : Fin 64) : State :=
  let t := m.tandem
  let n := (s.cpu t).cur
  let h := s.sch m
  let s := match (h.getLk n.val).fpown with
    | some o => s.modSch m fun h => h.modCtx o.val fun c => { c with slot := fpCopy c.slot ((s.cpu t).locker n.val) }
    | none => s
  let h := s.sch m
  let from_ := h.schedLockers.find? fun y => decide (y ≠ n) && ((h.getLk y.val).fpown == some k)
  let src := match from_ with
    | some y => (s.cpu t).locker y.val
    | none => (h.getCtx k.val).slot
  let s := s.modCpu t fun c => c.setLocker n.val (fpCopy (c.locker n.val) src)
  s.modSch m fun h =>
    let h := match from_ with
      | some y => h.setLk y.val { h.getLk y.val with fpown := none }
      | none => h
    h.setLk n.val { h.getLk n.val with fpown := some k, fpst := .live }

/-! The registers. -/

/-- The code of a context's state: a context parked in WAIT shows RUNNING (Table 10-2). -/
def State.ctxCode (s : State) (m : Side) (k : Fin 64) : Nat :=
  match ((s.sch m).getCtx k.val).st with
  | .free => 0
  | .blocked => if (s.sch m).isRunning k && s.isPark m then 3 else 1
  | .ready => 2
  | .running => 3
  | .faulted => 4

/-- SCH_CTX_n. -/
def State.ctxCard (s : State) (m : Side) (k : Fin 64) : Nat :=
  let c := (s.sch m).getCtx k.val
  pack [(32, c.runs.toNat), (24, c.merge), (19, b2n c.res.isSome), (16, match c.res with | some n => n.val | none => 0),
    (11, b2n c.pend), (9, b2n c.pin), (8, b2n c.fpen), (4, c.pri), (0, s.ctxCode m k)]

/-- SCH_LK_n. -/
def Sch.lkCard (h : Sch) (n : Nat) : Nat :=
  let l := h.getLk n
  pack [(31, b2n l.occ.isSome), (16, match l.occ with | some k => k.val | none => 0), (15, b2n l.fpown.isSome),
    (8, match l.fpown with | some k => k.val | none => 0),
    (0, match l.fpst with | .live => 0 | .deferred => 1 | .off => 2)]

/-- The offsets that hold 64-bit registers. -/
def schWide (off : Nat) : Bool := off == 0x18 || (0x800 ≤ off && off < 0xA00 && off % 8 == 0)

/-- A read of the SCH block (R9, R12). -/
def schRead (m : Side) (off : Nat) (s : State) : Nat × State :=
  let h := s.sch m
  if off = 0x0 then (0x4D550101, s)
  else if off = 0x8 then (pack [(31, b2n h.en), (16, h.lkmask.toNat), (8, h.boot.toNat), (0, h.slice.toNat)], s)
  else if off = 0x10 then
    (pack [(31, b2n (s.isPark m)), (24, h.queue.length), (16, if h.en then h.runlk.val else 0),
      (8, match h.running with | some k => k.val | none => 0)], s)
  else if off = 0x18 then
    (pack [(32, h.nonres), (0, h.resCnt)], s.modSch m fun h => { h with nonres := 0, resCnt := 0 })
  else if off = 0x20 then
    (pack [(24, h.bankecc), (16, h.pinref), (8, h.wfree), (0, h.badop)],
      s.modSch m fun h => { h with bankecc := 0, pinref := 0, wfree := 0, badop := 0 })
  else if 0x100 ≤ off && off < 0x140 && off % 8 == 0 then (h.lkCard ((off - 0x100) / 8), s)
  else if h8 : 0x800 ≤ off ∧ off < 0xA00 ∧ off % 8 = 0 then
    let k : Fin 64 := ⟨(off - 0x800) / 8, by omega⟩
    (s.ctxCard m k, s.modSch m fun h => h.modCtx k.val fun c => { c with merge := 0 })
  else if 0x1000 ≤ off && off < 0x1400 && off % 4 == 0 then ((tget 0 h.bind ((off - 0x1000) / 4)).toNat, s)
  else (0, s)

/-- The write of SCH_CTL; one of EN = 1 takes effect only under the conditions of R478. [log 42 DEDUCED] -/
def schCtlWrite (m : Side) (v : Nat) (s : State) : State :=
  let h := s.sch m
  if h.en then s.setSch m { h with slice := BitVec.ofNat 8 v }
  else
    let h := { h with lkmask := BitVec.ofNat 8 (v / 2 ^ 16), boot := BitVec.ofNat 6 (v / 2 ^ 8), slice := BitVec.ofNat 8 v }
    let c := s.cpu m.tandem
    let boot : Fin 64 := ⟨fld v 8 6, by unfold fld; omega⟩
    if bitOf v 31 && h.lkmask.getLsbD c.cur.val && c.cpl == 0 && (h.getCtx boot.val).st == .free then
      let h := h.modCtx boot.val fun c => { c with st := .running, res := some (s.cpu m.tandem).cur, stamp := h.clock + 1 }
      let h := h.schedLockers.foldl (fun h n => h.setLk n.val .reset) h
      s.setSch m { h.setLk c.cur.val
        { occ := some boot, fpown := some boot, fpst := if (h.getCtx boot.val).fpen then .live else .off } with
        en := true, running := some boot, runlk := c.cur, clock := h.clock + 1, yielded := false }
    else if bitOf v 31 then s
    else s.setSch m h

/-- Pinning resident context `k` would leave no unpinned scheduler locker (R494). -/
def Sch.pinBad (h : Sch) (k : Fin 64) : Bool :=
  (h.getCtx k.val).res.isSome && (h.schedLockers.filter fun n =>
    match (h.getLk n.val).occ with
    | some j => !(h.getCtx j.val).pin && j != k
    | none => true).isEmpty

/-- The write of SCH_CTX_n (R494, R495). -/
def schCtxWrite (m : Side) (k : Fin 64) (v : Nat) (s : State) : State :=
  let h := s.sch m
  let c := h.getCtx k.val
  let bad := bitOf v 9 && !c.pin && h.pinBad k
  let pri := fld v 4 4
  let h := if bad then { h with pinref := satAdd 0xFF h.pinref 1 } else h
  let h := if c.st = .ready ∧ pri ≠ c.pri then { h with queue := (h.queue.filter fun j => decide (j ≠ k)) ++ [k] } else h
  s.setSch m (h.setCtx k.val { c with pri := pri, fpen := bitOf v 8, pin := if bad then c.pin else bitOf v 9 })

/-- A write of the SCH block by an initiator: only its own tandem's write counts (R501). -/
def schWrite (m : Side) (who : Tandem) (off v : Nat) (s : State) : State :=
  if who ≠ m.tandem then s
  else if off = 0x8 then schCtlWrite m v s
  else if h8 : 0x800 ≤ off ∧ off < 0xA00 ∧ off % 8 = 0 then schCtxWrite m ⟨(off - 0x800) / 8, by omega⟩ v s
  else if 0x1000 ≤ off && off < 0x1400 && off % 4 == 0 then
    s.modSch m fun h => { h with bind := tset 0 h.bind ((off - 0x1000) / 4) (BitVec.ofNat 32 (v % 64 + (b2n (bitOf v 31)) * 2 ^ 31)) }
  else s

/-- SCH_BIND_k: the context that source `k` wakes, where EN is 1. -/
def Sch.bound (h : Sch) (k : Nat) : Option (Fin 64) :=
  let b := tget 0 h.bind k
  if b.getLsbD 31 then some ⟨b.toNat % 64, by omega⟩ else none

end Sys2Proof.Machine
end

