-- ==== Sys2Proof/Machine/Volatile.lean ====
section
/-! DEFINITION. The DRAM controller, block DRC, and the xSPI controller, block XSP (chapter 12). -/

namespace Sys2Proof.Machine

/-! DRAM. -/

/-- DRAM_REFRESH (R568): all-bank, on the installed channels that are not in self-refresh. [log 92 DESIGN CHOICE] -/
def execDramRefresh (s : State) : Out :=
  .next (if s.clk.crystal && ((s.drc.a.ready && !s.drc.a.sref) || (s.drc.b.ready && !s.drc.b.sref))
    then { s with drc := { s.drc with refreshes := s.drc.refreshes + 1 } } else s)

/-- DRAM_BACKGROUND_CLEAR_BLOCK (R569): the lowest fresh block; CLEARED once none is left. -/
def execDramBackgroundClearBlock (s : State) : Out :=
  .next <|
    if s.dramSize = 0 || !s.clk.crystal then s
    else match s.drc.fresh with
      | [] => { s with drc := { s.drc with cleared := true } }
      | r :: _ =>
        let lo := dramBase / 8 + r.1 * 0x2000
        let rest := clearFresh r.1 s.drc.fresh
        { s with upset := s.upset.filter fun u => !(u.site.inBlock lo), mem := tclr s.mem lo (lo + 0x2000), drc := { s.drc with fresh := rest, cleared := rest.isEmpty } }

def DramCh.eccCard (c : DramCh) : Nat := pack [(56, c.corr), (48, c.unc), (0, c.last.toNat)]

def drcWide (off : Nat) : Bool := off == 0x10 || off == 0x18

def drcRead (off : Nat) (s : State) : Nat × State :=
  let d := s.drc
  if off = 0x0 then (0x4D550101, s)
  else if off = 0x8 then
    (pack [(31, b2n d.cleared), (16, d.b.fail.val), (12, d.a.fail.val), (9, b2n d.b.sref), (8, b2n d.a.sref),
      (4, d.b.dens.val), (2, d.a.dens.val), (1, b2n d.b.ready), (0, b2n d.a.ready)], s)
  else if off = 0x10 then (d.a.eccCard, { s with drc := { d with a := { d.a with corr := 0, unc := 0 } } })
  else if off = 0x18 then (d.b.eccCard, { s with drc := { d with b := { d.b with corr := 0, unc := 0 } } })
  else if off = 0x20 then (pack [(16, d.passes.toNat), (0, b2n d.late)], s)
  else (0, s)

def drcWrite (off v : Nat) (s : State) : State :=
  if off = 0x20 then { s with drc := { s.drc with late := s.drc.late && !bitOf v 0 } } else s

/-! xSPI. -/

def Xsp.port (x : Xsp) : Side → XspPort
  | .a => x.a | .b => x.b

def Xsp.setPort (x : Xsp) (p : Side) (v : XspPort) : Xsp :=
  match p with
  | .a => { x with a := v } | .b => { x with b := v }

/-- The port that an XSP_CMD value names. -/
def cmdPort (v : Nat) : Side := if bitOf v 29 then .b else .a

/-- A command that R576 refuses. -/
def State.xspRefuses (s : State) (who : Tandem) (v : Nat) : Bool :=
  s.xsp.busy || decide (256 < fld v 12 9) ||
    (!who.isG && bitOf v 28 && decide (s.xsp.addr.toNat < 65536) && s.gate.slot == some (cmdPort v))

/-- Port B is held in unit reset by the gating of one of its domains (R186). [log 16 DEDUCED] -/
def State.portHeld (s : State) (p : Side) : Bool := p == .b && (s.gated 22 || s.gated 24)

/-- A write of XSP_CMD (R575, R576); a port that its gating holds in reset takes no command. [log 89 DEDUCED] -/
def xspCmdWrite (who : Tandem) (v : Nat) (s : State) : State :=
  let cmd := BitVec.ofNat 32 (v % 2 ^ 31 - fld v 21 1 * 2 ^ 21 - fld v 8 4 * 2 ^ 8)
  let x := { s.xsp with cmd := cmd }
  if !bitOf v 31 || s.portHeld (cmdPort v) then { s with xsp := x }
  else if s.xspRefuses who v then { s with xsp := { x with refused := true } }
  else { s with xsp := { x with busy := true, run := cmd } }

/-- Bytes that a command changed in the flash. [log 90 DESIGN CHOICE] -/
def XspPort.change (p : XspPort) (l : List (Nat × Byte)) : XspPort :=
  { p with flash := l.foldl (fun f c => tset 0xFF f c.1 c.2) p.flash }

/-- The window of a port, by 64-byte line (Table 1-2). -/
def windowLine (p : Side) (line : Nat) : Bool :=
  match p with
  | .a => winABase ≤ 64 * line && 64 * line < winBBase | .b => winBBase ≤ 64 * line && 64 * line < winBBase + 0x80000000

/-- Every L2 line of a port's window is invalidated, and with it every L1 copy (R575). [log 26 DEDUCED] -/
def State.invalidate (s : State) (p : Side) : State := s.hw (s.l2Remove (windowLine p))

/-- The loads that wait at a port when its command ends are next there (R586). [log 26 DEDUCED] -/
def Cpu.portTurn (p : Side) (c : Cpu) : Cpu :=
  match c.wait with
  | .load q => if windowLine p (q.phys.lo / 64) then { c with wait := .load { q with turn := true } } else c
  | _ => c

/-- The end of the command under way: INV invalidates its port's window (R575), and the loads that reached the port
meanwhile come before any later command (R586). [log 26 DEDUCED] -/
def State.xspEnd (s : State) (x : Xsp) : State :=
  let v := s.xsp.run.toNat
  let p := cmdPort v
  let s := { s with xsp := { x with busy := false, done := true },
                    cpuA := s.cpuA.portTurn p, cpuB := s.cpuB.portTurn p, cpuG := s.cpuG.portTurn p }
  if bitOf v 30 then s.invalidate p else s

/-- XSP_COMMAND_END (R575): the bytes read, what the flash changed, and the invalidation. [log 89 DEDUCED, 90 DESIGN CHOICE] -/
def execXspCommandEnd (rx : List Byte) (changed : List (Nat × Byte)) (s : State) : Out :=
  .next <|
    let x := s.xsp
    if x.busy && s.clk.crystal then
      let v := x.run.toNat
      let buf := if bitOf v 27 then x.buf
        else ((List.range (fld v 12 9)).zip rx).foldl (fun b q => tset 0 b q.1 q.2) x.buf
      s.xspEnd { x.setPort (cmdPort v) ((x.port (cmdPort v)).change changed) with buf := buf }
    else s

/-- A command that reads data from a port in 8D-8D-8D ends without a data strobe (R589), with its invalidation (R575). [log
74 UNVERIFIED, 89 DEDUCED] -/
def State.timeoutEnd (s : State) : State :=
  let v := s.xsp.run.toNat
  if s.xsp.busy && s.clk.crystal && (s.xsp.port (cmdPort v)).mode == 2 && !bitOf v 27 && decide (0 < fld v 12 9) then
    s.xspEnd { s.xsp with timeout := true }
  else s

def xspWide (off : Nat) : Bool := 0x100 ≤ off && off < 0x200 && off % 8 == 0

def xspRead (off : Nat) (s : State) : Nat × State :=
  let x := s.xsp
  let v : Nat :=
    if off = 0x0 then 0x4D550101
    else if off = 0x8 then
      pack [(24, x.b.cap), (20, x.a.cap), (18, x.b.mode.val), (16, x.a.mode.val), (4, b2n x.timeout), (3, b2n x.refused),
        (2, b2n x.done), (1, b2n x.busy)]
    else if off = 0x10 then pack [(1, b2n x.b.winoff), (0, b2n x.a.winoff)]
    else if off = 0x18 then x.cmd.toNat + b2n x.busy * 2 ^ 31
    else if off = 0x20 then x.addr.toNat
    else if xspWide off then ofBytes ((List.range 8).map fun i => tget 0 x.buf (off - 0x100 + i))
    else 0
  (v, s)

def xspWrite (who : Tandem) (off v : Nat) (s : State) : State :=
  let x := s.xsp
  if off = 0x8 then
    { s with xsp := { x with timeout := x.timeout && !bitOf v 4, refused := x.refused && !bitOf v 3, done := x.done && !bitOf v 2 } }
  else if off = 0x10 then
    let off (p : Side) (i : Nat) : XspPort :=
      if s.portHeld p then x.port p else { x.port p with winoff := bitOf v i }
    { s with xsp := { x with a := off .a 0, b := off .b 1 } }
  else if off = 0x18 then xspCmdWrite who v s
  else if off = 0x20 then { s with xsp := { x with addr := BitVec.ofNat 32 v } }
  else if xspWide off then
    { s with xsp := { x with buf := ((List.range 8).zip (bytesOf 8 v)).foldl (fun b q => tset 0 b (off - 0x100 + q.1) q.2) x.buf } }
  else s

end Sys2Proof.Machine
end

