-- ==== Sys2Proof/Machine/Session.lean ====
section
/-! DEFINITION. The console's sessions as the rest of the machine reaches them: text, CRC-8, the output buffer, the start and
the end of a session, the start-up report and the notifications (chapter 19). -/

namespace Sys2Proof.Machine

/-! Text. -/

def txt (s : String) : Text := s.toList

/-- The digits of `n` in base `b`, at least `w` of them. -/
def digits (b : Nat) : Nat → Nat → Nat → Text
  | 0, _, _ => []
  | fuel + 1, w, n =>
    if n = 0 ∧ w = 0 then []
    else
      let d := n % b
      digits b fuel (w - 1) (n / b) ++ [Char.ofNat (if d < 10 then 48 + d else 55 + d)]

/-- A decimal number. -/
def dec (n : Nat) : Text := digits 10 40 1 n

/-- `w` hexadecimal digits. -/
def hexD (w n : Nat) : Text := digits 16 w w n

/-- Underscores between groups of four digits, counted from the right (R6). -/
def grouped (t : Text) : Text :=
  ((List.range t.length).zip t).flatMap fun p =>
    (if p.1 ≠ 0 ∧ (t.length - p.1) % 4 = 0 then ['_'] else []) ++ [p.2]

/-- A hexadecimal number of `w` digits in the notation of R6. -/
def hex (w n : Nat) : Text := txt "0x" ++ grouped (hexD w n)

/-- Words with one space between them. -/
def unwords : List Text → Text
  | [] => []
  | [w] => w
  | w :: ws => w ++ [' '] ++ unwords ws

def chNat (c : Char) : Byte := BitVec.ofNat 8 c.toNat

/-- CRC-8 of R859. -/
def crc8 (t : Text) : Nat := crcBytes ⟨8, 0x07, false⟩ 0 (t.map chNat)

def crlf : Text := [Char.ofNat 13, Char.ofNat 10]

/-- A line with its CRC suffix. -/
def withSuffix (t : Text) : Text := t ++ ['*'] ++ hexD 2 (crc8 t)

def Mode.name : Mode → Text
  | .gatehouse => txt "GATEHOUSE" | .run => txt "RUN" | .reduced => txt "REDUCED" | .safeHold => txt "SAFE HOLD"
  | .service => txt "SERVICE" | .runOut => txt "RUN-OUT"

def Mode.code : Mode → Nat
  | .gatehouse => 0 | .run => 1 | .reduced => 2 | .safeHold => 3 | .service => 4 | .runOut => 5

def modeOfCode (n : Nat) : Mode :=
  match n with
  | 0 => .gatehouse | 1 => .run | 2 => .reduced | 3 => .safeHold | 4 => .service | _ => .runOut

/-- WRD_MODE.INTEG (R85). -/
def Mode.integ : Mode → Nat
  | .run => 3 | .reduced => 2 | _ => 0

/-! Sessions. -/

def State.ses (s : State) (n : Fin 5) : Session := tget .reset s.uat.ses n.val

def State.modUat (s : State) (f : Uat → Uat) : State := { s with uat := f s.uat }

def State.modSes (s : State) (n : Fin 5) (f : Session → Session) : State :=
  s.modUat fun u => { u with ses := tmod .reset u.ses n.val f }

def sessions : List (Fin 5) := [0, 1, 2, 3, 4]

/-- Tandem G serves the console (R853, R884). -/
def State.serves (s : State) : Bool :=
  s.gate.released && [Mode.run, .reduced, .safeHold, .service].contains s.wrd.mode && s.cpuG.run == .running

/-- The conditions under which session `n` exists (R853). -/
def State.sesExists (s : State) (n : Fin 5) : Bool :=
  s.serves &&
    (match n.val with
      | 0 => !s.clk.urst.getLsbD 7
      | 4 => s.usb.fncfg
      | k => !s.unitOff (6 + k) && !(s.ses n).off && !s.gated (47 + k) && !s.clk.urst.getLsbD (7 + k))

/-- Queue text for transmission; echo and notifications that find the 4,096 bytes full are dropped (R862, Table 19-11). [log
118 DESIGN CHOICE] -/
def State.say (s : State) (n : Fin 5) (reply : Bool) (t : Text) : State :=
  s.modSes n fun x => if reply || decide (x.out.length + t.length ≤ 4096) then { x with out := x.out ++ t } else x

/-- The prompt, while QUIET is 0 (R857). -/
def State.prompt (s : State) (n : Fin 5) : State := if (s.ses n).quiet then s else s.say n true (txt "umaon> ")

/-- Sectors of 4 KiB erased. -/
def XspPort.wipe (q : XspPort) (sectors : List Nat) : XspPort :=
  sectors.foldl (fun q j => { q with flash := tclr q.flash (4096 * j) (4096 * (j + 1)) }) q

/-- The erase of the open image has ended the first `k` sectors of those it has still to do. [log 121 DEDUCED] -/
def State.eraseNext (s : State) (i : ImgUpd) (k : Nat) : State :=
  { s with xsp := s.xsp.setPort i.port ((s.xsp.port i.port).wipe (i.erase.take k)),
           uat := { s.uat with image := some { i with erase := i.erase.drop k } } }

/-- IMAGE ABORT: close the image, clear WINOFF, invalidate the window (R875). An erase under way ends with the sector whose
command has been sent; a free value says which. [log 121 DEDUCED] -/
def State.imgAbort (s : State) : State :=
  match s.uat.image with
  | none => s
  | some i =>
    let p := i.port
    let s := if i.erase.isEmpty then s else (s.eraseNext i (1 + s.freeVal.toNat % i.erase.length)).freeNext
    (({ s with xsp := s.xsp.setPort p { s.xsp.port p with winoff := false } }).invalidate p).modUat fun u => { u with image := none }

/-- The helm is freed; with it go the unlock and an open image (R868, R870, R875). -/
def State.freeHelm (s : State) : State := s.imgAbort.modUat fun u => { u with helm := none, unlocked := false }

/-- The warm reset that a reply was to start is asked for (R873). [log 123 DEDUCED] -/
def State.warmStart (s : State) : State :=
  match s.uat.after with
  | .none => s
  | .warm exit =>
    ({ s with clk := { s.clk with warmReq := some (if exit then .exitVerb else .resetVerb) } }).modUat fun u =>
      { u with after := .none, afterLeft := none }

/-- The end of a session (R869). A reset that its reply was to start follows at once (R873). -/
def State.endSession (s : State) (n : Fin 5) : State :=
  let s := if s.uat.helm = some n then s.freeHelm else s
  let s := match s.uat.after with
    | .warm _ => if s.uat.afterSes = n then s.warmStart else s
    | .none => s
  let s := s.modUat fun u =>
    { u with queue := u.queue.filter fun l => decide (l.ses ≠ n),
             evalFor := match u.evalFor with
               | some e => if e.1 = n then none else some e
               | none => none }
  s.modSes n fun x =>
    { x with opn := false, rate := x.rate0, quiet := x.quiet0, notify := x.notify0, newRate := none, line := [], raw := 0,
             err := .none, afterCr := false, preCr := false, out := [], replay := [] }

/-! The start-up report (R865, Table 19-4). -/

def lifeName (n : Nat) : Text :=
  match n with
  | 0 => txt "BLANK" | 1 => txt "PROVISIONED" | 2 => txt "FIELD" | _ => txt "RETURNED"

/-- The grade in the start-up report (Table 19-4). [log 125 DESIGN CHOICE] -/
def gradeName : Text := if Config.gradeMC then txt "MC" else txt "SC"

def slotName (o : Option Side) : Text :=
  match o with
  | none => txt "-" | some .a => txt "A" | some .b => txt "B"

def State.imgSeq (s : State) : Nat :=
  match s.gate.slot with
  | none => 0 | some .a => s.gate.slotA.seq.toNat | some .b => s.gate.slotB.seq.toNat

def holdCauseName (n : Nat) : Text :=
  match n with
  | 1 => txt "DRAINFAIL" | 2 => txt "DAMAGED" | 3 => txt "MAPLOST" | 4 => txt "LEDGER" | _ => txt "UNIT"

def unitName (n : Nat) : Text :=
  match n with
  | 0 => txt "USB" | 1 => txt "CANA" | 2 => txt "CANB" | 3 => txt "NFC" | 4 => txt "DRAMA" | 5 => txt "DRAMB"
  | 6 => txt "XSPIB" | 7 => txt "UARTB" | 8 => txt "UARTC" | _ => txt "UARTD"

/-- GATE_PRE of a UART. -/
def Gate.pre (g : Gate) (n : Nat) : Nat :=
  match n with
  | 0 => g.preA | 1 => g.preB | 2 => g.preC | _ => g.preD

/-- The report's lines in order, each without "% " and suffix; `restart`: the RESTART line's cause. [log 116 DESIGN CHOICE] -/
def State.reportLines (s : State) (n : Fin 5) (restart : Option Text) : List Text :=
  let g := s.gate
  [unwords [txt "UMAON", gradeName, txt "ROM", hex 2 wrdBlock, txt "LIFE", lifeName s.lifeState],
   unwords [txt "OUTCOME", dec g.outcome.val, g.relMode.name, txt "SLOT", slotName g.slot, txt "SEQ", hex 8 s.imgSeq],
   unwords [txt "SLOTA", hex 2 g.slotA.result.toNat, txt "SLOTB", hex 2 g.slotB.result.toNat]] ++
  (if g.outcome = 5 then [unwords [txt "HOLDCAUSE", holdCauseName g.holdCause.val]] else []) ++
  ((List.range 10).filter fun k => g.nocfg.getLsbD k).map (fun k =>
    unwords ([txt "NOCFG", unitName k] ++ (if k = 0 ∧ s.usb.idok = false then [txt "NOUSBID"] else []))) ++
  ((List.range 16).filter fun k => g.pioBad.getLsbD k).map (fun k => unwords [txt "PIOBANK", dec k]) ++
  (if g.skip ≠ 0 then [unwords [txt "SKIP", dec g.skip]] else []) ++
  (if n.val < 4 then [unwords [txt "PRE", dec (g.pre n.val)]] else []) ++
  (match restart with
    | some c => [unwords [txt "RESTART", c]]
    | none => []) ++
  [txt "READY"]

/-- The start of a session: the report and the prompt (R865). -/
def State.startSession (s : State) (n : Fin 5) (restart : Option Text) : State :=
  let s := s.modSes n fun x => { x with opn := true, broken := false }
  ((s.reportLines n restart).foldl (fun s l => s.say n true (withSuffix (txt "% " ++ l) ++ crlf)) s).prompt n

/-- Sessions whose conditions have ended end; those whose conditions hold anew start, but for a UART session that a break
ended, which starts at the break's end. -/
def State.settleSessions (s : State) (restart : Option Text) : State :=
  sessions.foldl (fun s n =>
    if (s.ses n).opn && !s.sesExists n then s.endSession n
    else if !(s.ses n).opn && s.sesExists n && !(s.ses n).broken then s.startSession n restart
    else s) s

/-- The function's configuration has changed, or the bus was reset: the USB session ends, and starts again where the function
is configured (R853, R869). -/
def State.usbSession (s : State) : State := (if (s.ses 4).opn then s.endSession 4 else s).settleSessions (some (txt "USB"))

/-- A restart of tandem G ends every session, and each sends the report again (Table 19-10). -/
def State.restartSessions (s : State) : State :=
  let s := sessions.foldl (fun s n => if (s.ses n).opn then s.endSession n else s) s
  (s.modUat fun u => { u with helm := none, unlocked := false, queue := [], evalFor := none }).settleSessions
    (some (txt "GRESTART"))

/-! Replies and notifications (R860, R861, R866). -/

/-- Queue a reply: its first line and its data lines, with the tag and, where asked or QUIET, the suffix; store a tagged one
that is not BUSY. The prompt follows. [log 116 DESIGN CHOICE] -/
def State.reply (s : State) (n : Fin 5) (tag : Text) (suffix busy : Bool) (first : Text) (data : List Text) : State :=
  let pre : Text := if tag = [] then [] else tag ++ [' ']
  let sfx (l : Text) : Text := if suffix || (s.ses n).quiet then withSuffix l else l
  let out := (first :: data.map (txt "+ " ++ ·)).flatMap fun l => sfx (pre ++ l) ++ crlf
  let s := s.say n true out
  let s := if s.uat.after ≠ .none ∧ s.uat.afterSes = n ∧ s.uat.afterLeft = none then
      s.modUat fun u => { u with afterLeft := some (s.ses n).out.length }
    else s
  let s := if tag ≠ [] ∧ busy = false then s.modSes n fun x => { x with replay := ((tag, out) :: x.replay).take 8 } else s
  s.prompt n

/-- A notification to every session that asked for them. [log 116 DESIGN CHOICE] -/
def State.notify (s : State) (t : Text) : State :=
  if s.serves then
    sessions.foldl (fun s n => if (s.ses n).opn && (s.ses n).notify then s.say n false (txt "% " ++ t ++ crlf) else s) s
  else s

/-- The fields of MODE: name, INTEG in binary, CAUSE. -/
def State.modeText (s : State) : Text :=
  unwords [s.wrd.mode.name, digits 2 2 2 s.wrd.mode.integ, hexD 2 s.wrd.cause.toNat]

def State.notifyMode (s : State) : State := s.notify (unwords [txt "MODE", s.modeText])

def kindName (k : Nat) : Text := if k = 1 then txt "RUNOUT" else txt "FAULT"

/-- The latest warden record is announced. -/
def State.notifyRec (s : State) (kind : Nat) : State := s.notify (unwords [txt "REC", dec s.spk.recno, kindName kind])

/-- The reply of EVAL, at the end of the evaluation it asked for. -/
def State.evalReply (s : State) : State :=
  match s.uat.evalFor with
  | none => s
  | some (n, tag, sfx) =>
    let d := s.grm.cur.dev
    (s.modUat fun u => { u with evalFor := none }).reply n tag sfx false
      (unwords [txt "OK DAYS", dec (wf d 0 16), txt "LO", dec (wf d 16 16)]) []

end Sys2Proof.Machine
end

