-- ==== Sys2Proof/Machine/Usb.lean ====
section
/-! DEFINITION. The USB hub and panel function, block USB (chapter 16). -/

namespace Sys2Proof.Machine

def State.modUsb (s : State) (f : Usb → Usb) : State := { s with usb := f s.usb }

/-- Set bit `n` of USB_EVT. -/
def Usb.event (u : Usb) (n : Nat) : Usb := { u with evt := u.evt ||| BitVec.ofNat 10 (2 ^ n) }

def State.usbResp (s : State) (r : UsbResp) : State := s.modUsb fun u => { u with resp := r }

/-- The block acts: in every mode but GATEHOUSE and RUN-OUT, while its clocks run and nothing holds it in reset (R142, R186,
R738, R761). -/
def State.usbUp (s : State) : Bool :=
  s.wrd.mode != .gatehouse && s.wrd.mode != .runOut && s.blkOn blkUSB && !s.devBusy blkUSB && s.clk.crystal

/-- The block answers its bus: attached, and its upstream port under no test (R739, R753). [log 96 PRESUMED] -/
def State.usbLive (s : State) : Bool := s.usb.pullup && s.usbUp && s.usb.testmode == 0

/-- Do `f` where the block answers its bus. [log 3 DESIGN CHOICE] -/
def State.onBus (s : State) (f : State → State) : State := if s.usbLive && !s.usb.susp then f s else s

/-! Ports (R744, R745). -/

def Usb.port (u : Usb) (n : Nat) : Port := tget Port.reset u.ports n
def Usb.setPort (u : Usb) (n : Nat) (p : Port) : Usb := { u with ports := tset Port.reset u.ports n p }

/-- Set a change bit of a port: 0 connection, 1 enable, 2 suspend, 3 over-current, 4 reset. -/
def Usb.change (u : Usb) (n bit : Nat) : Usb :=
  (u.setPort n { u.port n with change := (u.port n).change ||| BitVec.ofNat 5 (2 ^ bit) }).event 8

def PortSt.connected : PortSt → Bool
  | .poweredOff | .disconnected => false
  | .testing _ _ device => device
  | _ => true

def PortSt.powered : PortSt → Bool
  | .poweredOff => false
  | .testing _ powered _ => powered
  | _ => true

def PortSt.isTest : PortSt → Bool
  | .testing _ _ _ => true
  | _ => false

/-- wPortStatus. -/
def Port.status (p : Port) : Nat :=
  pack [(0, b2n p.st.connected), (1, b2n (p.st == .enabled || p.st == .suspended || p.st == .resuming)),
    (2, b2n (p.st == .suspended || p.st == .resuming)), (3, b2n p.oc), (4, b2n (p.st == .resetting)),
    (8, b2n p.st.powered), (9, b2n (p.st.connected && p.speed == .low)),
    (10, b2n (p.st.connected && p.speed == .high)), (11, b2n p.st.isTest)]

/-! Endpoints (R756 to R760). -/

def Usb.ep (u : Usb) (e : Nat) : Ep := tget Ep.reset u.eps e
def Usb.setEp (u : Usb) (e : Nat) (p : Ep) : Usb := { u with eps := tset Ep.reset u.eps e p }

/-- Endpoints 0 to 2 of USB_EPC_e are IN. -/
def epIn (e : Nat) : Bool := decide (e < 3)

/-- Row 1 and 2 of Table 16-7: DATA0, HALT 0, every buffer EMPTY or FREE, HWNEXT 0. -/
def Ep.clear (p : Ep) : Ep :=
  { p with halt := false, toggle := false, hwnext := false, st0 := false, st1 := false, len0 := 0, len1 := 0, sent := false,
           resend := false }

/-- Rows 3 and 4 of Table 16-7: DATA0, HALT 0, the buffers kept. -/
def Ep.resync (p : Ep) : Ep := { p with halt := false, toggle := false }

def Usb.clearEps (u : Usb) : Usb := (List.range 5).foldl (fun u e => u.setEp e (u.ep e).clear) u

/-- The function after a reset of its bus: address 0, unconfigured, no remote wakeup, endpoints cleared. -/
def Usb.fnReset (u : Usb) : Usb :=
  { u.clearEps with fnaddr := 0, fnNewAddr := none, fncfg := false, fnRwe := false, fnEp0 := .idle, report := [] }

/-- A port loses power; the function goes with port 1 (R745). [log 97 DEDUCED] -/
def Usb.portOff (u : Usb) (n : Nat) : Usb :=
  let u := u.setPort n { u.port n with st := .poweredOff }
  if n = 1 then u.fnReset else u

/-- What every bus reset does (R742): the ports off, both devices reset, the translator idle. [log 97 DEDUCED] -/
def Usb.busReset (u : Usb) : Usb :=
  let u := u.fnReset
  { u with hubaddr := 0, hubNewAddr := none, hubcfg := false, hubRwe := false, hubEp0 := .idle, scHalt := false,
           scToggle := false, scSent := false, ports := u.ports.filterMap (fun (p : Nat × Port) =>
             if p.2.oc then some (p.1, { Port.reset with oc := true }) else none),
           stopped := false, np0 := none, np1 := none, per := [], susp := false, suspDue := false, hs := false, chirp := .none,
           testNew := 0, fnTestNew := 0 }.event 0

/-- A recognised bus reset: the Umaon's chirp follows unless FSONLY is 1 (R741). [log 97 DEDUCED] -/
def State.usbReset (s : State) : State :=
  (s.modUsb fun u => { u.busReset with chirp := if u.fsonly then .none else .ours }).usbSession

/-- The Umaon drives nothing upstream: no chirp, no remote wakeup. -/
def Usb.quiet (u : Usb) : Usb := { u with pullup := false, kOut := false, wake := false, chirp := .none }

/-- The pull-up is connected while ATTEN is 1 and VBUS is valid (R739), where the state lets it; with it released the block
drives nothing upstream. [log 97 DEDUCED] -/
def Usb.pull (u : Usb) (ok : Bool) : Usb := if u.atten && u.vbus && ok then { u with pullup := true } else u.quiet

/-- RUN-OUT: the lines high-impedance, the port powers low, and a resume under way abandoned (Tables 13-7 and 16-9). [log 72
DEDUCED, 97 DEDUCED] -/
def Usb.runOut (u : Usb) : Usb :=
  let u := [2, 3, 4].foldl Usb.portOff { u.quiet with susp := false, suspDue := false }
  let p := u.port 1
  if p.st = .resuming then u.setPort 1 { p with st := .suspended } else u

/-- What else a pull-up needs: release, VDD_USB within its band, and no RUN-OUT (R138, R142, R164, Tables 13-7 and 21-12).
[log 126 DEDUCED] -/
def State.pullOk (s : State) : Bool := s.gate.released && s.wrd.rails.getLsbD 6 && s.wrd.mode != .runOut

/-- VBUS_CHANGE (R739, Table 16-9): a loss acts as a bus reset, but in a block that is held in reset, of which the comparator
alone changes (R186). [log 97 DEDUCED] -/
def execVbusChange (valid : Bool) (s : State) : Out :=
  .next <| s.rooted fun s =>
    if valid then s.modUsb fun u => ({ u with vbus := true } : Usb).pull s.pullOk
    else if !s.gate.released || s.devBusy blkUSB || !s.blkOn blkUSB then s.modUsb fun u => { u with vbus := false }
    else if s.usb.vbus then
      (s.modUsb fun u => (({ u.busReset with vbus := false } : Usb).event 6).pull s.pullOk).usbSession
    else s

/-- BUS_RESET: SE0 at full speed or from suspend (R740, R742). While the remote-wakeup K lasts it is not recognised. -/
def execBusReset (s : State) : Out :=
  .next (if s.usbLive && !s.usb.kOut && (!s.usb.hs || s.usb.susp) then s.usbReset else s)

/-- The link suspends (R762). [log 100 DESIGN CHOICE] -/
def Usb.suspend (u : Usb) : Usb := ({ u with susp := true, suspDue := false } : Usb).event 1

/-- A downstream port resumes. -/
def Usb.portResumes (u : Usb) : Bool := u.ports.any fun p => p.2.st == .resuming

/-- The link goes idle and suspends; a port resume completes first (R762, Table 16-9). [log 100 DESIGN CHOICE] -/
def State.usbSuspend (s : State) : State :=
  if s.usb.susp then s else s.modUsb fun u => if u.portResumes then { u with suspDue := true } else u.suspend

/-- HIGH_SPEED_IDLE (R740). -/
def execHighSpeedIdle (se0 : Bool) (s : State) : Out :=
  .next (if s.usbLive && s.usb.hs && !s.usb.susp then (if se0 then s.usbReset else s.usbSuspend) else s)

def execSuspend (s : State) : Out :=
  .next (if s.usbLive && !s.usb.hs && s.usb.chirp == .none then s.usbSuspend else s)

def execChirpKEnd (s : State) : Out :=
  .next (if s.usbLive && s.usb.chirp == .ours then s.modUsb fun u => { u with chirp := .waiting } else s)

def execHostChirp (s : State) : Out :=
  .next (if s.usbLive && s.usb.chirp == .waiting then s.modUsb fun u => { u with chirp := .none, hs := true } else s)

def execChirpTimeout (s : State) : Out :=
  .next (if s.usbLive && s.usb.chirp == .waiting then s.modUsb fun u => { u with chirp := .none, hs := false } else s)

/-- RESUME (R762): the first SOF after the host's end of resume. -/
def execResume (s : State) : Out :=
  .next (if s.usbLive && s.usb.susp && !s.usb.kOut then s.modUsb fun u => ({ u with susp := false } : Usb).event 2 else s)

/-- A write of 1 to USB_CTL.WAKE (R763); `idle` says that the link has been idle for 5.0 ms and no host resume is under way.
[log 100 DESIGN CHOICE] -/
def State.usbWake (s : State) (idle : Bool) : State :=
  if s.usb.susp && s.usb.fnRwe && idle && !s.usb.kOut then s.modUsb fun u => { u with wake := true, kOut := true } else s

/-- REMOTE_WAKEUP_K_END (R763): the K ends, of the function's wakeup or of the hub's. -/
def execRemoteWakeupKEnd (s : State) : Out :=
  .next (if s.usbLive then s.modUsb fun u => { u with wake := false, kOut := false } else s)

/-- The hub drives the remote-wakeup K for a downstream event during suspend (R763). -/
def Usb.hubWake (u : Usb) : Usb := if u.susp && u.hubRwe then { u with kOut := true } else u

/-- At microframe 0 the hub sends an SOF to each enabled full-speed port, and a keep-alive to each enabled low-speed port, 2 to
4 (R749). -/
def Usb.sendSof (u : Usb) : Usb :=
  if u.uframe ≠ 0 then u
  else [2, 3, 4].foldl (fun u n =>
    let p := u.port n
    if p.st = .enabled ∧ p.speed ≠ .high then u.setPort n { p with sof := some u.frame } else u) u

/-- SOF_RECEIVED (R749). -/
def execSofReceived (frame : BitVec 11) (uframe : BitVec 3) (s : State) : Out :=
  .next (s.onBus fun s => s.modUsb fun u =>
    (({ u with frame := frame, uframe := if u.hs then uframe else 0, ownTimer := false, suspDue := false } : Usb).event 7).sendSof)

/-- The hub's own timer reaches the next microframe, or at full speed the next frame. [log 98 DEDUCED] -/
def Usb.nextFrame (u : Usb) : Usb :=
  if u.hs && u.uframe != 7 then { u with uframe := u.uframe + 1 } else { u with uframe := 0, frame := u.frame + 1 }

/-- SOF_TIMER (R749): no SOF has come for 3 microframes, and the hub goes on by its own timer, a microframe at each command.
[log 98 DEDUCED] -/
def execSofTimer (s : State) : Out :=
  .next (s.onBus fun s => s.modUsb fun u => ({ u with ownTimer := true } : Usb).nextFrame.sendSof)

/-! Control transfers (R753 to R755, R765). -/

def Usb.ep0 (u : Usb) : UsbDev → Ep0
  | .hub => u.hubEp0 | .fn => u.fnEp0

def Usb.setEp0 (u : Usb) (d : UsbDev) (e : Ep0) : Usb :=
  match d with
  | .hub => { u with hubEp0 := e } | .fn => { u with fnEp0 := e }

/-- A device hears its bus: the hub always, the function while port 1 is enabled and it is in no test mode. -/
def Usb.hears (u : Usb) : UsbDev → Bool
  | .hub => true
  | .fn => (u.port 1).st == .enabled && u.fnTest == 0

/-- Do `f` where device `d` hears its bus. -/
def State.onDev (s : State) (d : UsbDev) (f : State → State) : State :=
  s.onBus fun s => if s.usb.hears d then f s else s.usbResp .none

/-- A protocol stall, counted in violation counter `k`. -/
def State.stall (s : State) (d : UsbDev) (k : Nat) : State := (s.vc k).modUsb fun u => u.setEp0 d .stalled

/-- A request answered STALL and counted in VC_USB_REQ. -/
def State.reqStall (s : State) (d : UsbDev) : State := s.stall d 4

/-- A request without data completes with its status stage. [log 96 PRESUMED] -/
def State.reqDone (s : State) (d : UsbDev) : State := s.modUsb fun u => u.setEp0 d (.statusIn false)

/-- A request that carries no data: any wLength but 0 breaks USB 2.0 (R746, R753). [log 96 PRESUMED] -/
def State.noData (s : State) (d : UsbDev) (w : Setup) (f : State → State) : State := if w.wLength = 0 then f s else s.reqStall d

/-- A control read returns min(wLength, length) bytes (R765). -/
def State.reqData (s : State) (d : UsbDev) (w : Setup) (item : List Byte) : State :=
  let n := min w.wLength.toNat item.length
  if w.wLength = 0 then s.reqDone d
  else s.modUsb fun u =>
    u.setEp0 d (.dataIn (item.take n) (decide (n < w.wLength.toNat ∧ n % 64 = 0)) true false)

/-- A new SETUP abandons the transfer under way, with the address that it was to set, and clears a protocol stall (R755). -/
def Usb.newSetup (u : Usb) : UsbDev → Usb
  | .hub => { u with hubEp0 := .idle, hubNewAddr := none, testNew := 0 }
  | .fn => { u with fnEp0 := .idle, fnNewAddr := none, fnTestNew := 0 }

/-- Every request arrives in a SETUP packet, which EP0 accepts whatever stands (R755). -/
def State.setup (s : State) (d : UsbDev) (f : State → State) : State :=
  s.onDev d fun s => f ((s.modUsb fun u => u.newSetup d).usbResp .ack)

def Usb.cfg (u : Usb) : UsbDev → Bool
  | .hub => u.hubcfg | .fn => u.fncfg
def Usb.addr (u : Usb) : UsbDev → BitVec 7
  | .hub => u.hubaddr | .fn => u.fnaddr
def Usb.rwe (u : Usb) : UsbDev → Bool
  | .hub => u.hubRwe | .fn => u.fnRwe

/-- Interfaces of a device (Table 16-5). -/
def nIfaces : UsbDev → Nat
  | .hub => 1 | .fn => 3

/-- The endpoint of USB_EPC_e that a function's endpoint address names (bit 7: IN). -/
def fnEp (a : Nat) : Option Nat :=
  match a with
  | 0x81 => some 0 | 0x82 => some 1 | 0x83 => some 2 | 0x03 => some 3 | 0x04 => some 4 | _ => none

/-- An endpoint other than EP0 that the present configuration has. -/
def Usb.hasEp (u : Usb) (d : UsbDev) (a : Nat) : Bool :=
  u.cfg d && (match d with
    | .hub => a == 0x81
    | .fn => (fnEp a).isSome)

def Usb.isHalted (u : Usb) (d : UsbDev) (a : Nat) : Bool :=
  match d with
  | .hub => a == 0x81 && u.scHalt
  | .fn => match fnEp a with
    | some e => (u.ep e).halt
    | none => false

/-- GET_STATUS (Table 16-6). -/
def reqGetStatus (d : UsbDev) (w : Setup) (s : State) : State :=
  let u := s.usb
  let i := w.wIndex.toNat
  if w.wLength ≠ 2 ∨ w.wValue ≠ 0 then s.reqStall d
  else match w.bmRequestType.toNat with
    | 0x80 => if i = 0 then s.reqData d w [BitVec.ofNat 8 (1 + 2 * b2n (u.rwe d)), 0] else s.reqStall d
    | 0x81 => if u.cfg d && decide (i < nIfaces d) then s.reqData d w [0, 0] else s.reqStall d
    | 0x82 =>
      if i = 0 ∨ i = 0x80 then s.reqData d w [0, 0]
      else if u.hasEp d i then s.reqData d w [BitVec.ofNat 8 (b2n (u.isHalted d i)), 0]
      else s.reqStall d
    | _ => s.reqStall d

/-- Host change of an endpoint's HALT (R759, R760). -/
def Usb.hostHalt (u : Usb) (d : UsbDev) (a : Nat) (b : Bool) : Usb :=
  match d with
  | .hub => { u with scHalt := b, scToggle := if b then u.scToggle else false }
  | .fn => match fnEp a with
    | none => u
    | some e =>
      let p := u.ep e
      let u := (u.setEp e (if b then { p with halt := true } else p.resync)).event 5
      if p.halt = b then u else u.event 4

/-- The part of CLEAR_FEATURE and SET_FEATURE for DEVICE_REMOTE_WAKEUP and ENDPOINT_HALT. -/
def reqFeature (d : UsbDev) (w : Setup) (b : Bool) (s : State) : State := s.noData d w fun s =>
  let i := w.wIndex.toNat
  match w.bmRequestType.toNat, w.wValue.toNat with
  | 0x00, 1 =>
    if i ≠ 0 then s.reqStall d
    else (s.modUsb fun u => match d with
      | .hub => { u with hubRwe := b } | .fn => { u with fnRwe := b }).reqDone d
  | 0x02, 0 => if s.usb.hasEp d i then (s.modUsb fun u => u.hostHalt d i b).reqDone d else s.reqStall d
  | _, _ => s.reqStall d

/-- A test selector of USB 2.0: 1 Test_J, 2 Test_K, 3 Test_SE0_NAK, 4 Test_Packet, 5 Test_Force_Enable. [log 96 PRESUMED] -/
def testSel (n : Nat) : Option (Fin 6) := if h : 1 ≤ n ∧ n ≤ 5 then some ⟨n, by omega⟩ else none

/-- SET_FEATURE, with TEST_MODE, whose selector is the high byte of wIndex: the mode starts after the status stage and lasts
until a power or unit reset (Table 16-6). Test_Force_Enable is a downstream port's. [log 96 PRESUMED] -/
def reqSetFeature (d : UsbDev) (w : Setup) (s : State) : State :=
  if w.bmRequestType = 0 ∧ w.wValue = 2 then s.noData d w fun s =>
    match testSel (w.wIndex.toNat / 256) with
    | some t =>
      if s.usb.testen && t != 5 && w.wIndex.toNat % 256 == 0 then
        (s.modUsb fun u => match d with
          | .hub => { u with testNew := t } | .fn => { u with fnTestNew := t }).reqDone d
      else s.reqStall d
    | none => s.reqStall d
  else reqFeature d w true s

/-- SET_ADDRESS (Table 16-6): the address stands from the end of the status stage. -/
def reqSetAddress (d : UsbDev) (w : Setup) (s : State) : State :=
  if w.bmRequestType = 0 ∧ s.usb.cfg d = false ∧ w.wValue.toNat < 128 ∧ w.wIndex = 0 ∧ w.wLength = 0 then
    let a := w.wValue.setWidth 7
    (s.modUsb fun u => match d with
      | .hub => { u with hubNewAddr := some a } | .fn => { u with fnNewAddr := some a }).reqDone d
  else s.reqStall d

/-! Descriptors (Table 16-2, R750 to R752). -/

def le16 (v : Nat) : List Byte := bytesOf 2 v

/-- The device's own string of an index, in UTF-16LE (R751). -/
def State.usbString (s : State) (d : UsbDev) (i : Nat) : Option (List Byte) :=
  let bit := match d with
    | .fn => 0 | .hub => 1
  match s.usb.strings.find? fun r => r.1.toNat == i && r.2.1.getLsbD bit with
  | some r => some r.2.2
  | none =>
    if d = .fn ∧ i = 3 then
      some ((List.range 16).flatMap fun k =>
        let h := fld (tget 0 s.gate.shadow 25).toNat (60 - 4 * k) 4
        [BitVec.ofNat 8 (if h < 10 then 0x30 + h else 0x37 + h), 0])
    else none

/-- A string index: the index where the device has that string, else 0. -/
def State.strIdx (s : State) (d : UsbDev) (i : Nat) : Byte := if (s.usbString d i).isSome then BitVec.ofNat 8 i else 0

/-- bDeviceClass and bDeviceProtocol at a speed. -/
def devClass (d : UsbDev) (hs : Bool) : List Byte :=
  match d with
  | .hub => [0x09, 0x00, if hs then 1 else 0]
  | .fn => [0, 0, 0]

def State.deviceDesc (s : State) (d : UsbDev) : List Byte :=
  let u := s.usb
  let pid := match d with
    | .hub => u.hubPid | .fn => u.fnPid
  [0x12, 0x01, 0x00, 0x02] ++ devClass d u.hs ++ [0x40] ++ le16 u.vid.toNat ++ le16 pid.toNat ++ le16 u.bcdDev.toNat ++
    [s.strIdx d 1, s.strIdx d 2, s.strIdx d 3, 0x01]

/-- The configuration descriptor of a device with its interfaces, as type `ty` for speed `hs`. -/
def State.configDesc (s : State) (d : UsbDev) (ty : Byte) (hs : Bool) : List Byte :=
  let inf (n eps cls sub : Byte) (str : Byte) : List Byte := [0x09, 0x04, n, 0x00, eps, cls, sub, 0x00, str]
  let ep (a : Byte) (size interval : Byte) : List Byte := [0x07, 0x05, a, 0x03, size, 0x00, interval]
  let hid : List Byte := [0x09, 0x21, 0x11, 0x01, 0x00, 0x01, 0x22, 0x15, 0x00]
  let body := match d with
    | .hub => inf 0 1 0x09 0x00 0 ++ ep 0x81 1 (if hs then 12 else 255)
    | .fn =>
      inf 0 1 0x03 0x00 (s.strIdx .fn 4) ++ hid ++ ep 0x81 64 1 ++ inf 1 2 0xFF 0x01 (s.strIdx .fn 5) ++ ep 0x82 64 1 ++
        ep 0x04 64 1 ++ inf 2 2 0xFF 0x02 (s.strIdx .fn 6) ++ ep 0x83 64 1 ++ ep 0x03 64 1
  [0x09, ty] ++ le16 (9 + body.length) ++ [BitVec.ofNat 8 (nIfaces d), 0x01, 0x00, 0xE0, 0x00] ++ body

def qualifierDesc (d : UsbDev) (hs : Bool) : List Byte := [0x0A, 0x06, 0x00, 0x02] ++ devClass d (!hs) ++ [0x40, 0x01, 0x00]

def hidDesc : List Byte := [0x09, 0x21, 0x11, 0x01, 0x00, 0x01, 0x22, 0x15, 0x00]

def reportDesc : List Byte :=
  [0x06, 0x00, 0xFF, 0x09, 0x01, 0xA1, 0x01, 0x09, 0x02, 0x15, 0x00, 0x26, 0xFF, 0x00, 0x75, 0x08, 0x95, 0x40, 0x81, 0x02, 0xC0]

/-- The hub descriptor (Table 16-2). [log 96 PRESUMED] -/
def hubDesc : List Byte := [0x09, 0x29, 0x04, 0x0D, 0x00, 0x0A, 0x00, 0x02, 0xFF]

/-- The descriptor that GET_DESCRIPTOR names. wIndex is 0 but for a string's language; string 0 lists the languages for
either. [log 96 PRESUMED] -/
def State.descriptor (s : State) (d : UsbDev) (w : Setup) : Option (List Byte) :=
  let ty := w.wValue.toNat / 256
  let i := w.wValue.toNat % 256
  match w.bmRequestType.toNat with
  | 0x80 =>
    let whole := i = 0 ∧ w.wIndex = 0
    match ty with
    | 1 => if whole then some (s.deviceDesc d) else none
    | 2 => if whole then some (s.configDesc d 0x02 s.usb.hs) else none
    | 3 =>
      if i = 0 then (if w.wIndex = 0 ∨ w.wIndex = 0x0409 then some [0x04, 0x03, 0x09, 0x04] else none)
      else if w.wIndex ≠ 0x0409 then none
      else (s.usbString d i).map fun b => [BitVec.ofNat 8 (2 + b.length), 0x03] ++ b
    | 6 => if whole then some (qualifierDesc d s.usb.hs) else none
    | 7 => if whole then some (s.configDesc d 0x07 (!s.usb.hs)) else none
    | _ => none
  | 0x81 =>
    if d = .fn ∧ w.wIndex = 0 ∧ i = 0 then
      (match ty with
        | 0x21 => some hidDesc
        | 0x22 => some reportDesc
        | _ => none)
    else none
  | _ => none

def reqGetDescriptor (d : UsbDev) (w : Setup) (s : State) : State :=
  match s.descriptor d w with
  | some b => s.reqData d w b
  | none => s.reqStall d

def reqGetConfiguration (d : UsbDev) (w : Setup) (s : State) : State :=
  if w.bmRequestType = 0x80 ∧ w.wLength = 1 ∧ w.wValue = 0 ∧ w.wIndex = 0 then
    s.reqData d w [BitVec.ofNat 8 (b2n (s.usb.cfg d))]
  else s.reqStall d

/-- The USB session exists only while the function is configured (R853). [log 97 DEDUCED] -/
def State.fnGone (s : State) : State := if (s.ses 4).opn && !s.usb.fncfg then s.endSession 4 else s

/-- The console hears of the function's configuration (R853, R869). -/
def State.fnChanged (s : State) (d : UsbDev) : State :=
  match d with
  | .fn => s.usbSession
  | .hub => s.fnGone

/-- SET_CONFIGURATION (Table 16-6, Table 16-7). A hub that is unconfigured powers its ports off. -/
def reqSetConfiguration (d : UsbDev) (w : Setup) (s : State) : State :=
  if w.bmRequestType = 0 ∧ w.wIndex = 0 ∧ w.wLength = 0 ∧ w.wValue.toNat < 2 ∧ (s.usb.cfg d = true ∨ s.usb.addr d ≠ 0) then
    let on := w.wValue == 1
    (s.modUsb fun u => match d with
      | .fn => ({ u.clearEps with fncfg := on } : Usb).event 3
      | .hub =>
        let u := { u with hubcfg := on, scHalt := false, scToggle := false, scSent := false }
        if on then u else (List.range 4).foldl (fun u n => u.portOff (n + 1)) u).fnChanged d |>.reqDone d
  else s.reqStall d

def reqGetInterface (d : UsbDev) (w : Setup) (s : State) : State :=
  if w.bmRequestType = 0x81 ∧ s.usb.cfg d = true ∧ w.wLength = 1 ∧ w.wValue = 0 ∧ w.wIndex.toNat < nIfaces d then
    s.reqData d w [0]
  else s.reqStall d

/-- Endpoints of an interface of the function (Table 16-5). -/
def ifaceEps (n : Nat) : List Nat :=
  match n with
  | 0 => [0] | 1 => [1, 4] | _ => [2, 3]

def reqSetInterface (d : UsbDev) (w : Setup) (s : State) : State :=
  if w.bmRequestType = 1 ∧ s.usb.cfg d = true ∧ w.wValue = 0 ∧ w.wLength = 0 ∧ w.wIndex.toNat < nIfaces d then
    (s.modUsb fun u => match d with
      | .hub => { u with scHalt := false, scToggle := false }
      | .fn => ((ifaceEps w.wIndex.toNat).foldl (fun u e => u.setEp e (u.ep e).resync) u).event 5).reqDone d
  else s.reqStall d

/-- GET_REPORT of the input report (R754). Where EP1 has sent fewer than 64 bytes, the spec states no bytes before them.
[log 96 PRESUMED] -/
def reqGetReport (d : UsbDev) (w : Setup) (s : State) : State :=
  if d = .fn ∧ w.bmRequestType = 0xA1 ∧ s.usb.fncfg = true ∧ w.wIndex = 0 ∧ w.wValue = 0x0100 then
    let r := s.usb.report
    if r = [] then s.reqData d w (List.replicate 64 0)
    else
      let pad := (List.range (64 - r.length)).map fun i => (Config.free (s.free + i)).setWidth 8
      ({ s with free := s.free + (64 - r.length) }).reqData d w (pad ++ r)
  else s.reqStall d

def execGetStatus (d : UsbDev) (w : Setup) (s : State) : Out := .next (s.setup d (reqGetStatus d w))
def execClearFeature (d : UsbDev) (w : Setup) (s : State) : Out := .next (s.setup d (reqFeature d w false))
def execSetFeature (d : UsbDev) (w : Setup) (s : State) : Out := .next (s.setup d (reqSetFeature d w))
def execSetAddress (d : UsbDev) (w : Setup) (s : State) : Out := .next (s.setup d (reqSetAddress d w))
def execGetDescriptor (d : UsbDev) (w : Setup) (s : State) : Out := .next (s.setup d (reqGetDescriptor d w))
def execSetDescriptor (d : UsbDev) (_w : Setup) (s : State) : Out := .next (s.setup d fun s => s.reqStall d)
def execGetConfiguration (d : UsbDev) (w : Setup) (s : State) : Out := .next (s.setup d (reqGetConfiguration d w))
def execSetConfiguration (d : UsbDev) (w : Setup) (s : State) : Out := .next (s.setup d (reqSetConfiguration d w))
def execGetInterface (d : UsbDev) (w : Setup) (s : State) : Out := .next (s.setup d (reqGetInterface d w))
def execSetInterface (d : UsbDev) (w : Setup) (s : State) : Out := .next (s.setup d (reqSetInterface d w))
def execSynchFrame (d : UsbDev) (_w : Setup) (s : State) : Out := .next (s.setup d fun s => s.reqStall d)
/-- GET_REPORT (R754). [log 96 PRESUMED] -/
def execGetReport (d : UsbDev) (w : Setup) (s : State) : Out := .next (s.setup d (reqGetReport d w))
def execSetReport (d : UsbDev) (_w : Setup) (s : State) : Out := .next (s.setup d fun s => s.reqStall d)
def execGetIdle (d : UsbDev) (_w : Setup) (s : State) : Out := .next (s.setup d fun s => s.reqStall d)
def execSetIdle (d : UsbDev) (_w : Setup) (s : State) : Out := .next (s.setup d fun s => s.reqStall d)
def execGetProtocol (d : UsbDev) (_w : Setup) (s : State) : Out := .next (s.setup d fun s => s.reqStall d)
def execSetProtocol (d : UsbDev) (_w : Setup) (s : State) : Out := .next (s.setup d fun s => s.reqStall d)

/-! Hub class requests (Table 16-4). -/

/-- USB_TT. [log 99 DEDUCED] -/
def Usb.ttCard (u : Usb) : Nat :=
  pack [(12, b2n u.stopped), (9, b2n u.np1.isSome), (8, b2n u.np0.isSome), (0, (u.per.filter fun e => !e.full).length)]

/-- Port 1 to 4 of a configured hub; a port request has wIndex's high byte 0, but for a test's selector. -/
def State.portOk (s : State) (w : Setup) : Bool :=
  s.usb.hubcfg && decide (1 ≤ w.wIndex.toNat % 256 ∧ w.wIndex.toNat % 256 ≤ 4)

/-- A request that writes a port: its type, its port and no data (R746). [log 96 PRESUMED] -/
def State.portReq (s : State) (w : Setup) : Bool := w.bmRequestType == 0x23 && s.portOk w && w.wLength == 0

def reqGetHubStatus (w : Setup) (s : State) : State :=
  if w.bmRequestType = 0xA0 ∧ w.wValue = 0 ∧ w.wIndex = 0 ∧ w.wLength = 4 then s.reqData .hub w [1, 0, 0, 0]
  else s.reqStall .hub

def reqGetPortStatus (w : Setup) (s : State) : State :=
  if w.bmRequestType = 0xA3 ∧ w.wValue = 0 ∧ w.wLength = 4 ∧ s.portOk w = true ∧ w.wIndex.toNat < 256 then
    let p := s.usb.port w.wIndex.toNat
    s.reqData .hub w (le16 p.status ++ le16 p.change.toNat)
  else s.reqStall .hub

/-- SetPortFeature(PORT_POWER), while USB_OCNn is high: the function is connected while port 1 is powered (R745). -/
def Usb.powerOn (u : Usb) (n : Nat) : Usb :=
  let p := u.port n
  if p.st ≠ .poweredOff ∨ u.ocPins.getLsbD n = true then u
  else if n = 1 then (u.setPort 1 { p with st := .disabled, speed := if u.hs then .high else .full }).change 1 0
  else u.setPort n { p with st := .disconnected }

/-- SetPortFeature(PORT_TEST): a port that is disabled, disconnected, suspended or off goes under test, and any other stays as
it is. [log 96 PRESUMED] -/
def PortSt.test (st : PortSt) (sel : Fin 6) : PortSt :=
  match st with
  | .disabled | .disconnected | .suspended | .poweredOff => .testing sel st.powered st.connected
  | st => st

/-- SetPortFeature (Table 16-4, R764, R769). [log 97 DEDUCED] -/
def reqSetPortFeature (w : Setup) (s : State) : State :=
  let n := w.wIndex.toNat % 256
  let p := s.usb.port n
  let put (st : PortSt) : State := s.modUsb fun u => u.setPort n { p with st := st }
  if s.portReq w = false ∨ (w.wValue ≠ 21 ∧ 256 ≤ w.wIndex.toNat) then s.reqStall .hub
  else match w.wValue.toNat with
    | 8 => (s.modUsb fun u => u.powerOn n).reqDone .hub
    | 4 => (if p.st.connected && !p.st.isTest then put .resetting else s).reqDone .hub
    | 2 => (if p.st = .enabled then put .suspended else s).reqDone .hub
    | 21 =>
      match testSel (w.wIndex.toNat / 256) with
      | some t => if s.usb.testen then (put (p.st.test t)).reqDone .hub else s.reqStall .hub
      | none => s.reqStall .hub
    | _ => s.reqStall .hub

def reqClearPortFeature (w : Setup) (s : State) : State :=
  let n := w.wIndex.toNat % 256
  let p := s.usb.port n
  let put (p : Port) : State := s.modUsb fun u => u.setPort n p
  let chg (b : Nat) : State := put { p with change := p.change &&& ~~~(BitVec.ofNat 5 (2 ^ b)) }
  if s.portReq w = false ∨ 256 ≤ w.wIndex.toNat then s.reqStall .hub
  else match w.wValue.toNat with
    | 1 => (if p.st = .enabled ∨ p.st = .suspended ∨ p.st = .resuming then put { p with st := .disabled } else s).reqDone .hub
    | 2 => (if p.st = .suspended then put { p with st := .resuming } else s).reqDone .hub
    | 8 =>
      let s := s.modUsb fun u => u.portOff n
      (if n = 1 then s.fnGone else s).reqDone .hub
    | 16 => (chg 0).reqDone .hub
    | 17 => (chg 1).reqDone .hub
    | 18 => (chg 2).reqDone .hub
    | 19 => (chg 3).reqDone .hub
    | 20 => (chg 4).reqDone .hub
    | _ => s.reqStall .hub

def reqGetHubDescriptor (w : Setup) (s : State) : State :=
  if w.bmRequestType = 0xA0 ∧ w.wValue = 0x2900 ∧ w.wIndex = 0 then s.reqData .hub w hubDesc else s.reqStall .hub

/-- A request that acts on the one translator of a configured hub, and carries no data. [log 96 PRESUMED] -/
def State.ttReq (s : State) (w : Setup) : Bool :=
  w.bmRequestType == 0x23 && w.wIndex == 1 && w.wLength == 0 && s.usb.hubcfg

/-- ClearTTBuffer: wValue holds the endpoint in bits [3:0] and the device in bits [10:4]. -/
def reqClearTtBuffer (w : Setup) (s : State) : State :=
  if !s.ttReq w then s.reqStall .hub
  else
    let hit (b : NpBuf) : Bool := b.ep.toNat == fld w.wValue.toNat 0 4 && b.addr.toNat == fld w.wValue.toNat 4 7
    (s.modUsb fun u => { u with np0 := u.np0.filter fun b => !hit b, np1 := u.np1.filter fun b => !hit b }).reqDone .hub

def reqResetTt (w : Setup) (s : State) : State :=
  if !s.ttReq w || w.wValue != 0 then s.reqStall .hub
  else (s.modUsb fun u => { u with np0 := none, np1 := none, per := [], stopped := false }).reqDone .hub

def reqStopTt (w : Setup) (s : State) : State :=
  if !s.ttReq w || w.wValue != 0 then s.reqStall .hub
  else (s.modUsb fun u => { u with stopped := true }).reqDone .hub

def reqGetTtState (w : Setup) (s : State) : State :=
  if w.bmRequestType ≠ 0xA3 ∨ w.wIndex ≠ 1 ∨ s.usb.hubcfg = false then s.reqStall .hub
  else s.reqData .hub w (bytesOf 4 s.usb.ttCard)

def execGetHubStatus (w : Setup) (s : State) : Out := .next (s.setup .hub (reqGetHubStatus w))
def execClearHubFeature (_w : Setup) (s : State) : Out := .next (s.setup .hub fun s => s.reqStall .hub)
def execSetHubFeature (_w : Setup) (s : State) : Out := .next (s.setup .hub fun s => s.reqStall .hub)
def execGetPortStatus (w : Setup) (s : State) : Out := .next (s.setup .hub (reqGetPortStatus w))
def execSetPortFeature (w : Setup) (s : State) : Out := .next (s.setup .hub (reqSetPortFeature w))
def execClearPortFeature (w : Setup) (s : State) : Out := .next (s.setup .hub (reqClearPortFeature w))
def execGetHubDescriptor (w : Setup) (s : State) : Out := .next (s.setup .hub (reqGetHubDescriptor w))
def execSetHubDescriptor (_w : Setup) (s : State) : Out := .next (s.setup .hub fun s => s.reqStall .hub)
def execClearTtBuffer (w : Setup) (s : State) : Out := .next (s.setup .hub (reqClearTtBuffer w))
def execResetTt (w : Setup) (s : State) : Out := .next (s.setup .hub (reqResetTt w))
def execStopTt (w : Setup) (s : State) : Out := .next (s.setup .hub (reqStopTt w))
def execGetTtState (w : Setup) (s : State) : Out := .next (s.setup .hub (reqGetTtState w))

/-- What a SETUP packet asks for, by bmRequestType's type field and bRequest. [log 96 PRESUMED] -/
def request (d : UsbDev) (r : Nat) (w : Setup) (s : State) : State :=
  match fld w.bmRequestType.toNat 5 2, r with
  | 0, 0 => reqGetStatus d w s
  | 0, 1 => reqFeature d w false s
  | 0, 3 => reqSetFeature d w s
  | 0, 5 => reqSetAddress d w s
  | 0, 6 => reqGetDescriptor d w s
  | 0, 8 => reqGetConfiguration d w s
  | 0, 9 => reqSetConfiguration d w s
  | 0, 10 => reqGetInterface d w s
  | 0, 11 => reqSetInterface d w s
  | 1, 1 =>
    match d with
    | .fn => reqGetReport d w s
    | .hub => reqClearPortFeature w s
  | 1, n =>
    match d with
    | .fn => s.reqStall d
    | .hub =>
      match n with
      | 0 => if w.bmRequestType = 0xA0 then reqGetHubStatus w s else reqGetPortStatus w s
      | 3 => reqSetPortFeature w s
      | 6 => reqGetHubDescriptor w s
      | 8 => reqClearTtBuffer w s
      | 9 => reqResetTt w s
      | 10 => reqGetTtState w s
      | 11 => reqStopTt w s
      | _ => s.reqStall d
  | _, _ => s.reqStall d

/-- SETUP_PACKET (R755); a data packet of more than 64 bytes gets no handshake and changes nothing (R767). -/
def execSetupPacket (d : UsbDev) (req : Byte) (w : SetupPkt) (s : State) : Out :=
  .next (match w with
    | .fields w => s.setup d (request d req.toNat w)
    | .long => s.onDev d fun s => (s.vc 6).usbResp .none)

/-! Tokens (R755 to R759, R747, R767, R768). -/

/-- An address and a test mode take effect at the end of the status stage (Table 16-6). [log 96 PRESUMED] -/
def Usb.statusEnd (u : Usb) (d : UsbDev) : Usb :=
  match d with
  | .hub => { u with hubEp0 := .idle, hubaddr := u.hubNewAddr.getD u.hubaddr, hubNewAddr := none,
                     testmode := if u.testNew = 0 then u.testmode else u.testNew, testNew := 0 }
  | .fn => { u with fnEp0 := .idle, fnaddr := u.fnNewAddr.getD u.fnaddr, fnNewAddr := none,
                    fnTest := if u.fnTestNew = 0 then u.fnTest else u.fnTestNew, fnTestNew := 0 }

/-- A control sequence error: STALL, counted in VC_USB_SEQ, until the next SETUP (R755). [log 96 PRESUMED] -/
def State.seqStall (s : State) (d : UsbDev) : State := (s.stall d 5).usbResp .stall

/-- IN to EP0. [log 96 PRESUMED] -/
def ep0In (d : UsbDev) (s : State) : State :=
  match s.usb.ep0 d with
  | .stalled => s.usbResp .stall
  | .dataIn left zlp tog _ =>
    (s.modUsb fun u => u.setEp0 d (.dataIn left zlp tog true)).usbResp (.data tog (left.take 64))
  | .statusIn _ => (s.modUsb fun u => u.setEp0 d (.statusIn true)).usbResp (.data true [])
  | _ => s.seqStall d

/-- The host's ACK of an EP0 packet. -/
def ep0Ack (d : UsbDev) (s : State) : State :=
  match s.usb.ep0 d with
  | .dataIn left zlp tog true =>
    let rest := left.drop 64
    let more := !rest.isEmpty || (zlp && !left.isEmpty)
    s.modUsb fun u => u.setEp0 d (if more then .dataIn rest zlp (!tog) false else .statusOut)
  | .statusIn true => s.modUsb fun u => u.statusEnd d
  | _ => s

/-- OUT to EP0: only the status stage of a control read takes a packet. [log 96 PRESUMED] -/
def ep0Out (d : UsbDev) (bytes : List Byte) (s : State) : State :=
  match s.usb.ep0 d with
  | .stalled => s.usbResp .stall
  | .statusOut => if bytes = [] then (s.modUsb fun u => u.setEp0 d .idle).usbResp .ack else s.seqStall d
  | _ => s.seqStall d

/-- The status-change byte (R747). -/
def Usb.statusChange (u : Usb) : Nat := pack ((List.range 4).map fun i => (i + 1, b2n (decide ((u.port (i + 1)).change ≠ 0))))

/-- IN to the hub's status-change endpoint. -/
def scIn (s : State) : State :=
  let u := s.usb
  if u.scHalt then s.usbResp .stall
  else if u.statusChange = 0 then s.usbResp .nak
  else (s.modUsb fun u => { u with scSent := true }).usbResp (.data u.scToggle [BitVec.ofNat 8 u.statusChange])

/-- EP1, EP2 and EP4 are not served outside RUN and REDUCED (R761). [log 97 DEDUCED] -/
def Usb.idleEp (u : Usb) (e : Nat) : Bool := !u.served && (e == 0 || e == 1 || e == 4)

def Ep.nakked (p : Ep) : Ep := { p with nak := satAdd 0xFFFF p.nak 1 }
def Ep.dupped (p : Ep) : Ep := { p with dup := satAdd 0xFFFF p.dup 1 }

/-- The state and the bytes of the HWNEXT buffer. -/
def Ep.next (p : Ep) : Bool := if p.hwnext then p.st1 else p.st0
def Ep.bytes (p : Ep) (b : Bool) (n : Nat) : List Byte := (List.range n).map fun i => tget 0 (if b then p.buf1 else p.buf0) i
def Ep.setSt (p : Ep) (b v : Bool) : Ep := if b then { p with st1 := v } else { p with st0 := v }

/-- IN to EP1, EP2 or EP3 (R757). -/
def epInToken (e : Nat) (s : State) : State :=
  let u := s.usb
  let p := u.ep e
  let put (p : Ep) (s : State) : State := s.modUsb fun u => u.setEp e p
  if u.idleEp e then (put p.nakked s).usbResp .nak
  else if p.halt then s.usbResp .stall
  else if !p.next then (put p.nakked s).usbResp .nak
  else
    let bs := p.bytes p.hwnext (if p.hwnext then p.len1 else p.len0).toNat
    let again := p.sent || p.resend
    let s := put { (if again then p.dupped else p) with sent := true } s
    let s := if e = 0 && !again then s.modUsb fun u =>
      let r := u.report ++ bs
      { u with report := r.drop (r.length - 64) } else s
    s.usbResp (.data p.toggle bs)

/-- A token to an endpoint that the configuration does not have (R768). -/
def State.noEp (s : State) : State := (s.vc 7).usbResp .none

/-- A device in Test_SE0_NAK, which answers every IN token with NAK. [log 96 PRESUMED] -/
def State.nakTest (s : State) (d : UsbDev) : Bool :=
  s.usb.pullup && s.usbUp && (match d with
    | .hub => s.usb.testmode == 3
    | .fn => s.usb.testmode == 0 && s.usb.fnTest == 3 && (s.usb.port 1).st == .enabled)

/-- An IN token that a device answers. -/
def inToken (d : UsbDev) (ep : Fin 16) (s : State) : State :=
  if ep.val = 0 then ep0In d s
  else if s.usb.hasEp d (0x80 + ep.val) then
    (match d with
      | .hub => scIn s
      | .fn => epInToken ((fnEp (0x80 + ep.val)).getD 0) s)
  else s.noEp

/-- The host's ACK at a device (R757). -/
def hostAck (d : UsbDev) (ep : Fin 16) (s : State) : State :=
  if ep.val = 0 then ep0Ack d s
  else if s.usb.hasEp d (0x80 + ep.val) then
    (match d with
      | .hub => s.modUsb fun u => if u.scSent then { u with scSent := false, scToggle := !u.scToggle } else u
      | .fn =>
        let e := (fnEp (0x80 + ep.val)).getD 0
        s.modUsb fun u =>
          let p := u.ep e
          if p.sent then u.setEp e { p.setSt p.hwnext false with toggle := !p.toggle, hwnext := !p.hwnext, sent := false,
                                                                 resend := false }
          else u)
  else s

/-- NO_ACK_TIMEOUT (R773). -/
def execNoAckTimeout (d : UsbDev) (ep : Fin 16) (s : State) : Out :=
  .next (s.onDev d fun s =>
    let count (s : State) : State := s.modUsb fun u => { u with noack := satAdd 0xFFFF u.noack 1 }
    if ep.val = 0 then
      match s.usb.ep0 d with
      | .dataIn left zlp tog true => count (s.modUsb fun u => u.setEp0 d (.dataIn left zlp tog false))
      | .statusIn true => count (s.modUsb fun u => u.setEp0 d (.statusIn false))
      | _ => s
    else match d with
      | .hub => if s.usb.scSent then count (s.modUsb fun u => { u with scSent := false }) else s
      | .fn =>
        match fnEp (0x80 + ep.val) with
        | none => s
        | some e =>
          let p := s.usb.ep e
          if p.sent then count (s.modUsb fun u => u.setEp e { p with sent := false, resend := true }) else s)

/-- Bytes as a buffer's contents. -/
def bufOf (l : List Byte) : Tbl Byte := ((List.range l.length).zip l).foldl (fun t p => tset 0 t p.1 p.2) []

/-- OUT to EP3 or EP4 (R758). -/
def epOutPacket (e : Nat) (data1 : Bool) (bytes : List Byte) (s : State) : State :=
  let u := s.usb
  let p := u.ep e
  let put (p : Ep) : State := s.modUsb fun u => u.setEp e p
  if u.idleEp e then (put p.nakked).usbResp .nak
  else if p.halt then s.usbResp .stall
  else if data1 ≠ p.toggle then (put p.dupped).usbResp .ack
  else if p.next then (put p.nakked).usbResp .nak
  else
    let n := BitVec.ofNat 7 bytes.length
    let q := if p.hwnext then { p with buf1 := bufOf bytes, len1 := n } else { p with buf0 := bufOf bytes, len0 := n }
    (put { q.setSt p.hwnext true with toggle := !p.toggle, hwnext := !p.hwnext }).usbResp .ack

/-- An OUT data packet that a device answers (R758, R767). -/
def outPacket (d : UsbDev) (ep : Fin 16) (data1 : Bool) (bytes : List Byte) (s : State) : State :=
  if 64 < bytes.length then (s.vc 6).usbResp .none
  else if ep.val = 0 then ep0Out d bytes s
  else if s.usb.hasEp d ep.val then epOutPacket ((fnEp ep.val).getD 0) data1 bytes s
  else s.noEp

/-- PING to EP0 at high speed (R755). -/
def execPing (d : UsbDev) (s : State) : Out :=
  .next (s.onDev d fun s =>
    if s.usb.hs then s.usbResp (if s.usb.ep0 d = .statusOut then .ack else .nak) else s.usbResp .none)

/-- EXT_TOKEN (Table 16-1). -/
def execExtToken (s : State) : Out := .next (s.onBus fun s => (s.vc 3).usbResp .none)

/-- USB_LINE_ERROR_PACKET (R773). -/
def execUsbLineErrorPacket (s : State) : Out :=
  .next (s.onBus fun s => (s.modUsb fun u => { u with line := satAdd 0xFFFF u.line 1 }).usbResp .none)

/-! The translator (R748). -/

/-- Do `f` where the translator works: the link at high speed. -/
def State.onTt (s : State) (f : State → State) : State := s.onBus fun s => if s.usb.hs then f s else s

def NpBuf.is (b : NpBuf) (addr : BitVec 7) (ep : BitVec 4) : Bool := b.addr == addr && b.ep == ep
def PerEnt.is (b : PerEnt) (addr : BitVec 7) (ep : BitVec 4) : Bool := b.addr == addr && b.ep == ep

def execControlStartSplit (addr : BitVec 7) (ep : BitVec 4) (s : State) : Out :=
  .next (s.onTt fun s =>
    let b : NpBuf := { addr := addr, ep := ep, result := none }
    if s.usb.stopped then s.usbResp .nak
    else if s.usb.np0.isNone then (s.modUsb fun u => { u with np0 := some b }).usbResp .ack
    else if s.usb.np1.isNone then (s.modUsb fun u => { u with np1 := some b }).usbResp .ack
    else s.usbResp .nak)

/-- INTERRUPT_START_SPLIT (R748). [log 99 DEDUCED] -/
def execInterruptStartSplit (addr : BitVec 7) (ep : BitVec 4) (s : State) : Out :=
  .next (s.onTt fun s =>
    if s.usb.stopped then s.usbResp .nak
    else
      let per := s.usb.per.filter fun e => !(e.full && e.is addr ep)
      let full := decide (16 ≤ (per.filter fun e => !e.full).length)
      let s := if full then s.vc 1 else s
      (s.modUsb fun u => { u with per := per ++ [{ addr := addr, ep := ep, result := none, full := full }] }).usbResp .none)

def execBulkIsoStartSplit (_addr : BitVec 7) (_ep : BitVec 4) (s : State) : Out :=
  .next (s.onTt fun s => if s.usb.stopped then s.usbResp .nak else (s.vc 0).usbResp .stall)

/-- A complete-split that finds no result. -/
def State.noResult (s : State) : State := s.usbResp (if s.usb.stopped then .err else .nyet)

/-- A complete-split that matches no buffer or entry: counted, and without a handshake but while STOPPED, when every
complete-split that finds no result is answered ERR (R748). [log 99 DEDUCED] -/
def State.noMatch (s : State) : State := (s.vc 5).usbResp (if s.usb.stopped then .err else .none)

/-- COMPLETE_SPLIT. [log 99 DEDUCED] -/
def execCompleteSplit (control : Bool) (addr : BitVec 7) (ep : BitVec 4) (s : State) : Out :=
  .next (s.onTt fun s =>
    let u := s.usb
    if control then
      let is0 := u.np0.any fun b => b.is addr ep
      match (if is0 then u.np0 else u.np1.filter fun b => b.is addr ep) with
      | none => s.noMatch
      | some b =>
        match b.result with
        | none => s.noResult
        | some r => (s.modUsb fun u => if is0 then { u with np0 := none } else { u with np1 := none }).usbResp (.split r)
    else
      match u.per.find? fun e => e.is addr ep with
      | none => s.noMatch
      | some e =>
        if e.full then s.usbResp .err
        else match e.result with
          | none => s.noResult
          | some r => (s.modUsb fun u => { u with per := u.per.erase e }).usbResp (.split r))

/-- The transaction has still to run or to end on the downstream bus. -/
def PerEnt.runs (e : PerEnt) : Bool := !e.full && e.result.isNone

/-- The first unfinished transaction of a device and endpoint changes. -/
def endFirst (addr : BitVec 7) (ep : BitVec 4) (f : PerEnt → PerEnt) : List PerEnt → List PerEnt
  | [] => []
  | e :: r => if e.is addr ep && e.runs then f e :: r else e :: endFirst addr ep f r

/-- The transaction under way on the downstream bus: the periodic ones run in order of arrival (R748). [log 99 DEDUCED] -/
def Usb.perNow (u : Usb) : Option PerEnt := u.per.find? PerEnt.runs

/-- TT_TRANSACTION_END: of the periodic ones, the one that runs now (R748). [log 99 DEDUCED] -/
def execTtTransactionEnd (control : Bool) (addr : BitVec 7) (ep : BitVec 4) (r : TtResult) (s : State) : Out :=
  .next (s.onTt fun s => s.modUsb fun u =>
    if control then
      let put (b : NpBuf) : NpBuf := if b.is addr ep && b.result.isNone then { b with result := some r } else b
      if u.np0.any (fun b => b.is addr ep && b.result.isNone) then { u with np0 := u.np0.map put }
      else { u with np1 := u.np1.map put }
    else if u.perNow.any fun e => e.is addr ep then
      { u with per := endFirst addr ep (fun e => { e with result := some r }) u.per }
    else u)

/-- TT_PERIODIC_ABANDON. [log 99 DEDUCED] -/
def execTtPeriodicAbandon (addr : BitVec 7) (ep : BitVec 4) (s : State) : Out :=
  .next (s.onTt fun s =>
    if s.usb.per.any fun e => e.is addr ep && e.runs then
      (s.modUsb fun u => { u with per := endFirst addr ep (fun e => { e with full := true }) u.per }).vc 2
    else s)

/-! Port events (R744, R745, R747, R763, R764). -/

/-- Do `f` to a switched port, 2 to 4, while the hub runs, attached or not (R745, R747). -/
def State.onPort (s : State) (n : Fin 5) (f : State → State) : State :=
  if s.usbUp && decide (2 ≤ n.val) then f s else s

def execPortConnect (port : Fin 5) (speed : UsbSpeed) (s : State) : Out :=
  .next (s.onPort port fun s =>
    let p := s.usb.port port.val
    if p.st = .disconnected then
      s.modUsb fun u => ((u.setPort port.val { p with st := .disabled, speed := speed }).change port.val 0).hubWake
    else s)

def execPortDisconnect (port : Fin 5) (s : State) : Out :=
  .next (s.onPort port fun s =>
    let p := s.usb.port port.val
    if p.st.connected then
      s.modUsb fun u => ((u.setPort port.val { p with st := .disconnected }).change port.val 0).hubWake
    else s)

/-- PORT_RESET_END: the port is enabled at the speed found; on port 1 the function is reset and takes the link's speed. -/
def execPortResetEnd (port : Fin 5) (speed : UsbSpeed) (s : State) : Out :=
  .next (
    let p := s.usb.port port.val
    if s.usbUp && decide (1 ≤ port.val) && p.st == .resetting then
      let s := s.modUsb fun u =>
        let sp := if port.val = 1 then (if u.hs then .high else .full) else speed
        let u := if port.val = 1 then u.fnReset else u
        (u.setPort port.val { p with st := .enabled, speed := sp }).change port.val 4
      if port.val = 1 then s.fnGone else s
    else s)

/-- PORT_RESUME_END (R764): a suspend that waited for the last resume follows (Table 16-9). -/
def execPortResumeEnd (port : Fin 5) (s : State) : Out :=
  .next (
    let p := s.usb.port port.val
    if s.usbUp && decide (1 ≤ port.val) && p.st == .resuming then
      s.modUsb fun u =>
        let u := (u.setPort port.val { p with st := .enabled }).change port.val 2
        if u.suspDue && !u.portResumes then u.suspend else u
    else s)

/-- PORT_DEVICE_RESUME: a suspended port resumes; during an upstream suspend the K is repeated upstream (R763). -/
def execPortDeviceResume (port : Fin 5) (s : State) : Out :=
  .next (s.onPort port fun s =>
    let p := s.usb.port port.val
    let s := if p.st = .suspended then s.modUsb fun u => u.setPort port.val { p with st := .resuming } else s
    if s.usb.susp && p.st.connected then s.modUsb fun u => { u with kOut := true } else s)

/-- USB_OCNn is low, or high; ports 2 to 4 have the ball. -/
def Usb.ocPin (u : Usb) (n : Nat) (low : Bool) : Usb :=
  if n < 2 then u
  else { u with ocPins := if low then u.ocPins ||| BitVec.ofNat 5 (2 ^ n) else u.ocPins &&& ~~~(BitVec.ofNat 5 (2 ^ n)) }

/-- PORT_OVER_CURRENT: USB_OCNn low for the filter time (R745), or high again; the ball has its level whatever the block
does. -/
def execPortOverCurrent (port : Fin 5) (low : Bool) (s : State) : Out :=
  .next ((s.modUsb fun u => u.ocPin port.val low).onPort port fun s =>
    let p := s.usb.port port.val
    if low then
      (s.modUsb fun u => ((u.setPort port.val { p with st := .poweredOff, oc := true }).change port.val 3).hubWake).vc 9
    else s.modUsb fun u => u.setPort port.val { p with oc := false })

def execDownstreamBabble (port : Fin 5) (s : State) : Out :=
  .next (s.onPort port fun s =>
    let p := s.usb.port port.val
    if p.st = .enabled then
      (s.modUsb fun u => (u.setPort port.val { p with st := .disabled }).change port.val 1).vc 8
    else s)

/-! Modes and resets (R761, R775). -/

/-- Entry to SAFE HOLD or SERVICE: EP1 and EP2 empty, and EP1, EP2 and EP4 answer NAK. -/
def Usb.holdEps (u : Usb) : Usb :=
  let empty (p : Ep) : Ep := { p with st0 := false, st1 := false, sent := false, resend := false }
  let u := u.setEp 0 (empty (u.ep 0))
  { u.setEp 1 (empty (u.ep 1)) with served := false }

/-- A unit reset or gating: every register at its reset value; the descriptor store and what the balls carry stay. [log 75
DEDUCED] -/
def Usb.unitReset (u : Usb) : Usb :=
  { Usb.reset with vbus := u.vbus, ocPins := u.ocPins, idok := u.idok, vid := u.vid, hubPid := u.hubPid, fnPid := u.fnPid, bcdDev := u.bcdDev,
                   strings := u.strings, served := u.served }

/-! The registers. -/

/-- A write of USB_CTL but for WAKE. -/
def ctlWrite (v : Nat) (s : State) : State :=
  let svc := s.wrd.mode == .service
  s.modUsb fun u =>
    ({ u with testen := if svc then bitOf v 3 else u.testen, fsonly := bitOf v 1,
              atten := if bitOf v 0 then u.atten || u.idok else false } : Usb).pull s.pullOk

/-- A write of USB_CTL; whether the link has been idle long enough for WAKE is a matter of time, a free value. [log 100
DESIGN CHOICE] -/
def usbCtlWrite (v : Nat) (s : State) : State :=
  let s := ctlWrite v s
  if bitOf v 2 then (s.usbWake (s.freeVal.getLsbD 0)).freeNext else s

/-- A write of USB_EPGO_e (R756). -/
def epgoWrite (who : Tandem) (e v : Nat) (s : State) : State :=
  if (e = 2 ∨ e = 3) ∧ who ≠ .g then s
  else
    let b := bitOf v 16
    let n := fld v 0 7
    s.modUsb fun u =>
      let p := u.ep e
      let st := if b then p.st1 else p.st0
      if epIn e then
        if st || decide (64 < n) then u.event 9
        else
          let q := p.setSt b true
          u.setEp e (if b then { q with len1 := BitVec.ofNat 7 n } else { q with len0 := BitVec.ofNat 7 n })
      else if st then u.setEp e (p.setSt b false) else u.event 9

/-- USB_CTL as it reads. -/
def Usb.ctlWord (u : Usb) : Nat := pack [(3, b2n u.testen), (2, b2n u.wake), (1, b2n u.fsonly), (0, b2n u.atten)]

def usbWide (off : Nat) : Bool := 0x1000 ≤ off && off < 0x1280 && off % 8 == 0

def usbWrite (who : Tandem) (off v : Nat) (s : State) : State :=
  if off = 0x8 then usbCtlWrite v s
  else if off = 0x18 then s.modUsb fun u => { u with evt := u.evt &&& ~~~(BitVec.ofNat 10 v) }
  else if off = 0x1C then s.modUsb fun u => { u with ie := BitVec.ofNat 10 v }
  else if 0x100 ≤ off && off < 0x150 then
    let e := (off - 0x100) / 0x10
    if (e = 2 ∨ e = 3) ∧ who ≠ .g then s
    else if off % 0x10 = 0 then s.modUsb fun u => u.setEp e { u.ep e with ie := bitOf v 31, halt := bitOf v 30 }
    else if off % 0x10 = 4 then epgoWrite who e v s
    else s
  else if usbWide off then
    let e := (off - 0x1000) / 0x80
    if (e = 2 ∧ who ≠ .g) ∨ 3 ≤ e then s
    else
      let at_ := off % 0x40
      let put (t : Tbl Byte) : Tbl Byte := ((List.range 8).zip (bytesOf 8 v)).foldl (fun t p => tset 0 t (at_ + p.1) p.2) t
      s.modUsb fun u =>
        let p := u.ep e
        u.setEp e (if off % 0x80 < 0x40 then { p with buf0 := put p.buf0 } else { p with buf1 := put p.buf1 })
  else s

def Ep.card (p : Ep) : Nat :=
  pack [(31, b2n p.ie), (30, b2n p.halt), (29, b2n p.toggle), (28, b2n p.hwnext), (17, b2n p.st1), (16, b2n p.st0),
    (8, p.len1.toNat), (0, p.len0.toNat)]

def usbRead (off : Nat) (s : State) : Nat × State :=
  let u := s.usb
  if off = 0x0 then (0x4D550101, s)
  else if off = 0x8 then (u.ctlWord, s)
  else if off = 0x10 then
    (pack [(24, u.hubaddr.toNat), (16, u.fnaddr.toNat), (8, b2n u.fncfg), (7, b2n u.hubcfg), (6, b2n u.fnRwe), (5, b2n u.idok),
      (4, b2n u.susp), (2, if u.pullup then (if u.hs then 2 else 1) else 0), (1, b2n u.pullup), (0, b2n u.vbus)], s)
  else if off = 0x18 then (u.evt.toNat, s)
  else if off = 0x1C then (u.ie.toNat, s)
  else if off = 0x20 then (pack [(11, u.uframe.toNat), (0, u.frame.toNat)], s)
  else if off = 0x28 then (pack [(16, u.line), (0, u.noack)], s.modUsb fun u => { u with line := 0, noack := 0 })
  else if 0x40 ≤ off && off < 0x60 && off % 8 == 0 then
    let p := u.port ((off - 0x40) / 8 + 1)
    (pack [(16, p.change.toNat), (0, p.status)], s)
  else if off = 0x60 then (u.ttCard, s)
  else if 0x100 ≤ off && off < 0x150 then
    let e := (off - 0x100) / 0x10
    let p := u.ep e
    if off % 0x10 = 0 then (p.card, s)
    else if off % 0x10 = 8 then (pack [(16, p.dup), (0, p.nak)], s.modUsb fun u => u.setEp e { p with dup := 0, nak := 0 })
    else (0, s)
  else if usbWide off then
    let p := u.ep ((off - 0x1000) / 0x80)
    let b := if off % 0x80 < 0x40 then p.buf0 else p.buf1
    (ofBytes ((List.range 8).map fun i => tget 0 b (off % 0x40 + i)), s)
  else (0, s)

end Sys2Proof.Machine
end

