-- ==== Sys2Proof/Machine/Irt.lean ====
section
/-! DEFINITION. The interrupt router, the doorbells and the violation counters, block IRT (chapter 20). -/

namespace Sys2Proof.Machine

def State.modIrt (s : State) (f : Irt → Irt) : State := { s with irt := f s.irt }

/-! Sources (R896, Table 20-1). -/

/-- Sources 64 to 127 (R701). [log 112 DEDUCED] -/
def chanSource (c : Chan) (capture : Bool) : Bool :=
  if capture then (c.capf && c.ctl.getLsbD 10) || (c.capOvr && c.ctl.getLsbD 11)
  else (c.mtch && c.ctl.getLsbD 8) || ((c.unf || c.ovf) && c.ctl.getLsbD 9)

/-- Sources 144 to 146, and the banks' 128 to 143 (R706, R709, R720). [log 112 DEDUCED] -/
def pioSource (p : Pio) (i : Nat) : Bool :=
  if i < 16 then tget 0 p.evt i &&& tget 0 p.ie i != 0
  else if i = 16 then !p.fifo.isEmpty && p.scfg.getLsbD 62
  else if i = 17 then p.wetcnt != 0
  else if i = 18 then p.lost != 0
  else false

/-- Sources 160 to 167 (Table 16-11). [log 112 DEDUCED] -/
def usbSource (u : Usb) (i : Nat) : Bool :=
  let ev := u.evt &&& u.ie
  let anyEmpty (e : Nat) : Bool := (u.ep e).ie && (!(u.ep e).st0 || !(u.ep e).st1)
  let anyFull (e : Nat) : Bool := (u.ep e).ie && ((u.ep e).st0 || (u.ep e).st1)
  match i with
  | 0 => ev &&& 0x27F != 0
  | 1 => anyEmpty 0 | 2 => anyEmpty 1 | 3 => anyEmpty 2
  | 4 => anyFull 3 | 5 => anyFull 4
  | 6 => ev.getLsbD 7 | 7 => ev.getLsbD 8
  | _ => false

/-- The six sources of a CAN controller (Table 17-11). [log 112 DEDUCED] -/
def canSource (k : Can) (i : Nat) : Bool :=
  let ev (n : Nat) : Bool := k.evt.getLsbD n && k.ie.getLsbD n
  match i with
  | 0 => !k.fifo.isEmpty && k.rxie
  | 1 => (List.range 32).any fun m => k.mbie.getLsbD m && decide (4 ≤ (k.getMb m).st.code)
  | 2 => ev 0 || ev 5
  | 3 => ev 1
  | 4 => ev 2 || ev 3
  | 5 => ev 4 || ev 6
  | _ => false

/-- The condition of source `k` (Table 20-1). The UARTs' requests, sources 208 to 215, have no condition in the spec; they
are taken as the router last saw them. [log 78 DEDUCED, 111 DESIGN CHOICE, 112 DEDUCED] -/
def State.srcCond (s : State) (k : Nat) : Bool :=
  if k < 5 then
    match k with
    | 0 => s.wrd.det != 0 | 1 => s.irt.wevtMode | 2 => s.irt.wevtSafe | 3 => s.irt.wevtEstop | _ => s.wrd.fail
  else if k = 16 then !s.clk.rootgood || !s.clk.plllock
  else if k = 17 then s.clk.badkey != 0
  else if k = 18 then s.clk.drainfail
  else if k = 32 then s.spk.opA.hw
  else if k = 33 then s.spk.opB.hw
  else if k = 34 then s.spk.opG.hw
  else if k = 35 then !s.spk.holdok && s.spk.vinok
  else if k = 40 then s.irt.gevtEval
  else if k = 41 then s.irt.gevtRetire
  else if k = 42 then s.irt.gevtLife
  else if k = 43 then s.irt.gevtScrub
  else if k = 48 then s.irt.eccCorr != 0
  else if k = 49 then s.irt.eccUnc != 0
  else if 64 ≤ k ∧ k < 128 then chanSource (tget .reset s.cta ((k - 64) / 2)) (k % 2 == 1)
  else if 128 ≤ k ∧ k < 160 then pioSource s.pio (k - 128)
  else if 160 ≤ k ∧ k < 184 then usbSource s.usb (k - 160)
  else if 184 ≤ k ∧ k < 192 then canSource s.canA (k - 184)
  else if 192 ≤ k ∧ k < 200 then canSource s.canB (k - 192)
  else if 200 ≤ k ∧ k < 203 then (s.nfc.evt &&& s.nfc.ie).getLsbD (k - 200)
  else if 208 ≤ k ∧ k < 216 then tget false s.irt.seen k
  else if 224 ≤ k ∧ k < 240 then s.irt.db.getLsbD (k - 224)
  else if 240 ≤ k ∧ k < 256 then s.irt.sw.getLsbD (k - 240)
  else false

/-! Routing, presentation and wakes (R898, R899, R902). -/

def State.routeOf (s : State) (k : Nat) : BitVec 32 := tget 0 s.irt.route k

/-- A route names a tandem in TGT. -/
def routeNames (r : BitVec 32) (t : Tandem) : Bool := r.getLsbD (16 + t.idx)

/-- Source `k` is pending for tandem `t` at the router. [log 112 DEDUCED] -/
def State.isPending (s : State) (t : Tandem) (k : Nat) : Bool :=
  let r := s.routeOf k
  tget false s.irt.seen k && r.getLsbD 31 && routeNames r t

/-- The context that source `k` wakes on tandem `t`. -/
def State.boundTo (s : State) (t : Tandem) (k : Nat) : Option (Fin 64) :=
  match t.side with
  | some m => (s.sch m).bound k
  | none => none

/-- The source that the router presents to a tandem, and its level: the highest LEVEL above 0 of those pending and not bound,
the lowest number among equals (R899). [log 112 DEDUCED] -/
def State.presented (s : State) (t : Tandem) : Option (Nat × Nat) :=
  (s.irt.seen.filterMap fun (p : Nat × Bool) =>
    let level := fld (s.routeOf p.1).toNat 0 4
    if s.isPending t p.1 && level != 0 && (s.boundTo t p.1).isNone then some (p.1, level) else none).foldl
    (fun (b : Option (Nat × Nat)) p =>
      match b with
      | none => some p
      | some q => if q.2 < p.2 then some p else some q) none

def Irt.woken (i : Irt) : Side → Tbl Bool
  | .a => i.wokenA | .b => i.wokenB

def Irt.setWoken (i : Irt) (m : Side) (t : Tbl Bool) : Irt :=
  match m with
  | .a => { i with wokenA := t } | .b => { i with wokenB := t }

/-- The wake latches of the sources that are no longer pending clear (R902). [log 111 DESIGN CHOICE] -/
def State.unlatch (s : State) : State :=
  let f (m : Side) : Tbl Bool := (s.irt.woken m).filter fun (p : Nat × Bool) => s.isPending m.tandem p.1
  s.modIrt fun i => { i with wokenA := f .a, wokenB := f .b }

/-- SOURCE_PENDING (R899): the router sees source `k` as its condition stands. A UART's request is a free value (R887). [log
111 DESIGN CHOICE] -/
def execSourcePending (k : Fin 256) (s : State) : Out :=
  .next <| s.rooted fun s =>
    if 208 ≤ k.val ∧ k.val < 216 then
      ((s.modIrt fun i => { i with seen := tset false i.seen k.val (s.freeVal.getLsbD 0) }).freeNext).unlatch
    else (s.modIrt fun i => { i with seen := tset false i.seen k.val (s.srcCond k.val) }).unlatch

/-- SOURCE_WAKE (R902). -/
def execSourceWake (m : Side) (k : Fin 256) (s : State) : Out :=
  .next <| s.rooted fun s =>
    match s.boundTo m.tandem k.val with
    | none => s
    | some ctx =>
      if s.isPending m.tandem k.val && !tget false (s.irt.woken m) k.val then
        (s.modIrt fun i => i.setWoken m (tset false (i.woken m) k.val true)).wake m ctx
      else s

/-- IRT_ROUTE_WRITE (R901). -/
def State.routeWrite (s : State) (who : Tandem) (k : Nat) (v : BitVec 32) : State :=
  let denied := !who.isG && (routeNames (s.routeOf k) .g || routeNames v .g || (decide (208 ≤ k) && decide (k < 216)))
  if denied then s.modIrt fun i => { i with denied := satAdd 0xFFFF i.denied 1 }
  else (s.modIrt fun i => { i with route := tset 0 i.route k (v &&& 0x8007000F) }).unlatch

/-! Doorbells, software sources and counters (R903, R906). -/

/-- Set doorbells, recording the setter. -/
def State.dbSet (s : State) (who : Tandem) (v : Nat) : State :=
  s.modIrt fun i =>
    { i with db := i.db ||| BitVec.ofNat 16 v,
             dbring := BitVec.ofNat 32 (pack ((List.range 16).map fun j =>
               (2 * j, if bitOf v j then who.idx else fld i.dbring.toNat (2 * j) 2))) }

/-- IRT_VCCLR. -/
def State.vcClr (s : State) (v : Nat) : State :=
  if fld v 16 16 ≠ 0x5C1A then s.modIrt fun i => { i with denied := satAdd 0xFFFF i.denied 1 }
  else s.modIrt fun i => { i with vc := if bitOf v 8 then [] else tset 0 i.vc (fld v 0 6) 0 }

/-- The 64-bit registers of the block: the pending words, the woken words and IRT_ECC's cards (chapter 20). -/
def irtWide (off : Nat) : Bool := (((0x100 ≤ off && off < 0x120) || (0x140 ≤ off && off < 0x180)) && off % 8 == 0) || off == 0x200

/-- 64 sources as a word, from source 64 j. -/
def srcWord (f : Nat → Bool) (j : Nat) : Nat := pack ((List.range 64).map fun i => (i, b2n (f (64 * j + i))))

/-- A read of an IRT register. [log 78 DEDUCED, 112 DEDUCED] -/
def irtRead (off : Nat) (s : State) : Nat × State :=
  let i := s.irt
  if off = 0x0 then (0x4D550101, s)
  else if off = 0x8 then (pack [(2, b2n i.wevtEstop), (1, b2n i.wevtSafe), (0, b2n i.wevtMode)], s)
  else if off = 0xC then
    (pack [(3, b2n i.gevtScrub), (2, b2n i.gevtLife), (1, b2n i.gevtRetire), (0, b2n i.gevtEval)], s)
  else if off = 0x10 then (pack [(8, i.eccUnc.toNat), (0, i.eccCorr.toNat)], s)
  else if off = 0x20 ∨ off = 0x24 then (i.db.toNat, s)
  else if off = 0x28 then (i.dbring.toNat, s)
  else if off = 0x30 ∨ off = 0x34 then (i.sw.toNat, s)
  else if off = 0x38 then (i.denied, s.modIrt fun i => { i with denied := 0 })
  else if 0x100 ≤ off && off < 0x120 && off % 8 == 0 then (srcWord s.srcCond ((off - 0x100) / 8), s)
  else if 0x140 ≤ off && off < 0x160 && off % 8 == 0 then (srcWord (tget false i.wokenA) ((off - 0x140) / 8), s)
  else if 0x160 ≤ off && off < 0x180 && off % 8 == 0 then (srcWord (tget false i.wokenB) ((off - 0x160) / 8), s)
  else if off = 0x200 then (srcWord (fun k => tget 0 i.vc k == 0xFFFFFFFF) 0, s)
  else if 0x1000 ≤ off && off < 0x1400 && off % 4 == 0 then ((s.routeOf ((off - 0x1000) / 4)).toNat, s)
  else if 0x2000 ≤ off && off < 0x2100 && off % 4 == 0 then (tget 0 i.vc ((off - 0x2000) / 4), s)
  else (0, s)

def irtWrite (who : Tandem) (off v : Nat) (s : State) : State :=
  if off = 0x8 then
    s.modIrt fun i => { i with wevtEstop := i.wevtEstop && !bitOf v 2, wevtSafe := i.wevtSafe && !bitOf v 1,
                               wevtMode := i.wevtMode && !bitOf v 0 }
  else if off = 0xC then
    s.modIrt fun i => { i with gevtScrub := i.gevtScrub && !bitOf v 3, gevtLife := i.gevtLife && !bitOf v 2,
                               gevtRetire := i.gevtRetire && !bitOf v 1, gevtEval := i.gevtEval && !bitOf v 0 }
  else if off = 0x10 then
    s.modIrt fun i => { i with eccUnc := i.eccUnc &&& ~~~(BitVec.ofNat 8 (v / 256)),
                               eccCorr := i.eccCorr &&& ~~~(BitVec.ofNat 8 v) }
  else if off = 0x20 then s.dbSet who v
  else if off = 0x24 then s.modIrt fun i => { i with db := i.db &&& ~~~(BitVec.ofNat 16 v) }
  else if off = 0x30 then s.modIrt fun i => { i with sw := i.sw ||| BitVec.ofNat 16 v }
  else if off = 0x34 then s.modIrt fun i => { i with sw := i.sw &&& ~~~(BitVec.ofNat 16 v) }
  else if off = 0x208 then s.vcClr v
  else if 0x1000 ≤ off && off < 0x1400 && off % 4 == 0 then s.routeWrite who ((off - 0x1000) / 4) (BitVec.ofNat 32 v)
  else s

/-! Resets and release (R913). -/

/-- A warm reset: every register but the violation counters. -/
def Irt.warmReset (i : Irt) : Irt := { Irt.reset with vc := i.vc }

/-- At release no route names tandem A or B (R139, R913). The routes that tandem G sets before release are 0, 1 and 208 to
215, at levels the spec does not give (Table 2-4, R887, R913). [log 111 DESIGN CHOICE] -/
def State.irtRelease (s : State) : State :=
  let put (t : Tbl (BitVec 32)) (k : Nat) : Tbl (BitVec 32) :=
    tset 0 t k (0x80040000#32 ||| BitVec.ofNat 32 (wf s.freeVal (4 * (if k < 2 then k + 8 else k % 8)) 4))
  let main : BitVec 32 := 0x30000#32
  let kept (t : Tbl (BitVec 32)) : Tbl (BitVec 32) :=
    (t.map fun (p : Nat × BitVec 32) => (p.1, p.2 &&& ~~~main)).filter fun p => p.2 != 0
  (s.modIrt fun i => { i with route := [0, 1, 208, 209, 210, 211, 212, 213, 214, 215].foldl put (kept i.route) }).freeNext

end Sys2Proof.Machine
end

