-- ==== Sys2Proof/Machine/Groomer.lean ====
section
/-! DEFINITION. The groomer: frames, scrubs, the life model and the block GRM (chapter 14). -/

namespace Sys2Proof.Machine

def State.modGrm (s : State) (f : Grm → Grm) : State := { s with grm := f s.grm }

/-- Change the working metadata. -/
def State.modMeta (s : State) (f : GrmMeta → GrmMeta) : State := s.modGrm fun g => { g with cur := f g.cur }

/-! Frames (R653 to R659). -/

/-- Visible frames, and physical frames of the visible part and the spare pool (Table 13-1, R653). -/
def visFrames : Nat := 16384
def poolEnd : Nat := 17904

/-- The physical frame that holds a visible frame. -/
def GrmMeta.phys (g : GrmMeta) (f : Nat) : Nat := (tget none g.map f).getD f

/-- A physical frame holds a visible frame. -/
def GrmMeta.inUse (g : GrmMeta) (p : Nat) : Bool :=
  g.map.any (fun e => e.2 == some p) || (decide (p < visFrames) && (tget none g.map p).isNone)

/-- W_f of a physical frame (R654). -/
def GrmMeta.w (g : GrmMeta) (p : Nat) : Nat := tget 0 g.wf p

/-- The target of a move under way has left the pool. -/
def Grm.isTarget (g : Grm) (p : Nat) : Bool := g.moving.any fun m => m.2 == p

/-- Free spares: the spare frames, and the frames that a move emptied, that neither hold a frame nor are retired. [log 78
DEDUCED, 84 DEDUCED] -/
def Grm.freeSpares (g : Grm) : List Nat :=
  ((g.cur.map.map (·.1)).filter (· < visFrames) ++ (List.range (poolEnd - visFrames)).map (· + visFrames)).filter fun p =>
    !g.cur.inUse p && !g.cur.retired.contains p && !g.isTarget p

/-- GRM_SPARE.FREE: as many physical frames are in use as there are visible frames. -/
def Grm.freeCount (g : Grm) : Nat := poolEnd - visFrames - g.cur.retired.length - b2n g.moving.isSome

/-- The frame of least W_f among some, the lowest number among equals. [log 84 DEDUCED] -/
def leastWorn (w : Nat → Nat) : List Nat → Option Nat
  | [] => none
  | p :: r =>
    match leastWorn w r with
    | none => some p
    | some q => if w q < w p then some q else some p

/-- The frame of most W_f among some, the lowest number among equals. [log 84 DEDUCED] -/
def mostWorn (w : Nat → Nat) : List Nat → Option Nat
  | [] => none
  | p :: r =>
    match mostWorn w r with
    | none => some p
    | some q => if w p < w q then some q else some p

/-- The worn physical frames that are in use. -/
def GrmMeta.wornInUse (g : GrmMeta) : List (Nat × Nat) := g.wf.filter fun e => g.inUse e.1

/-- The largest and the least W_f of the in-use frames: an unlisted count is 0. -/
def GrmMeta.maxInUse (g : GrmMeta) : Nat := g.wornInUse.foldl (fun m e => max m e.2) 0
def GrmMeta.minInUse (g : GrmMeta) : Nat :=
  match g.wornInUse with
  | [] => 0
  | e :: r => if (e :: r).length < visFrames then 0 else r.foldl (fun m f => min m f.2) e.2

/-- Count `n` macro writes to a physical frame; W_f saturates (R654, R675). -/
def GrmMeta.wear (g : GrmMeta) (p n : Nat) : GrmMeta := { g with wf := tmod 0 g.wf p fun x => satAdd (2 ^ 48 - 1) x n }

/-- The 16 frames of the two metadata copies (R653). -/
def metaFrames : List Nat := (List.range 16).map (· + poolEnd)

/-- Both metadata copies take the working values, and their 16 frames count the writes of whole frames (R654, R655). [log 85
DEDUCED] -/
def Grm.save (g : Grm) : Grm :=
  let c := metaFrames.foldl (fun c p => c.wear p 512) g.cur
  { g with cur := c, saved := c }

/-- `n` array writes to a visible frame: counted there, and at the target too while the frame moves (R657). -/
def State.wearFrame (s : State) (f n : Nat) : State :=
  let s := s.modMeta fun g => g.wear (g.phys f) n
  match s.grm.moving with
  | some (v, p) => if v = f then s.modMeta fun g => g.wear p n else s
  | none => s

def State.raiseRetire (s : State) : State := { s with irt := { s.irt with gevtRetire := true } }
def State.raiseLifelow (s : State) : State := { s with irt := { s.irt with gevtLife := true } }

/-- LIFELOW when the free spares have fallen below 152 (R672). -/
def State.poolLow (s : State) : State := if s.grm.freeCount < 152 then s.raiseLifelow else s

/-- A physical frame is retired, with its source (R655, R659). [log 84 DEDUCED] -/
def State.retirePhys (s : State) (p : Nat) : State :=
  ((s.modGrm fun g => Grm.save { g with cur := { g.cur with retired := g.cur.retired ++ [p] } }).raiseRetire).poolLow

/-- The move under way is given up: its target returns to the pool, and counts what the copy had written there, a free number of
words (R654, Table 14-8). [log 73 DEDUCED, 84 DEDUCED] -/
def State.dropMove (s : State) : State :=
  match s.grm.moving with
  | none => s
  | some (_, p) =>
    ((s.modMeta fun g => g.wear p (s.freeVal.toNat % 513)).modGrm fun g => { g with moving := none }).freeNext

/-- Spares that fail verify three times at the word named while a frame is copied into them are retired in turn (R658). [log
84 DEDUCED] -/
def State.failSpares (s : State) : List (Fin 512) → State
  | [] => s
  | n :: r =>
    match leastWorn s.grm.cur.w s.grm.freeSpares with
    | none => s
    | some p => ((s.modMeta fun g => g.wear p (n.val + 3)).retirePhys p).failSpares r

/-- Retire the physical frame of visible frame `f` after a write failed verify three times (Table 14-1): its words move to the
least-worn free spare, past the spares that fail on the way; a move of the frame is replaced (Table 14-8). The answer says
whether a spare was free (R672). [log 84 DEDUCED] -/
def State.retireFrame (s : State) (f : Nat) (spares : List (Fin 512)) : Bool × State :=
  let s := if s.grm.moving.any (fun m => m.1 == f) then s.dropMove else s
  let s := s.failSpares spares
  let g := s.grm
  match leastWorn g.cur.w g.freeSpares with
  | none => (false, (s.modGrm fun g => { g with nospare := true }).raiseLifelow)
  | some p =>
    let old := g.cur.phys f
    let s := s.modGrm fun g =>
      { g with cur := { (g.cur.wear p 512) with map := tset none g.cur.map f (if p = f then none else some p) } }
    (true, s.retirePhys old)

/-- A log block is retired (R659): at most 64. -/
def State.retireLog (s : State) : State :=
  if s.grm.cur.logret < 64 then
    ((s.modMeta fun g => { g with logret := g.logret + 1 }).modGrm Grm.save).raiseRetire
  else s

/-- Macro writes are inhibited 120 µs after the trip of VIN_SENSE, RUN-OUT having written its record (Table 13-6). -/
def State.inhibit (s : State) : Bool := s.wrd.mode == .runOut && s.spk.runoutRec && decide (s.spk.tripUs + 120 ≤ s.us)

/-- The groomer runs: it has read its metadata at the end of fuse load (R679), and its clock runs. -/
def State.groomerOn (s : State) : Bool := s.gate.pgood && decide (3 ≤ s.gate.step.val) && s.clk.crystal

/-- The groomer may write the macro. -/
def State.groomerWrites (s : State) : Bool := s.groomerOn && !s.inhibit

/-- GROOMER_METADATA_SAVE (R655). [log 85 DEDUCED] -/
def execGroomerMetadataSave (s : State) : Out := .next (if s.groomerWrites then s.modGrm Grm.save else s)

/-- FRAME_MOVE_START (R656): one move at a time, to the least-worn (hot) or the most-worn (cold) free spare. [log 84 DEDUCED] -/
def execFrameMoveStart (hot : Bool) (frame : Fin 16384) (s : State) : Out :=
  let g := s.grm
  let w := g.cur.w (g.cur.phys frame.val)
  let target := if hot then leastWorn g.cur.w g.freeSpares else mostWorn g.cur.w g.freeSpares
  .next <| if !s.groomerWrites || g.maplost then s else match target, g.moving with
    | some p, none =>
      let due := if hot then decide (g.cur.w p + 2 ^ 26 < w) else decide (w + 2 ^ 28 < g.cur.w p) && decide (w = g.cur.minInUse)
      if due then (s.modGrm fun g => { g with moving := some (frame.val, p) }).poolLow else s
    | _, _ => s

/-- FRAME_MOVE_END (R657): the map takes the new frame. A verify failure in the target retires it, and the move restarts with
the next least-worn spare (Table 14-8). -/
def execFrameMoveEnd (copy : MoveCopy) (s : State) : Out :=
  .next <| if !s.groomerWrites then s else match s.grm.moving with
    | none => s
    | some (f, p) =>
      match copy.fails with
      | some n =>
        let s := s.modGrm fun g => { g with moving := none, cur := g.cur.wear p (n.val + 3 + copy.repeats) }
        ((s.retirePhys p).modGrm fun g => { g with moving := (leastWorn g.cur.w g.freeSpares).map fun q => (f, q) }).poolLow
      | none =>
        s.modGrm fun g => Grm.save
          { g with moving := none, cur := { (g.cur.wear p (512 + copy.repeats)) with
                                              map := tset none g.cur.map f (if p = f then none else some p) } }

def State.modSpk (s : State) (f : Spk → Spk) : State := { s with spk := f s.spk }

/-- An uncorrectable word of the store: counted and reported (R640, R641). -/
def State.spkUnc (s : State) (w : Nat) : State :=
  ((s.modSpk fun k => { k with unc := satAdd 0xFF k.unc 1, eccLast := BitVec.ofNat 40 (spkBase + 8 * w) }).eccUnc 7).detect 4 7

/-- Write a word of the array with its verify (R658, R672): a write whose verify fails is made up to three times, and the POISON
that a frame without a spare takes is a write too (R654). [log 84 DEDUCED] -/
def State.arrayWrite (s : State) (w : Nat) (v : TWord) (verify : Verify) : State :=
  let put (v : TWord) (s : State) : State :=
    ((s.clearSite (.word (spkBase / 8 + w))).clearSite (.away (spkBase / 8 + w))).modSpk fun k =>
      { k with array := tset .unwritten k.array w v }
  match verify with
  | .good n => put v (s.wearFrame (w / 512) (1 + n.val))
  | .failed spares =>
    let r := (s.wearFrame (w / 512) 3).retireFrame (w / 512) spares
    if r.1 then put v r.2 else put .poison ((r.2.spkUnc w).wearFrame (w / 512) 1)

/-- Write a word of the array back with the value it has: a correction or a refresh. [log 84 DEDUCED] -/
def State.rewriteWord (s : State) (w : Nat) (verify : Verify) : State :=
  s.arrayWrite w (tget .unwritten s.spk.array w) verify

/-! Scrubs (R660 to R662, R570, R640, R584, R588). -/

/-- The memory with scrub passes that holds a physical address (Table 14-2). -/
def State.memOf (s : State) (a : Nat) : Option ScrubMem :=
  match s.region .g a with
  | some .tcm => some .tcm
  | some .sram => some .sram
  | some .spenik => some .spenik
  | some .dram => some (.dram (s.dramChan (a - dramBase)))
  | _ => none

/-- A pass of the memory reads the site. -/
def State.scrubs (s : State) (m : ScrubMem) : Site → Bool
  | .word w | .away w => s.memOf (8 * w) == some m
  | .l2 _ => m == .l2
  | .l1d n w => m == .l1 n && (s.cpu n.tandem).front.hasD (w / 4)
  | .l1i n w => m == .l1 n && ((s.cpu n.tandem).front.codeLine (w / 4)).isSome
  | .tlb n _ => m == .tlb n
  | .itlb n e => m == .tlb n && (s.cpu n.tandem).itlb.contains e
  | .dtlb n e => m == .tlb n && (s.cpu n.tandem).dtlb.contains e
  | .metadata _ _ => m == .spenik
  | _ => false

/-- A pass of the memory is under way: the groomer's passes, and the patrol's. -/
def State.scrubbing (s : State) : ScrubMem → Bool
  | .sram => s.grm.scrubSram | .dram .a => s.grm.scrubA | .dram .b => s.grm.scrubB | .spenik => s.grm.scrubSpk
  | m => s.wrd.patrolScrub.contains m

def State.setScrubbing (s : State) (m : ScrubMem) (b : Bool) : State :=
  match m with
  | .sram => s.modGrm fun g => { g with scrubSram := b }
  | .dram .a => s.modGrm fun g => { g with scrubA := b }
  | .dram .b => s.modGrm fun g => { g with scrubB := b }
  | .spenik => s.modGrm fun g => { g with scrubSpk := b }
  | m =>
    let rest := s.wrd.patrolScrub.filter fun x => x != m
    { s with wrd := { s.wrd with patrolScrub := if b then m :: rest else rest } }

/-- The entry of a TLB whose error a scrub finds: V = 0 with valid check bits (R534). -/
def State.scrubKill (s : State) : Site → State
  | .tlb m i => s.modCpu m.tandem fun c => { c with tlb := tmod none c.tlb i fun e => e.map TlbEnt.kill }
  | .itlb m e => s.modCpu m.tandem fun c => { c with itlb := c.itlb.filter fun x => x != e }
  | .dtlb m e => s.modCpu m.tandem fun c => { c with dtlb := c.dtlb.filter fun x => x != e }
  | _ => s

/-- One error that a scrub finds: counted, and corrected unless the word has been written since it was read (R584); an
uncorrectable one is reported, as ECCU by a scrub of the Spenik store, the TCM or a TLB (R534, R640, Table 2-3) and as MCHK
by one of the other memories (R588). A TLB entry written since stays as written (Table 11-4). [log 88 DEDUCED] -/
def State.scrubSite (s : State) (x : Site) (bits : Nat) (late : Bool) (verify : Verify) : State :=
  let unc := decide (x.limit < bits)
  let g := s.siteGroup x
  let s := s.hw (s.countSite x bits unc)
  if unc then
    match x with
    | .tlb _ _ | .itlb _ _ | .dtlb _ _ => (if late then s else (s.clearSite x).scrubKill x).detect 4 g
    | _ => if g = 1 ∨ g = 7 then s.detect 4 g else s.mchk g
  else if late || (g == 7 && s.inhibit) then s
  else
    match x with
    | .word w => if g = 7 then s.rewriteWord (w - spkBase / 8) verify else s.clearSite x
    | _ => s.clearSite x

/-- An error of the pass's own choosing: an address that is unpopulated is reported (R40), one of another memory is not of this
pass. [log 88 DEDUCED] -/
def State.scrubHit (s : State) (m : ScrubMem) (h : ScrubHit) : State :=
  let go (x : Site) : State := s.scrubSite x h.bits.val h.late h.verify
  match h.place with
  | .metadata c w => if m = .spenik then go (.metadata c w.val) else s
  | .addr a =>
  let a := a.toNat
  match m with
  | .l2 => if (s.l2Line (a / 64)).isSome then go (.l2 (a / 8)) else s
  | .l1 n =>
    let f := (s.cpu n.tandem).front
    if f.hasD (a / 32) then go (.l1d n (a / 8)) else if (f.codeLine (a / 32)).isSome then go (.l1i n (a / 8)) else s
  | .tlb n => go (.tlb n (a / 8 % 128))
  | m => if (s.region .g a).isNone then s.mchk 0x16 else if s.memOf a = some m then go (.word (a / 8)) else s

/-- The words that a pass reads and that the machine lists. -/
def State.scrubWords (s : State) (m : ScrubMem) : List TWord :=
  match m with
  | .l2 => (s.l2Lines.flatMap fun e => lineWords e.line).map s.memWord
  | .l1 n =>
    let f := (s.cpu n.tandem).front
    (((f.l1d.flatMap fun p => p.2).flatMap halfWords).map s.memWord) ++ (f.l1i.flatMap fun p => p.2).flatMap CodeLine.words
  | .tlb _ => []
  | .spenik => s.spk.array.map fun p => p.2
  | m => (s.mem.filter fun p => s.memOf (8 * p.1) == some m).map fun p => s.memWord p.1

/-- A word with a reserved tag (R214). -/
def TWord.isReserved (v : TWord) : Bool := match v.tag with | .reserved _ => true | _ => false

/-- The scrubber of a memory runs: the groomer from the first release since power-good on (R42, R679), the patrol while it
sweeps (R86, R106). [log 88 DEDUCED] -/
def State.scrubOn (s : State) (m : ScrubMem) : Bool :=
  if m.patrols then s.gate.pgood && s.wrd.patrol && !s.wrd.pause && s.clk.crystal else s.groomerOn && s.gate.relMode != .gatehouse

/-- SCRUB_PASS_START (R660): a DRAM channel that is not installed is unpopulated space (R40). [log 88 DEDUCED] -/
def execScrubPassStart (mem : ScrubMem) (s : State) : Out :=
  .next <|
    if !s.scrubOn mem || (mem == .spenik && s.grm.maplost) then s
    else if (mem == .dram .a && s.drc.a.size == 0) || (mem == .dram .b && s.drc.b.size == 0) then s.mchk 0x16
    else s.setScrubbing mem true

/-- SCRUB_PASS_LATE (R661): a pass of the groomer. -/
def execScrubPassLate (mem : ScrubMem) (s : State) : Out :=
  .next <|
    if s.scrubOn mem && s.scrubbing mem && !mem.patrols then
      let s := match mem with
        | .sram => s.modGrm fun g => { g with sramLate := true }
        | .spenik => s.modGrm fun g => { g with spkLate := true }
        | _ => { s with drc := { s.drc with late := true } }
      ({ s with irt := { s.irt with gevtScrub := true } }).mchk 0x15
    else s

/-- The refresh of one frame: its words are rewritten in place but for those that an apply meets; a word that fails verify
has the frame retired, whose copy then writes the rest (Tables 14-1 and 14-8). [log 88 DEDUCED] -/
def State.refreshOne (s : State) (f : WeakFrame) : State :=
  let upTo : Nat := match f.fails with
    | none => 512
    | some p => p.1.val
  let s := s.wearFrame f.frame.val ((List.finRange 512).filter fun i => decide (i.val < upTo) && !f.applied.contains i).length
  match f.fails with
  | none => s
  | some (n, spares) => s.rewriteWord (512 * f.frame.val + n.val) (.failed spares)

/-- The refreshes of a Spenik pass (R662). -/
def State.refresh (s : State) (weakFrames : List WeakFrame) : State :=
  if s.inhibit then s
  else
    weakFrames.foldl State.refreshOne
      (s.modMeta fun g => { g with refreshed := satAdd 0xFFFF g.refreshed weakFrames.length })

/-- The pass's transfer across the fabric: an uncorrectable error goes to the warden alone (R41, R588). [log 127 DESIGN
CHOICE] -/
def State.passTransfer (s : State) (m : ScrubMem) : State :=
  let x := s.transfer (.transfer (if m.patrols then .patrol else .groomer)) (if m = .spenik then 2 else 1)
  let r := s.hw x.1
  if x.2 then r.mchk 4 else r

/-- SCRUB_PASS_END: every word has been read: the errors it holds, those that `found` adds and the reserved tags (R259), the
pass count and, for the Spenik store, the margin and the refreshes (R662). [log 88 DEDUCED] -/
def execScrubPassEnd (mem : ScrubMem) (found : List ScrubHit) (weakWords : Nat) (weakFrames : List WeakFrame) (s : State) :
    Out :=
  .next <|
    if s.scrubOn mem && s.scrubbing mem then
      let held := s.upset.filter fun u => s.scrubs mem u.site
      let bad := (s.scrubWords mem).filter TWord.isReserved
      let s := s.passTransfer mem
      let s := held.foldl (fun s u => s.scrubSite u.site u.bits false (.good 0)) s
      let s := found.foldl (fun s h => s.scrubHit mem h) s
      let s := bad.foldl (fun s _ => s.mchk 0x12) s
      let s := s.setScrubbing mem false
      match mem with
      | .sram => s.modGrm fun g => { g with sramPass := g.sramPass + 1 }
      | .dram _ => { s with drc := { s.drc with passes := s.drc.passes + 1 } }
      | .spenik =>
        ((s.modGrm fun g => { g with spkPass := g.spkPass + 1 }).modMeta fun g => { g with weak := weakWords }).refresh weakFrames
      | _ => s
    else s

/-! The life model (R663 to R670). -/

/-- The profile that the model uses, with u, c and BADCUST (R664, R665). -/
def State.lifeProfile (s : State) : Fin 4 × Nat × Nat × Bool :=
  match s.gate.profile with
  | 0 => (0, 5000, 60, false)
  | 1 => (1, 7000, 40, false)
  | 2 => (2, 9500, 20, false)
  | 3 =>
    let r := (tget 0 s.gate.shadow 11).toNat
    let u := fld r 0 16
    let c := fld r 16 16
    if 1 ≤ u ∧ u ≤ 10000 ∧ 1 ≤ c ∧ c ≤ 1000 ∧ fld r 32 32 = 0 ∧ tget 0 s.gate.shadow 12 = 0 then (3, u, c, false)
    else (2, 9500, 20, true)

/-- floor(H / (24u)), with H = POWMIN / 60 and u in units of 1/10,000. -/
def lifeHu (powmin u : Nat) : Nat := powmin * 10000 / (1440 * u)

/-- A mechanism's result from x = `num`/`den` and D = `dn`/`dd` (R667, R668). [log 86 DESIGN CHOICE] -/
def lifeRow (num den dn dd klo khi : Nat) : LifeRes :=
  let x := min 16383 (num * 16384 / den)
  if num = 0 then { st := 0, x := 0, d := 65535, lo := 65535, hi := 65535 }
  else if den ≤ num then { st := 0, x := x, d := 0, lo := 0, hi := 0 }
  else
    let d := dn / dd
    { st := 0, x := x, d := min 65535 d, lo := min 65535 (d * klo / 100), hi := min 65535 (d * khi / 100) }

/-- H below 1,000 h (R668). [log 86 DESIGN CHOICE] -/
def lifeInsuff (powmin u : Nat) (r : LifeRes) : LifeRes :=
  if powmin < 60000 then
    let d := 7305 - lifeHu powmin u
    { r with st := 1, d := d, lo := d, hi := d }
  else r

/-- A mechanism that takes no part: its status; the spec states no figures for it. [log 86 DESIGN CHOICE] -/
def lifeOut (st : Fin 4) (free : W64) : LifeRes :=
  { st := st, x := wf free 48 14, d := wf free 0 16, lo := wf free 16 16, hi := wf free 32 16 }

/-- The largest reading of the monitors that have not failed; `none` where all have. -/
def worstOf : List Monitor → Option Nat
  | [] => none
  | .failed :: r => worstOf r
  | .ppm v :: r => some (max v.toNat ((worstOf r).getD 0))

def monitorCard : Monitor → BitVec 32
  | .failed => 0x80000000
  | .ppm v => v.setWidth 32

/-- Store monitor readings as GRM_RO_n or GRM_EM_n. -/
def monitorTbl (n : Nat) (l : List Monitor) : Tbl (BitVec 32) :=
  ((List.range n).zip l).foldl (fun t p => tset 0 t p.1 (monitorCard p.2)) []

/-- f = ERASED / (1,000 RATED) as a fraction, over both ports' valid registers (Table 14-3). -/
def flashRatio (a b : W64) : Option (Nat × Nat) :=
  let one (v : W64) : Option (Nat × Nat) := if v.getLsbD 63 then some (wf v 0 32, wf v 32 16 * 1000) else none
  match one a, one b with
  | some p, some q => if p.1 * q.2 < q.1 * p.2 then some q else some p
  | some p, none => some p
  | none, q => q

/-- The inputs of an evaluation that starts now. -/
def State.evalIn (s : State) : EvalIn :=
  { day := s.grm.day, dayValid := s.grm.dayValid, cdate := s.grm.cur.cdate, flashA := s.grm.cur.flashA,
    flashB := s.grm.cur.flashB, lowdays := s.grm.lowdays }

/-- The results of the seven mechanisms (Table 14-5), from the readings `d` and `r`. Saturated, POWMIN gives x >= 1 to every
mechanism that takes H or T from it (R675), and without a spare SPK_SPARE gives 0 days at any H (R672). `f0`, `f1`, `f2` and
`f5` are free words. [log 86 DESIGN CHOICE] -/
def lifeRows (g : Grm) (e : EvalIn) (u c : Nat) (d r : Option Nat) (f0 f1 f5 tFree : W64) : List LifeRes :=
  let m := g.cur
  let h := m.powmin
  let hu := 1440 * u
  let t := match e.dayValid, e.cdate with
    | true, some cd => if cd.toNat ≤ e.day.toNat then (e.day.toNat - cd.toNat, 1) else (tFree.toNat, 1)
    | _, _ => (h * 10000, hu)
  let ins := lifeInsuff h u
  let full (r : LifeRes) : LifeRes := if h = 0xFFFFFFFF then lifeRow 1 1 0 1 0 0 else r
  let linear (num den klo khi : Nat) : LifeRes := full (lifeRow num den (h * 10000 * (den - num)) (hu * num) klo khi)
  [ (match d with
      | none => lifeOut 3 f0
      | some d => ins (full (lifeRow d 40000 (h * 10000 * (40000 ^ 5 - d ^ 5)) (hu * d ^ 5) 70 140))),
    (match r with
      | none => lifeOut 3 f1
      | some r => ins (linear r 20000 50 160)),
    ins (linear m.maxInUse (512 * 50000000000) 90 110),
    (if g.nospare then lifeRow 1520 1520 0 1 40 250 else ins (linear m.retired.length 1520 40 250)),
    ins ((if t.2 = hu then full else id) (lifeRow (m.weak * 1000) (2 ^ 23) (t.1 * (2 ^ 23 - m.weak * 1000)) (t.2 * (m.weak * 1000)) 50 200)),
    (match flashRatio e.flashA e.flashB with
      | none => lifeOut 2 f5
      | some (p, q) => ins (linear p q 90 110)),
    lifeRow m.pcyc 100000 ((100000 - m.pcyc) * 10) c 60 150 ]

/-- The mechanisms with their numbers that take part (R669). -/
def lifePart (rows : List LifeRes) : List (Nat × LifeRes) :=
  ((List.range 7).zip rows).filter fun p => p.2.st.val < 2

/-- DAYS with MECH, and LO. -/
def lifeDays (l : List (Nat × LifeRes)) : Nat × Nat :=
  l.foldl (fun b p => if p.2.d < b.1 then (p.2.d, p.1) else b) (65536, 0)
def lifeLo (l : List (Nat × LifeRes)) : Nat := l.foldl (fun b p => min b p.2.lo) 65535

/-- The device-level result as GRM_DEV. -/
def lifeDev (rows : List LifeRes) (e : EvalIn) (free : W64) : W64 :=
  let part := lifePart rows
  let dm := lifeDays part
  let date := e.day.toNat + dm.1
  w64 (pack [(40, if e.dayValid then (if date < 2 ^ 24 then date else wf free 0 24) else 0), (36, dm.2), (16, lifeLo part),
    (0, dm.1)])

/-- An evaluation (R670). [log 86 DESIGN CHOICE] -/
def State.evaluate (s : State) (ro em : List Monitor) : State :=
  let e := s.grm.evalReq.getD s.evalIn
  let pr := s.lifeProfile
  let fr (i : Nat) : W64 := Config.free (s.free + i)
  let rows := lifeRows s.grm e pr.2.1 pr.2.2.1 (worstOf ro) (worstOf em) (fr 0) (fr 1) (fr 2) (fr 3)
  let dev := lifeDev rows e (fr 4)
  let s := { s with free := s.free + 5 }
  let s := s.modMeta fun g =>
    { g with evals := g.evals + 1, evalDay := if e.dayValid then e.day else 0,
             evalProf := BitVec.ofNat 8 (pr.1.val + b2n pr.2.2.2 * 128), life := ((List.range 7).zip rows).foldl (fun t p => tset .reset t p.1 p.2) [], dev := dev }
  let s := s.modGrm fun g => Grm.save
    { g with evalReq := none, stale := false, u := pr.2.1, c := pr.2.2.1, prof := pr.1, badcust := pr.2.2.2,
             ro := monitorTbl 40 ro, em := monitorTbl 12 em }
  let s := { s with irt := { s.irt with gevtEval := true } }
  let part := lifePart rows
  if (lifeDays part).1 < e.lowdays.toNat || lifeLo part < e.lowdays.toNat then s.raiseLifelow else s

/-- LIFE_EVALUATION: from a release on (R670); in RUN-OUT the macro takes no result. -/
def execLifeEvaluation (ro em : List Monitor) (s : State) : Out :=
  .next (if s.groomerWrites && s.gate.released then (s.evaluate ro em).evalReply else s)

/-- A request for an evaluation; one under way ignores it (Table 14-8). -/
def State.evalStart (s : State) : State :=
  if s.grm.evalReq.isSome then s else s.modGrm fun g => { g with evalReq := some s.evalIn }

/-- Set GRM_DATE.DAY (R673). [log 86 DESIGN CHOICE] -/
def State.setDate (s : State) (day : Nat) : State :=
  if 0xFFFFFE < day then s
  else
    let s := s.modGrm fun g => { g with day := BitVec.ofNat 24 day, dayValid := true }
    if s.grm.cur.cdate.isNone && s.lifecycle == some 2 then
      let back := lifeHu s.grm.cur.powmin s.lifeProfile.2.1
      let cd := if back ≤ day then BitVec.ofNat 24 (day - back) else s.freeVal.setWidth 24
      ((if back ≤ day then s else s.freeNext).modMeta fun g => { g with cdate := some cd }).modGrm Grm.save
    else s

/-- GRM_DATE_ADVANCE (R663): one day of powered time. [log 87 DESIGN CHOICE] -/
def execGrmDateAdvance (s : State) : Out :=
  .next <|
    if !s.gate.pgood then s
    else if s.grm.day = 0xFFFFFF then (s.modGrm fun g => { g with day := s.freeVal.setWidth 24 }).freeNext
    else s.modGrm fun g => { g with day := g.day + 1 }

/-- A write of GRM_FLASH_A or GRM_FLASH_B (R674). -/
def flashReg (v : Nat) : W64 := w64 (pack [(63, b2n (decide (fld v 32 16 ≠ 0))), (32, fld v 32 16), (0, fld v 0 32)])

/-! The registers. -/

def grmWide (off : Nat) : Bool :=
  [0x20, 0x28, 0x38, 0x40, 0x50, 0x58, 0x60].contains off || (0x100 ≤ off && off ≤ 0x130 && off % 8 == 0)

def LifeRes.card (r : LifeRes) : Nat := pack [(62, r.st.val), (48, r.x), (32, r.hi), (16, r.lo), (0, r.d)]

/-- A read of a GRM register. [log 78 DEDUCED] -/
def grmRead (off : Nat) (s : State) : Nat × State :=
  let g := s.grm
  let m := g.cur
  let v : Nat :=
    if off = 0x0 then 0x4D550101
    else if off = 0x8 then
      pack [(16, m.evals.toNat), (6, b2n g.stale), (5, b2n g.maplost), (4, b2n g.meta1), (3, b2n g.nospare),
        (2, b2n g.evalReq.isSome), (0, b2n g.moving.isSome)]
    else if off = 0x10 then pack [(21, g.freeCount), (10, m.retired.length), (0, m.logret)]
    else if off = 0x18 then
      pack [(16, g.sramPass.toNat), (4, g.spkPass.toNat), (1, b2n g.spkLate), (0, b2n g.sramLate)]
    else if off = 0x20 then pack [(32, m.pcyc), (0, m.powmin)]
    else if off = 0x28 then
      pack [(56, b2n m.cdate.isSome), (32, (m.cdate.getD 0).toNat), (24, b2n g.dayValid), (0, g.day.toNat)]
    else if off = 0x30 then pack [(31, b2n g.badcust), (18, g.c), (16, g.prof.val), (0, g.u)]
    else if off = 0x38 then m.flashA.toNat
    else if off = 0x40 then m.flashB.toNat
    else if off = 0x48 then pack [(31, b2n g.evalReq.isSome), (0, g.lowdays.toNat)]
    else if off = 0x50 then min (2 ^ 40 - 1) (m.maxInUse / 512)
    else if off = 0x58 then pack [(32, m.refreshed), (0, min 0xFFFFFF (m.weak * 1000000 / 2 ^ 23))]
    else if off = 0x60 then m.dev.toNat
    else if 0x100 ≤ off && off ≤ 0x130 && off % 8 == 0 then (tget .reset m.life ((off - 0x100) / 8)).card
    else if 0x200 ≤ off && off < 0x2A0 && off % 4 == 0 then (tget 0 g.ro ((off - 0x200) / 4)).toNat
    else if 0x300 ≤ off && off < 0x330 && off % 4 == 0 then (tget 0 g.em ((off - 0x300) / 4)).toNat
    else 0
  (v, s)

def grmWrite (off v : Nat) (s : State) : State :=
  if off = 0x18 then
    s.modGrm fun g => { g with spkLate := g.spkLate && !bitOf v 1, sramLate := g.sramLate && !bitOf v 0 }
  else if off = 0x28 then s.setDate (fld v 0 24)
  else if off = 0x38 then s.modMeta fun g => { g with flashA := flashReg v }
  else if off = 0x40 then s.modMeta fun g => { g with flashB := flashReg v }
  else if off = 0x48 then
    let s := s.modGrm fun g => { g with lowdays := BitVec.ofNat 16 v }
    if bitOf v 31 then s.evalStart else s
  else s

end Sys2Proof.Machine
end

