-- ==== Sys2Proof/Machine/Spenik.lean ====
section
/-! DEFINITION. The ledger, the warden records, recovery and the block SPK (chapter 13). -/

namespace Sys2Proof.Machine

/-! Epochs (R610 to R613). -/

/-- Number of the tandem's last committed epoch. -/
def Spk.ep (k : Spk) : Tandem → Nat
  | .a => k.epA | .b => k.epB | .g => k.epG

def Spk.setEp (k : Spk) (t : Tandem) (n : Nat) : Spk :=
  match t with
  | .a => { k with epA := n } | .b => { k with epB := n } | .g => { k with epG := n }

/-- Close the OPEN epoch of a tandem if it holds a word (R611); a PFENCE does so once no closed epoch of its tandem is left to
commit (R610). [log 44 DEDUCED] -/
def Spk.close (k : Spk) (t : Tandem) : Spk :=
  let o := k.op t
  if o.counted = [] then k
  else
    let e : Epoch :=
      { owner := t, st := .waiting, num := 0, entries := o.entries, log := [], blocks := 0, words := o.counted.length }
    { k.setOp t { OpenEp.reset with full := o.full } with closed := k.closed ++ [e] }

/-- A closed epoch of the tandem has not committed. -/
def Spk.uncommitted (k : Spk) (t : Tandem) : Bool := k.closed.any fun e => decide (e.owner = t) && (e.st != .committed)

/-- The epoch is rolled back with its tandem: it has not reached MARKING (Table 13-10, Table 13-6). -/
def Epoch.rolls (e : Epoch) (t : Tandem) : Bool := decide (e.owner = t) && (e.st == .waiting || e.st == .sealing)

/-- Roll back a tandem's OPEN epoch and abandon its SEALING ones (R617). -/
def Spk.rollback (k : Spk) (t : Tandem) : Spk :=
  { k.setOp t { OpenEp.reset with full := (k.op t).full } with closed := k.closed.filter fun e => !e.rolls t }

/-- The roll-back of a tandem's epochs: where it discards one, every persistent line leaves the L2 and with it every L1
(R617). -/
def State.rollback (s : State) (t : Tandem) : State :=
  let some_ := !(s.spk.op t).counted.isEmpty || s.spk.closed.any fun e => e.rolls t
  let s := s.modSpk fun k => k.rollback t
  if some_ then s.hw (s.l2Remove spkLine) else s

/-- Words of the epochs that a roll-back discards (Table 13-8, word 2). [log 79 DEDUCED] -/
def Spk.rollWords (k : Spk) (t : Tandem) : Nat :=
  (k.op t).counted.length + ((k.closed.filter fun e => e.rolls t).map Epoch.words).sum

/-- The epoch that holds the write port for its seal or marks. -/
def Spk.atPort (k : Spk) : Option Epoch := k.closed.find? fun e => e.st == .sealing || e.st == .marking

/-- Log blocks that are neither held nor retired (R613, R659). [log 79 DEDUCED, 80 DEDUCED] -/
def State.logFree (s : State) : Nat := 4064 - s.grm.cur.logret - (s.spk.closed.map (·.blocks)).sum

/-- An entry is superseded (R615). [log 79 DEDUCED] -/
def Spk.superseded (k : Spk) (e : LEntry) : Bool :=
  decide (e.seq < tget 0 k.doneSeq e.word) ||
    k.closed.any fun p => p.st == .committed && p.entries.any fun f => decide (f.word = e.word ∧ e.seq < f.seq)

/-- The log blocks that the seal of an epoch takes: its superseded entries cost nothing (R613, R633). [log 79 DEDUCED] -/
def Spk.need (k : Spk) (e : Epoch) : Nat := ceilDiv (e.entries.filter fun x => !k.superseded x).length 30 + 1

/-- Change the first epoch in a state. -/
def onFirst (st : EpSt) (f : Epoch → Epoch) : List Epoch → List Epoch
  | [] => []
  | e :: r => if e.st = st then f e :: r else e :: onFirst st f r

/-- Log blocks whose third attempt fails are retired, each while another block is free for its contents; `held` are taken
already (R659, Table 14-1). [log 84 DEDUCED] -/
def State.retireLogs (s : State) (held : Nat) : Nat → State
  | 0 => s
  | n + 1 => (if held < s.logFree then s.retireLog else s).retireLogs held n

/-- SEAL_START (R613): the port and the room are free; superseded entries are not logged. `fails` log blocks fail verify on the
way. [log 79 DEDUCED, 84 DEDUCED] -/
def execSealStart (us : Nat) (fails : Nat) (s : State) : Out :=
  .next <| s.rooted fun s => match s.spk.closed.find? fun e => e.st == .waiting with
    | none => s
    | some e =>
      let need := s.spk.need e
      if s.spk.atPort.isNone && s.spk.recs.isEmpty && !s.inhibit && decide (need ≤ s.logFree) then
        let s := s.retireLogs need fails
        let es := e.entries.filter fun x => !s.spk.superseded x
        s.modSpk fun k =>
          { k with waitUs := satAdd 0xFFFFFFFF k.waitUs us,
                   closed := onFirst .waiting (fun e => { e with st := .sealing, entries := es, log := es, blocks := need })
                     k.closed }
      else s

/-- SEAL_END: MARKING (Table 13-2). A warden record that is due holds the seal back (Table 13-4). [log 79 DEDUCED] -/
def execSealEnd (s : State) : Out :=
  .next (s.rooted fun s => if !s.spk.recs.isEmpty then s
    else s.modSpk fun k => { k with closed := onFirst .sealing (fun e => { e with st := .marking }) k.closed })

/-- EPOCH_COMMIT (R611, R612). A warden record that is due holds the marks back (Table 13-4). A PFENCE that waits with its epoch
still OPEN closes it now, the tandem's one closed epoch having left MARKING (R610); one that waits with none completes. [log
44 DEDUCED] -/
def execEpochCommit (fails : Nat) (s : State) : Out :=
  .next <| s.rooted fun s => match (if s.spk.recs.isEmpty then s.spk.closed.find? fun e => e.st == .marking else none) with
    | none => s
    | some e =>
      let s := s.retireLogs 0 fails
      let n := (s.spk.ep e.owner + 1) % 2 ^ 48
      let s := s.modSpk fun k =>
        let l := onFirst .marking (fun e => { e with st := .committed, num := n }) k.closed
        { k.setEp e.owner n with closed := l.filter fun e => !(e.st == .committed && e.entries.isEmpty) }
      let c := s.cpu e.owner
      if c.run == .running && c.wait == .pfence && !s.spk.uncommitted e.owner then
        (if (s.spk.op e.owner).counted.isEmpty then s.endWait e.owner else s.modSpk fun k => k.close e.owner)
      else s

/-- The next entry to apply in log order, the superseded ones before it skipped; an epoch without entries is FREE. [log 79
DEDUCED] -/
def nextApply (sup : LEntry → Bool) : List Epoch → Option LEntry × List Epoch
  | [] => (none, [])
  | p :: r =>
    if p.st = .committed then
      match p.entries.dropWhile sup with
      | [] => nextApply sup r
      | e :: es => (some e, if es.isEmpty then r else { p with entries := es } :: r)
    else
      let q := nextApply sup r
      (q.1, p :: q.2)

/-- The oldest closed epoch waits for its seal and has the room for it (R613). [log 79 DEDUCED] -/
def State.sealDue (s : State) : Bool :=
  match s.spk.closed.find? fun e => e.st == .waiting with
  | some e => decide (s.spk.need e ≤ s.logFree)
  | none => false

/-- The apply of RUN-OUT has ended: HOLDOK is or was 0, 110 µs have passed, or the record has been written (Table 13-6). -/
def State.applyEnds (s : State) : Bool :=
  s.wrd.mode == .runOut && (s.spk.runoutRec || s.spk.holdFell || decide (s.spk.tripUs + 110 ≤ s.us))

/-- APPLY_ENTRY (R616, R641): the ranks above are idle, or the seal waits for log room (R618). [log 79 DEDUCED] -/
def execApplyEntry (logBad : Bool) (verify : Verify) (s : State) : Out :=
  .next <| s.rooted fun s =>
    let k := s.spk
    if s.applyEnds || k.atPort.isSome || !k.recs.isEmpty || s.sealDue then s
    else
      let q := nextApply k.superseded k.closed
      let s := s.modSpk fun k => { k with closed := q.2 }
      match q.1 with
      | none => s
      | some e =>
        let s := s.modSpk fun k => { k with doneSeq := tset 0 k.doneSeq e.word e.seq }
        let s := if logBad then s.spkUnc e.word else s
        s.arrayWrite e.word (if logBad then .poison else e.val) verify

/-! Warden records (R627, Table 13-8). -/

/-- The ring slot after slot `n` that has not been skipped (R658); 256 slots. [log 83 DEDUCED] -/
def Spk.nextSlot (k : Spk) : Nat → Nat → Nat
  | 0, n => (n + 1) % 256
  | fuel + 1, n => if k.skipped.contains ((n + 1) % 256) then k.nextSlot fuel ((n + 1) % 256) else (n + 1) % 256

/-- The slot that the next record takes. -/
def Spk.slotDue (k : Spk) : Nat := k.nextSlot 256 (if k.recno = 0 then 255 else k.newest.toNat)

/-- The eight words of a record. [log 83 DEDUCED] -/
def WRec.words (r : WRec) (recno : Nat) : List W64 :=
  let ws := [w64 (pack [(56, r.kind.val), (48, r.mode.val), (0, recno)]), r.ms.setWidth 64, r.w2, r.w3, r.w4, 0, 0]
  ws ++ [w64 (crc32cOf (ws.flatMap fun w => bytesOf 8 w.toNat))]

/-- The next `n` slots fail verify and are skipped from then on (Table 14-1); the last slot left is never skipped. [log 83
DEDUCED] -/
def Spk.skip (k : Spk) : Nat → Spk
  | 0 => k
  | n + 1 => Spk.skip (if k.skipped.length < 255 then { k with skipped := k.skipped ++ [k.slotDue] } else k) n

/-- Write a record into the next slot whose write does not fail verify (Table 14-1). RECNO 0 is never used (R627). [log 83
DEDUCED, 84 DEDUCED] -/
def Spk.writeRec (k : Spk) (r : WRec) (fails : Nat) : Spk :=
  let k := k.skip fails
  let n := k.slotDue
  let no := if (k.recno + 1) % 2 ^ 48 = 0 then 1 else (k.recno + 1) % 2 ^ 48
  { k with ring := tset [] k.ring n (r.words no), recno := no, newest := BitVec.ofNat 8 n }

/-- The run-out record is due and not yet written (Table 13-6): HOLDOK is or was 0, the apply has ended, or 110 µs have
passed. [log 83 DEDUCED] -/
def State.runOutDue (s : State) : Bool :=
  s.wrd.mode == .runOut && !s.spk.runoutRec &&
    (s.spk.holdFell || s.spk.closed.isEmpty || decide (s.spk.tripUs + 110 ≤ s.us))

/-- WARDEN_RECORD_WRITE: the oldest fault record due; a run-out record that is due goes first (Table 13-10). -/
def execWardenRecordWrite (fails : Nat) (s : State) : Out :=
  .next <| s.rooted fun s => match s.spk.recs with
    | [] => s
    | r :: rest =>
      if s.inhibit || s.runOutDue then s
      else (s.modSpk fun k => { k.writeRec r fails with recs := rest }).notifyRec r.kind.val

/-- RUN_OUT_RECORD (Table 13-6): the record that is due is written, and DRAM goes into self-refresh. ROLLx and LEFT show no more
than their fields hold. [log 140 DESIGN CHOICE] -/
def execRunOutRecord (rec : RunOutIn) (s : State) : Out :=
  .next <|
    if s.runOutDue then
      let k := s.spk
      let left := (k.closed.filter fun e => e.st == .marking || e.st == .committed).length
      let r : WRec :=
        { kind := 1, mode := k.tripMode, ms := BitVec.ofNat 32 (k.tripUs / 1000),
          w2 := w64 (pack [(32, min 0xFFFF k.rollG), (16, min 0xFFFF k.rollB), (0, min 0xFFFF k.rollA)]),
          w3 := w64 (pack [(48, rec.durus.toNat), (40, min 0xFF left), (39, b2n k.holdTrip), (38, b2n k.holdok)]),
          w4 := s.wrd.tripDet.setWidth 64 }
      let s := s.modSpk fun k => { k.writeRec r rec.fails with runoutRec := true, needRec := false }
      { s with drc := { s.drc with a := { s.drc.a with sref := s.drc.a.ready }, b := { s.drc.b with sref := s.drc.b.ready } } }
    else s

/-- HOLDOK_FALL (R623): the run-out apply ends with it (Table 13-10). -/
def execHoldokFall (s : State) : Out := .next (s.modSpk fun k => { k with holdok := false, holdFell := true })

/-- HOLDOK_RISE (R623). -/
def execHoldokRise (s : State) : Out := .next (s.modSpk fun k => { k with holdok := true })

/-- VIN_SENSE_RELEASE (R622). -/
def execVinSenseRelease (s : State) : Out := .next (s.modSpk fun k => { k with vinok := true })

/-! Recovery (R630, R641, R642). -/

/-- The entries of an epoch's log that recovery can place: 30 to a block, but for the blocks without a readable header (R613,
R642). [log 82 DESIGN CHOICE] -/
def Epoch.placed (e : Epoch) (bad : List LedgerBad) : List LEntry :=
  (((List.range e.log.length).zip e.log).filter fun p =>
    !bad.contains (.unplaced e.owner (BitVec.ofNat 48 e.num) (p.1 / 30))).map Prod.snd

/-- The entries that recovery replays: the newest of each word in the logs of the marked epochs, but for the unplaced ones.
[log 82 DESIGN CHOICE] -/
def Spk.replay (k : Spk) (bad : List LedgerBad) : List LEntry :=
  let all := (k.closed.filter fun e => e.st == .committed).flatMap fun e => e.placed bad
  all.filter fun e => newestIn e.word all == some e

/-- How the replay's write of a word goes. -/
def verifyOf (bad : List LedgerBad) (w : Nat) : Verify :=
  (bad.findSome? fun
    | .verify v how => if v = w then some how else none
    | _ => none).getD (.good 0)

/-- Recovery puts a word into the array (R641, R658). -/
def State.replayOne (bad : List LedgerBad) (s : State) (e : LEntry) : State :=
  s.arrayWrite e.word (if bad.contains (.entry e.word) then .poison else e.val) (verifyOf bad e.word)

/-- The recovery of R630 with what it finds wrong, and the microseconds it takes. [log 81 DEDUCED, 82 DESIGN CHOICE] -/
def State.recover (s : State) (bad : List LedgerBad) (us : BitVec 16) : State :=
  let k := s.spk
  let es := k.replay bad
  let poisoned := (es.filter fun e => bad.contains (.entry e.word)).length
  let hurt := bad.any fun b => match b with
    | .entry _ | .verify _ _ => false | .unplaced _ _ _ | .mark _ => true
  let marked := (k.closed.filter fun e => e.st == .committed).length
  let s := es.foldl (State.replayOne bad) s
  let s := (es.filter fun e => bad.contains (.entry e.word)).foldl (fun s _ => (s.eccUnc 7).detect 4 7) s
  let recov := pack [(48, us.toNat), (40, min 0xFF marked), (32, min 0xFF k.partials), (14, es.length),
    (4, min 1023 poisoned), (2, b2n hurt), (1, b2n k.norec), (0, 1)]
  let lost (t : Tandem) (s : State) : State :=
    if bad.contains (.mark t) then (s.modSpk fun k => k.setEp t (wf s.freeVal 0 48)).freeNext else s
  let s := lost .g (lost .b (lost .a s))
  { s.modSpk fun k => { k with closed := [], doneSeq := [], partials := 0, recov := w64 recov, damaged := k.damaged || hurt,
                               recovered := true }
    with gate := { s.gate with ledgerdone := true, ledgerLate := decide (s.gate.origin + 20000 < s.us) } }

/-- LEDGER_RECOVERY_END: recovery runs from the end of fuse load, or from T10, until it ends (R118, R631). A power failure
cuts it off, and it repeats in full at T10 or after the power reset (R638, Table 13-10). [log 82 DESIGN CHOICE] -/
def execLedgerRecoveryEnd (bad : List LedgerBad) (us : BitVec 16) (s : State) : Out :=
  .next (s.rooted fun s => if !s.spk.recovered && s.gate.pgood && decide (3 ≤ s.gate.step.val) && s.wrd.mode != .runOut then s.recover bad us else s)

/-! The registers. -/

def spkWide (off : Nat) : Bool :=
  [0x28, 0x30, 0x38, 0x40, 0x50, 0x58].contains off || (0x80 ≤ off && off < 0xC0 && off % 8 == 0)

/-- SPK_OPEN_x. [log 80 DEDUCED] -/
def OpenEp.card (o : OpenEp) (closing : Bool) : Nat :=
  pack [(31, b2n o.hw), (30, b2n closing), (16, o.full), (0, o.counted.length)]

/-- Entries of COMMITTED epochs not yet applied. [log 80 DEDUCED] -/
def Spk.pending (k : Spk) : Nat := ((k.closed.filter fun e => e.st == .committed).map fun e => e.entries.length).sum

/-- A recovery has ended since the power reset: it has loaded SPK_EPOCH_x, SPK_RECOV and NEWEST, which a warm reset keeps
(R646). [log 82 DESIGN CHOICE] -/
def Spk.loaded (k : Spk) : Bool := k.recov.getLsbD 0

/-- SPK_LOG.PENDING, 0 until recovery has ended (R646). [log 80 DEDUCED] -/
def Spk.pendingRead (k : Spk) : Nat := if k.recovered then k.pending else 0

/-- SPK_STAT.SEALING: the owner of the epoch at the port. -/
def Spk.sealingRead (k : Spk) : Nat :=
  match k.atPort with
  | some e => e.owner.idx + 1
  | none => 0

/-- SPK_WRECIDX.NEWEST, 0 until a recovery has loaded it. -/
def Spk.newestRead (k : Spk) : Nat := if k.loaded then k.newest.toNat else 0

/-- SPK_LOG.FREE, 0 until recovery has ended. [log 80 DEDUCED] -/
def State.freeRead (s : State) : Nat := if s.spk.recovered then s.logFree else 0

/-- A read of an SPK register. [log 80 DEDUCED] -/
def spkRead (off : Nat) (s : State) : Nat × State :=
  let k := s.spk
  let openReg (t : Tandem) : Nat × State :=
    ((k.op t).card (k.uncommitted t), s.modSpk fun k => k.setOp t { k.op t with full := 0 })
  if off = 0x0 then (0x4D550101, s)
  else if off = 0x8 then
    (pack [(31, b2n k.damaged), (11, b2n (decide (k.pendingRead ≠ 0))), (10, b2n k.holdok), (9, b2n k.vinok), (8, b2n k.recovered),
      (4, k.sealingRead)], s)
  else if off = 0x10 then openReg .a
  else if off = 0x18 then openReg .b
  else if off = 0x20 then openReg .g
  else if off = 0x28 then (if k.loaded then k.epA else 0, s)
  else if off = 0x30 then (if k.loaded then k.epB else 0, s)
  else if off = 0x38 then (if k.loaded then k.epG else 0, s)
  else if off = 0x40 then (pack [(32, k.pendingRead), (0, s.freeRead)], s)
  else if off = 0x48 then (k.waitUs, s.modSpk fun k => { k with waitUs := 0 })
  else if off = 0x50 then
    (pack [(56, k.c1), (48, k.c2), (40, k.unc), (0, k.eccLast.toNat)],
      s.modSpk fun k => { k with c1 := 0, c2 := 0, unc := 0 })
  else if off = 0x58 then (k.recov.toNat, s)
  else if off = 0x60 then (pack [(16, k.newestRead), (0, k.sel.toNat)], s)
  else if 0x80 ≤ off && off < 0xC0 && off % 8 == 0 then
    ((((tget [] k.ring k.sel.toNat)[(off - 0x80) / 8]?).getD 0).toNat, s)
  else (0, s)

def spkWrite (off v : Nat) (s : State) : State :=
  if off = 0x60 then s.modSpk fun k => { k with sel := BitVec.ofNat 8 v } else s

end Sys2Proof.Machine
end

