-- ==== Sys2Proof/Machine/Warden.lean ====
section
/-! DEFINITION. The warden, its safety I/O, the watchdogs and the patrol, block WRD (chapter 2), the warden's mode transitions
and the resets of single tandems (chapter 4). -/

namespace Sys2Proof.Machine

def State.modWrd (s : State) (f : Wrd → Wrd) : State := { s with wrd := f s.wrd }
def State.modClk (s : State) (f : Clk → Clk) : State := { s with clk := f s.clk }
def State.modGate (s : State) (f : Gate → Gate) : State := { s with gate := f s.gate }

/-- WRD_TIME (R94). -/
def State.ms (s : State) : Nat := s.us / 1000 % 2 ^ 32

/-! Safe outputs (R70 to R73, R81, R82). -/

/-- A lane has decided alone to de-energise (R58); lane 1 answers to `.a`, lane 2 to `.b`. [log 131 DESIGN CHOICE] -/
def Wrd.laneOff (w : Wrd) : Side → Bool
  | .a => w.laneA | .b => w.laneB

/-- What a lane decides on its own (R56): it grants the permit of its safe output in RUN and REDUCED, unless it alone decides
to de-energise (R70, R104, Table 3-6). [log 131 DESIGN CHOICE] -/
def State.lanePermit (s : State) (lane : Side) : Bool :=
  (s.wrd.mode == .run || s.wrd.mode == .reduced) && !s.wrd.rcStopped && s.lifecycle != some 3 && !s.wrd.laneOff lane

/-- Both lanes grant the permit (R70). [log 58 DEDUCED] -/
def State.permit (s : State) : Bool := s.lanePermit .a && s.lanePermit .b

/-- An emergency-stop fault is latched. [log 54 DESIGN CHOICE] -/
def Wrd.esFault (w : Wrd) : Bool := w.disc || w.pulseA || w.pulseB

/-- Every condition of R70 holds. [log 54 DESIGN CHOICE, 58 DEDUCED] -/
def State.outOk (s : State) : Bool :=
  s.permit && !s.wrd.demand && !s.wrd.esFault && !s.wrd.swstop && !s.wrd.latched && s.wrd.first && s.clk.rootgood

/-- The level of a safe output's ball: high-impedance while VIO_33 or VDD_AON lies below its band (R73, R936, R953). [log
126 DEDUCED] -/
def Wrd.safePin (w : Wrd) (out : Side) : PinLevel :=
  if w.rails.getLsbD 1 && w.rails.getLsbD 5 then
    (if (match out with | .a => w.outA | .b => w.outB) then .high else .low)
  else .hiZ

/-- Drive the two outputs, lane 1 the first and lane 2 the second; the readback follows. [log 53 DEDUCED] -/
def Wrd.drive (w : Wrd) (a b : Bool) : Wrd := { w with outA := a, outB := b, rbA := a, rbB := b }

/-- The outputs stop toggling: static low (R73, R897). [log 53 DEDUCED] -/
def State.outsOff (s : State) : State :=
  let s := if s.wrd.toggling then { s with irt := { s.irt with wevtSafe := true } } else s
  s.modWrd fun w => { (w.drive false false) with toggling := false }

/-- The outputs stop where a condition of R70 has ended. -/
def State.settleOuts (s : State) : State := if s.outOk then s else s.outsOff

/-- SAFE_OUTPUT_HALF_PERIOD (R71, R72): the first edge drives SAFE_OK_A high; the rate follows the mode from this edge on.
[log 53 DEDUCED] -/
def execSafeOutputHalfPeriod (s : State) : Out :=
  .next <|
    if !s.outOk then s.outsOff
    else
      let rate := s.wrd.mode == .reduced
      if s.wrd.toggling then s.modWrd fun w => { (w.drive (!w.outA) w.outA) with rate := rate }
      else
        ({ s with irt := { s.irt with wevtSafe := true } }).modWrd fun w =>
          { (w.drive true false) with rate := rate, toggling := true }

/-- SAFE_OUTPUT_READBACK_MISMATCH (R74). -/
def execSafeOutputReadbackMismatch (out : Side) (s : State) : Out :=
  .next <|
    if s.gate.pgood then
      (s.modWrd fun w => match out with
        | .a => { w with rbA := !w.outA } | .b => { w with rbB := !w.outB }).detect 14 out.idx
    else s

/-- A write of WRD_SAFE (R81, R82, R99). -/
def State.safeWrite (s : State) (v : Nat) : State :=
  if bitOf v 8 then (s.modWrd fun w => { w with swstop := true, latched := true, hold := 2 }).outsOff
  else if bitOf v 9 && !s.wrd.demand && !s.wrd.esFault && (s.wrd.mode == .run || s.wrd.mode == .reduced) then
    s.modWrd fun w => { w with swstop := false, latched := false, hold := 0, esGates := false }
  else s

/-! Emergency stop (R75 to R80, R107). -/

def Wrd.pulseLevel (w : Wrd) (ch : Side) (low : Bool) : Wrd :=
  match ch with
  | .a => { w with taLow := low } | .b => { w with tbLow := low }

/-- TEST_PULSE_START (R75), timed in D57 (R205). -/
def execTestPulseStart (ch : Side) (s : State) : Out :=
  .next <| s.rooted fun s => if s.wrd.pulses then s.modWrd fun w => w.pulseLevel ch true else s

/-- A latched error clears after both channels have read open together and then closed together (R80). [log 54 DESIGN CHOICE] -/
def Wrd.esClear (w : Wrd) : Wrd :=
  if !w.esFault then w
  else if w.knownA && w.knownB && !w.closedA && !w.closedB then { w with bothOpen := true }
  else if w.bothOpen && w.closedA && w.closedB then
    { w with disc := false, pulseA := false, pulseB := false, bothOpen := false }
  else w

/-- An emergency-stop channel takes a state; a demand de-energises the outputs and latches (R77). [log 54 DESIGN CHOICE] -/
def State.esTake (s : State) (ch : Side) (closed : Bool) : State :=
  let was := s.wrd.demand
  let s := s.modWrd fun w =>
    let w := match ch with
      | .a => { w with closedA := closed, knownA := true } | .b => { w with closedB := closed, knownB := true }
    ({ w with demand := (w.knownA && !w.closedA) || (w.knownB && !w.closedB) } : Wrd).esClear
  if s.wrd.demand then
    let s := if was then s else { s with irt := { s.irt with wevtEstop := true } }
    (s.modWrd fun w => { w with latched := true, hold := 1 }).outsOff
  else s

/-- The inputs are not sampled: a test pulse is low, or ended less than 100 µs ago (R76). -/
def State.esBlind (s : State) : Bool :=
  s.wrd.taLow || s.wrd.tbLow || (match s.wrd.pulseEnd with | some n => decide (s.us < n + 100) | none => false)

/-- ESTOP_CHANNEL_CHANGE (R76, R77, R100): one that falls into a test pulse or its settle time waits for the end of that.
[log 54 DESIGN CHOICE] -/
def execEstopChannelChange (ch : Side) (closed : Bool) (s : State) : Out :=
  .next <|
    if !s.wrd.pulses then s
    else if s.esBlind then s.modWrd fun w => match ch with
      | .a => { w with waitA := some closed } | .b => { w with waitB := some closed }
    else s.esTake ch closed

/-- The changes that waited for a test pulse and its settle time are recognised (R100). -/
def State.esSettle (s : State) : State :=
  if s.esBlind then s
  else
    let a := s.wrd.waitA
    let b := s.wrd.waitB
    let s := if a.isSome || b.isSome then s.modWrd fun w => { w with waitA := none, waitB := none } else s
    let s := match a with | some c => s.esTake .a c | none => s
    match b with | some c => s.esTake .b c | none => s

/-- ESTOP_PULSE_ERROR (R78): the channel is the one whose test pulse failed. -/
def execEstopPulseError (ch : Side) (s : State) : Out :=
  .next <|
    if !s.wrd.pulses then s
    else
      ((s.modWrd fun w => match ch with
        | .a => { w with pulseA := true, bothOpen := false }
        | .b => { w with pulseB := true, bothOpen := false }).detect 13 ch.idx).settleOuts

/-- ESTOP_DISCREPANCY (R79): the channel that reads open opened first. [log 54 DESIGN CHOICE] -/
def execEstopDiscrepancy (s : State) : Out :=
  .next <|
    let w := s.wrd
    if w.pulses && w.knownA && w.knownB && w.closedA != w.closedB then
      ((s.modWrd fun w => { w with disc := true, bothOpen := false }).detect 12 (if w.closedA then 1 else 0)).settleOuts
    else s

/-! Watchdogs (R65 to R69, R90, R91, R177). -/

def Wrd.wd (w : Wrd) : Tandem → Wd
  | .a => w.wdA | .b => w.wdB | .g => w.wdG

def Wrd.setWd (w : Wrd) (t : Tandem) (d : Wd) : Wrd :=
  match t with
  | .a => { w with wdA := d } | .b => { w with wdB := d } | .g => { w with wdG := d }

/-- Watchdog `t` runs: from its tandem's release from reset, but not in RUN-OUT, nor while a warm reset drains, nor while
the RC reference that times it stands (R65, R69, R104, R177, Table 4-2). -/
def State.wdRuns (s : State) (t : Tandem) : Bool :=
  (s.cpu t).run != .held && s.wrd.mode != .runOut && !s.clk.draining && !s.wrd.rcStopped

/-- The WRD_DET bit of watchdog `t`. -/
def wdBit : Tandem → Fin 18
  | .a => 7 | .b => 8 | .g => 9

/-- A write of WRD_WDSVC_n (R65 to R68, R90). [log 55 DEDUCED] -/
def State.wdService (s : State) (who t : Tandem) (v : Nat) : State :=
  if who ≠ t ∨ s.wdRuns t = false then s
  else
    let d := s.wrd.wd t
    if d.effOpn * 100 ≤ d.us ∧ d.us ≤ d.effClose * 100 ∧ v = (if d.next then 0x3C5A else 0xA5C3) then
      s.modWrd fun w => w.setWd t { d with next := !d.next, effOpn := d.opn, effClose := d.close, us := 0 }
    else s.detect (wdBit t) t.idx

/-- A write of WRD_WDCFG_n (R68, R91). -/
def State.wdConfig (s : State) (who t : Tandem) (v : Nat) : State :=
  let d := s.wrd.wd t
  let opn := fld v 16 14
  let close := fld v 0 14
  if who ≠ t ∨ d.lock = true ∨ close < 10 ∨ 10000 < close ∨ close ≤ opn then s
  else s.modWrd fun w => w.setWd t { d with opn := opn, close := close, lock := bitOf v 31 }

/-- WATCHDOG_EXPIRY (R67): CLOSE has passed without a valid service. [log 55 DEDUCED] -/
def execWatchdogExpiry (t : Tandem) (s : State) : Out :=
  .next <|
    let d := s.wrd.wd t
    if s.wdRuns t && decide (d.effClose * 100 ≤ d.us) && !(s.wrd.arrived.any fun x => x.bit == wdBit t) then
      s.detect (wdBit t) t.idx
    else s

/-! Monitors (R54, R58 to R60). -/

/-- LOCKSTEP_MISMATCH: of a tandem that is not held in reset; of a main tandem it cannot arise in GATEHOUSE (Table 4-3).
[log 5 DESIGN CHOICE] -/
def execLockstepMismatch (t : Tandem) (s : State) : Out :=
  .next <|
    if (s.cpu t).run = .held ∨ (s.wrd.mode = .gatehouse ∧ t ≠ .g) then s
    else s.detect (match t with
      | .a => 0 | .b => 1 | .g => 2) t.idx

def execOverTemperature (cmp : Fin 2) (s : State) : Out := .next (if s.gate.pgood then s.detect 11 cmp.val else s)

/-- The lane that decides to de-energise in a disagreement, if one does: the command does not name it, so it is free. [log
131 DESIGN CHOICE] -/
def State.laneOff (s : State) : Option Side :=
  match s.freeVal.toNat % 3 with
  | 0 => none | 1 => some .a | _ => some .b

/-- LANE_DISAGREEMENT (R58): the lane that decides to de-energise, if one does, drops its own output at once, and the permit
of R70 ends. [log 131 DESIGN CHOICE] -/
def execLaneDisagreement (s : State) : Out :=
  .next <|
    if s.gate.pgood then
      (((s.modWrd fun w => match s.laneOff with
        | some .a => { w with laneA := true } | some .b => { w with laneB := true } | none => w).freeNext).settleOuts).detect 16 0
    else s

/-- A count departs from its nominal by more than 3.8 % (R59). -/
def offNominal (n nominal : Nat) : Bool := decide (38 * nominal < 1000 * (max n nominal - min n nominal))

/-- FREQUENCY_MONITOR_WINDOW (R59): with both counts out of band the root's is the cause that is reported. A window that
counts root edges shows that the crystal runs. [log 56 DESIGN CHOICE] -/
def execFrequencyMonitorWindow (fab rc : BitVec 16) (s : State) : Out :=
  .next <|
    if !s.gate.pgood || s.wrd.rcStopped then s
    else
      let badF := offNominal fab.toNat 600
      let badR := offNominal rc.toNat 64
      let s := s.modClk fun c =>
        { c with fabcnt := fab, rccnt := rc, rootgood := !badF && !badR, crystal := c.crystal || (fab != 0 && s.wrd.rails.getLsbD 4) }
      (if badF then s.detect 5 0 else if badR then s.detect 5 1 else s).settleOuts

/-! Resets of single tandems (R187, R189, Table 4-5). -/

/-- A tandem reset of a main tandem; it stays held until a warm or power reset. [log 59 DEDUCED] -/
def State.tandemReset (s : State) (m : Side) : State :=
  let s := (((s.setCpu m.tandem .reset).setSch m .reset).heal fun x => x.ofTandem m.tandem).rollback m.tandem
  let s := (s.mboxReset m).modWrd fun w => w.setWd m.tandem .reset
  s.modClk fun c => match m with
    | .a => { c with tra := satAdd 0xFF c.tra 1 } | .b => { c with trb := satAdd 0xFF c.trb 1 }

/-- Hold both main tandems in reset. [log 13 DESIGN CHOICE, 59 DEDUCED] -/
def State.holdTandems (s : State) : State :=
  [Side.a, Side.b].foldl (fun s m => if (s.cpu m.tandem).run = .held then s else s.tandemReset m) s

/-- Tandem G as it leaves reset: at the boot ROM's first word, with root capabilities that the model names (R118, R140).
[log 20 DESIGN CHOICE] -/
def gStart : Cpu :=
  let l := { Locker.reset with pcc := Cap.root 0 0x40000 (pLD + pEX + pLDC + pSYS) 0 }
  let l := l.setC 1 (Cap.root 0 (2 ^ 40) (pLD + pST + pLDC + pSTC + pTTH + pDUR) 0)
  { (Cpu.reset.setLocker 0 (l.setC 7 (Cap.root 0 64 (pSEAL + pUNSEAL) 0))) with run := .running }

/-- The gatehouse sequence starts again at step 3 (R152, R188), its 20 ms counted from `us`. [log 20 DESIGN CHOICE, 60
DEDUCED] -/
def Gate.restart (g : Gate) (us : Nat) : Gate :=
  { g with released := false, outcome := 0, slot := none, step := 3, trel := 0, origin := us, slotA := .reset,
           slotB := .reset, hdrA := false, hdrB := false, order := [], recs := [], cfgFail := false, pioBad := 0,
           skip := 0, nocfg := 0, profImg := false }

/-- Steps 3 and 4 of the gatehouse sequence read each port in 1S-1S-1S at 50 MHz, with command 0x0C and 8 dummy cycles
(R119). -/
def State.portsPlain (s : State) : State :=
  let plain (p : XspPort) : XspPort :=
    { p with mode := XspPort.reset.mode, div := XspPort.reset.div, rdcmd := XspPort.reset.rdcmd, dummy := XspPort.reset.dummy }
  { s with xsp := { s.xsp with a := plain s.xsp.a, b := plain s.xsp.b } }

/-- The restart of tandem G; the eighth loss since power-good holds it in reset (R61, R152, Table 4-5). [log 20 DESIGN
CHOICE] -/
def State.restartG (s : State) : State :=
  let s := ((s.modWrd fun w => { w.setWd .g .reset with gloss := satAdd 0xFF w.gloss 1 }).heal fun x => x.ofTandem .g).rollback .g
  if 8 ≤ s.wrd.gloss then (s.setCpu .g .reset).settleSessions none
  else
    let s := s.setCpu .g gStart
    if s.gate.released then s.restartSessions
    else if 3 ≤ s.gate.step.val then s.portsPlain.modGate fun g => g.restart g.origin else s

/-! Modes (R172, R176, Tables 4-1 and 4-2). -/

/-- Change the mode, with what hangs on the change itself: WRD_MODE, IRT_WEVT.MODE, the end of the SERVICE functions, the
USB endpoints, the safe outputs and the notification. With the RC reference stopped WRD_MODE does not change (R104). [log 52
DEDUCED] -/
def State.enter (s : State) (m : Mode) (cause : Nat) (serveA serveB : Bool) : State :=
  if s.wrd.rcStopped then s else
  let out := s.wrd.mode == .service && m != .service
  let s := if out then s.imgAbort else s
  let s := s.modWrd fun w =>
    { w with mode := m, cause := BitVec.ofNat 8 cause, serveA := serveA, serveB := serveB, pause := w.pause && !out,
             pinjGo := w.pinjGo && !out, injected := if out then [] else w.injected }
  let s := { s with irt := { s.irt with wevtMode := true }, usb := { s.usb with testen := s.usb.testen && !out } }
  let s := if m = .safeHold ∨ m = .service then s.modUsb Usb.holdEps else s
  s.settleOuts.notifyMode

/-- T5 and T6: SAFE HOLD. [log 52 DEDUCED] -/
def State.toSafeHold (s : State) (cause : Nat) : State :=
  ((s.enter .safeHold cause false false).gatesClose).holdTandems

/-- T4: REDUCED after the loss of one main tandem. [log 52 DEDUCED] -/
def State.toReduced (s : State) (lost : Side) (cause : Nat) : State :=
  ((s.enter .reduced cause (lost == .b) (lost == .a)).gatesClose).tandemReset lost

/-! The decision (R95 to R97, R101, R175, R179, R198, Tables 2-3 and 4-3). -/

/-- What the warden decides on a detection (Table 2-3). [log 52 DEDUCED] -/
inductive React where
  | hold | pend
  | loss (m : Side) | mark (m : Side)
  | outOff | restartG | record
  deriving DecidableEq, Repr

/-- The strongest reaction is taken first. [log 52 DEDUCED] -/
def React.rank : React → Nat
  | .hold | .pend => 4
  | .loss _ | .mark _ => 3
  | .outOff => 2
  | .restartG => 1
  | .record => 0

/-- The main tandem that a patrol mechanism belongs to (Table 2-3). -/
def mechSide (n : Nat) : Option Side :=
  if n = 0x01 ∨ n = 0x0C ∨ n = 0x1A then some .a else if n = 0x02 ∨ n = 0x0D ∨ n = 0x1B then some .b else none

def Wrd.serves (w : Wrd) : Side → Bool
  | .a => w.serveA | .b => w.serveB

/-- The loss of a main tandem by mode (Table 4-3): in GATEHOUSE only a PATROL detection arises, and it marks the tandem. -/
def Wrd.lossReact (w : Wrd) (m : Side) (patrol : Bool) : React :=
  match w.mode with
  | .run => .loss m
  | .reduced => if w.serves m then .hold else .record
  | .gatehouse => if patrol then .mark m else .record
  | _ => .record

def Wrd.holdReact (w : Wrd) : React :=
  match w.mode with
  | .run | .reduced => .hold
  | .gatehouse => .pend
  | _ => .record

/-- The reaction to a detection in the present mode. -/
def Wrd.react (w : Wrd) (d : Det) : React :=
  let gLoss : React := if w.mode = .runOut then .record else .restartG
  match d.bit.val with
  | 0 | 7 => w.lossReact .a false
  | 1 | 8 => w.lossReact .b false
  | 2 | 9 => gLoss
  | 5 | 6 | 11 | 14 | 16 => w.holdReact
  | 10 =>
    match mechSide d.detail.toNat with
    | some m => w.lossReact m true
    | none => w.holdReact
  | 12 | 13 => if w.mode = .runOut then .record else .outOff
  | 15 =>
    match d.detail.toNat with
    | 0 => w.lossReact .a false | 1 => w.lossReact .b false | _ => gLoss
  | _ => .record

/-- The recorded detection of a cycle: the most severe, the lowest bit among equals (R96); of two with one bit, the one that
arrived first, with its DETAIL. [log 132 DESIGN CHOICE] -/
def Wrd.recorded (w : Wrd) (l : List Det) : Option Det :=
  l.foldl (fun b d =>
    match b with
    | none => some d
    | some e =>
      if (w.react e).rank < (w.react d).rank ∨ ((w.react e).rank = (w.react d).rank ∧ d.bit < e.bit) then some d
      else some e) none

/-- A detection as WRD_FREC lays it out, VALID set. [log 52 DEDUCED] -/
def State.frecOf (s : State) (d : Det) : W64 :=
  w64 (pack [(63, 1), (24, s.ms), (16, s.wrd.mode.code), (8, d.detail.toNat), (0, d.bit.val)])

/-- The registers and the record of one cycle's detections (R96, R101, R627). -/
def State.recordDets (s : State) (l : List Det) (d : Det) : State :=
  let f := s.frecOf d
  let fresh := l.any fun x => !s.wrd.det.getLsbD x.bit.val
  let s := if fresh then
      s.modSpk fun k => { k with recs := k.recs ++ [{ kind := 2, mode := ⟨s.wrd.mode.code % 8, Nat.mod_lt _ (by decide)⟩,
                                                      ms := BitVec.ofNat 32 s.ms, w2 := f, w3 := 0, w4 := 0 }] }
    else s
  s.modWrd fun w =>
    { w with det := l.foldl (fun m x => m ||| BitVec.ofNat 18 (2 ^ x.bit.val)) w.det,
             faults := satAdd 0xFFFF w.faults l.length, frec := if w.frec.getLsbD 63 then w.frec else f }

/-- The effects of the reactions of one severity (Tables 2-3, 2-4 and 4-3). [log 51 DEDUCED, 52 DEDUCED] -/
def State.reactAll (s : State) (rs : List React) (cause : Nat) : State :=
  let la := rs.contains (.loss .a)
  let lb := rs.contains (.loss .b)
  let s :=
    if rs.contains .hold || (la && lb) then s.toSafeHold cause
    else if la then (if s.wrd.reducedEn && s.wrd.serveB then s.toReduced .a cause else s.toSafeHold cause)
    else if lb then (if s.wrd.reducedEn && s.wrd.serveA then s.toReduced .b cause else s.toSafeHold cause)
    else s
  let bit : Fin 18 := ⟨(cause - 1) % 18, Nat.mod_lt _ (by decide)⟩
  let s := s.modWrd fun w =>
    { w with lostA := if rs.contains (.mark .a) then some (w.lostA.getD bit) else w.lostA,
             lostB := if rs.contains (.mark .b) then some (w.lostB.getD bit) else w.lostB,
             pendHold := if rs.contains .pend then some (w.pendHold.getD bit) else w.pendHold }
  let s := if rs.contains .outOff then
      (s.modWrd fun w => { w with latched := true, hold := 3, esGates := true }).outsOff.gatesClose
    else s
  if rs.contains .restartG then s.restartG else s

/-- Only the most severe of one cycle's reactions are taken (R95). [log 51 DEDUCED] -/
def mostSevere (rs : List React) : List React :=
  rs.filter fun r => rs.all fun q => decide (q.rank ≤ r.rank)

/-- WARDEN_DECISION: the detections of one RC cycle, with a hold command, which ranks with SAFE HOLD (R95, R198). A mode change
that the command makes has cause 0 (R175). With the RC reference stopped the lanes cannot decide (R104). [log 4 DESIGN
CHOICE, 51 DEDUCED, 122 DEDUCED] -/
def State.decideAll (s : State) : State :=
  let l := s.wrd.arrived
  if s.wrd.rcStopped || (l.isEmpty && !s.wrd.holdCmd) then s
  else
    let cmd := s.wrd.holdCmd && (s.wrd.mode == .run || s.wrd.mode == .reduced)
    let rs := l.map s.wrd.react
    let rec_ := s.wrd.recorded l
    let own := !cmd || (rs.contains (.loss .a) && rs.contains (.loss .b))
    let cause := match rec_ with
      | some d => if (if own then 3 else 4) ≤ (s.wrd.react d).rank then d.bit.val + 1 else 0
      | none => 0
    let s := s.modWrd fun w => { w with arrived := [], holdCmd := false, laneA := false, laneB := false }
    let s := match rec_ with
      | some d => s.recordDets l d
      | none => s
    s.reactAll (mostSevere (rs ++ (if cmd then [React.hold] else []))) cause

/-- WARDEN_DECISION (R56, Table 2-3). [log 51 DEDUCED] -/
def execWardenDecision (s : State) : Out := .next s.decideAll

/-! The RC reference and the root (R59, R104, R204, R205). -/

/-- The root-side monitor acts: outputs low, tandems A and B held, the gates closed, ROOTGOOD 0 (R104). -/
def State.rcStop (s : State) : State :=
  (((s.modWrd fun w => { w with rcStopped := true }).modClk fun c => { c with rootgood := false }).settleOuts.gatesClose).holdTandems

/-- RC_REFERENCE_STOPPED (R104). [log 51 DEDUCED] -/
def execRcReferenceStopped (s : State) : Out := .next (if s.gate.pgood then s.rcStop else s)

/-- PLL_LOCK_LOSS (R204). -/
def State.pllLost (s : State) : State := (s.modClk fun c => { c with plllock := false }).detect 5 4
def execPllLockLoss (s : State) : Out := .next (if s.gate.pgood then s.pllLost else s)
def execPllRelock (s : State) : Out := .next (if s.gate.pgood then s.modClk fun c => { c with plllock := true } else s)

/-- The root gives no edge. [log 56 DESIGN CHOICE] -/
def State.rootLost (s : State) : State := ((s.modClk fun c => { c with rootgood := false }).detect 5 2).settleOuts

def execClockEdgeLoss (which : EdgeLoss) (s : State) : Out :=
  .next <|
    if !s.gate.pgood then s
    else match which with
      | .root => s.rootLost
      | .rc => (s.detect 5 3).rcStop
      | .pll => s.pllLost

/-- The crystal stops (R205). [log 56 DESIGN CHOICE] -/
def State.crystalOff (s : State) : State := (s.modClk fun c => { c with crystal := false }).rootLost

/-- CRYSTAL_STOP (R205). [log 56 DESIGN CHOICE] -/
def execCrystalStop (s : State) : Out := .next (if s.gate.pgood then s.crystalOff else s)

/-! The patrol (R86 to R89). -/

/-- The mechanisms of Table 2-6. [log 57 DEDUCED] -/
def mechanisms : List Nat := (List.range 0x21).filter fun n => n ≠ 0 ∧ n ≠ 6 ∧ n ≠ 7

/-- A patrol detection. [log 57 DEDUCED] -/
def State.patrolFail (s : State) (detail : Nat) : State :=
  (s.modWrd fun w => { w with fail := true, last := BitVec.ofNat 8 detail, sweepBad := true }).detect 10 detail

/-- The sweep has tested both halves of every mechanism (R86). [log 57 DEDUCED] -/
def Wrd.sweepFull (w : Wrd) : Bool :=
  mechanisms.all fun n => [(0 : Fin 2), 1].all fun h => w.tested.contains (BitVec.ofNat 8 n, h)

/-- The patrol runs: it is not paused, and the root that clocks it runs (R86, R89, R205). -/
def State.patrols (s : State) : Bool := s.wrd.patrol && !s.wrd.pause && s.clk.crystal

/-- PATROL_TEST of one half: the mechanism is good unless it holds a fault, real or injected. [log 57 DEDUCED] -/
def execPatrolTest (part : MechHalf) (good : Bool) (s : State) : Out :=
  let mech := part.mech
  .next <|
    if s.patrols && mechanisms.contains mech.toNat then
      let s := s.modWrd fun w =>
        { w with tested := if w.tested.contains (mech, part.half) then w.tested else w.tested ++ [(mech, part.half)] }
      if !good || s.wrd.injected.contains mech then s.patrolFail mech.toNat else s
    else s

/-- TEST_PULSE_END (R75), timed in D57 (R205): the settle time starts; a latent fault of the input path shows (R86). [log 57
DEDUCED] -/
def execTestPulseEnd (ch : Side) (s : State) : Out :=
  .next <| s.rooted fun s =>
    let low := match ch with | .a => s.wrd.taLow | .b => s.wrd.tbLow
    if low then
      let s := s.modWrd fun w => { (w.pulseLevel ch false) with pulseEnd := some s.us }
      if s.patrols && s.wrd.injected.contains 0x1F then s.patrolFail 0x1F else s
    else s

/-- PATROL_SWEEP_END (R86): FIRST is set where the first sweep since power-good ends without failure, every mechanism tested
(R106). [log 57 DEDUCED] -/
def execPatrolSweepEnd (s : State) : Out :=
  .next <|
    if s.patrols then
      s.modWrd fun w =>
        { w with sweeps := w.sweeps + 1, first := w.first || (!w.swept && !w.sweepBad && w.sweepFull), swept := true,
                 sweepBad := false, tested := [] }
    else s

def execPatrolOverrun (s : State) : Out := .next (if s.wrd.patrol && !s.wrd.pause then s.patrolFail 0xFF else s)

/-- A write of WRD_PCTL, in SERVICE alone. -/
def State.pctlWrite (s : State) (v : Nat) : State :=
  if s.wrd.mode = .service then s.modWrd fun w => { w with pause := bitOf v 0 } else s

/-- A write of WRD_PINJ, in SERVICE alone. [log 57 DEDUCED] -/
def State.pinjWrite (s : State) (v : Nat) : State :=
  if s.wrd.mode = .service then
    s.modWrd fun w =>
      let m := BitVec.ofNat 8 v
      { w with pinjMech := m, pinjGo := w.pinjGo || bitOf v 31,
               injected := if bitOf v 31 && mechanisms.contains m.toNat && !w.injected.contains m then w.injected ++ [m]
                 else w.injected }
  else s

/-! The registers. -/

/-- A value that WRD_ESCFG accepts (R92). -/
def escfgOk (v : Nat) : Bool :=
  decide (2 ≤ fld v 0 4 ∧ fld v 0 4 ≤ 10 ∧ 1 ≤ fld v 8 8 ∧ fld v 8 8 ≤ 100 ∧ 1 ≤ fld v 16 9 ∧ fld v 16 9 ≤ 500)

/-- The settings of WRD_ESCFG. -/
def Wrd.setEscfg (w : Wrd) (v : Nat) : Wrd := { w with escDisc := fld v 16 9, escTpp := fld v 8 8, escTpw := fld v 0 4 }

def wrdWide (off : Nat) : Bool := off == 0x20

def Wd.card (d : Wd) : Nat := pack [(31, b2n d.lock), (30, b2n d.next), (16, d.opn), (0, d.close)]

def wrdRead (off : Nat) (s : State) : Nat × State :=
  let w := s.wrd
  if off = 0x0 then (0x4D550401, s)
  else if off = 0x8 then
    (pack [(8, w.cause.toNat), (6, w.mode.integ), (5, b2n w.serveB), (4, b2n w.serveA), (0, w.mode.code)], s)
  else if off = 0x10 then (pack [(31, b2n w.cfgLock), (0, b2n w.reducedEn)], s)
  else if off = 0x18 then (w.det.toNat, s)
  else if off = 0x20 then (w.frec.toNat, s)
  else if off = 0x28 then (pack [(16, w.gloss), (0, w.faults)], s.modWrd fun w => { w with faults := 0 })
  else if off = 0x30 then (s.ms, s)
  else if off = 0x40 then (w.wdA.card, s)
  else if off = 0x50 then (w.wdB.card, s)
  else if off = 0x60 then (w.wdG.card, s)
  else if off = 0x80 then
    (pack [(11, w.hold.val), (10, b2n w.latched), (8, b2n w.swstop), (4, b2n w.rbB), (3, b2n w.rbA), (2, b2n w.rate),
      (1, b2n w.toggling), (0, b2n s.permit)], s)
  else if off = 0x88 then
    (pack [(5, b2n w.pulseB), (4, b2n w.pulseA), (3, b2n w.disc), (2, b2n w.demand), (1, b2n w.closedB),
      (0, b2n w.closedA)], s)
  else if off = 0x90 then (pack [(31, b2n w.escfgLock), (16, w.escDisc), (8, w.escTpp), (0, w.escTpw)], s)
  else if off = 0xC0 then (b2n w.pause, s)
  else if off = 0xC8 then (pack [(25, b2n w.first), (24, b2n w.fail), (16, w.last.toNat), (0, w.sweeps.toNat)], s)
  else if off = 0xD0 then (pack [(31, b2n w.pinjGo), (0, w.pinjMech.toNat)], s)
  else (0, s)

def wrdWrite (who : Tandem) (off v : Nat) (s : State) : State :=
  if off = 0x10 then (if s.wrd.cfgLock then s else s.modWrd fun w => { w with reducedEn := bitOf v 0 })
  else if off = 0x18 then s.modWrd fun w => { w with det := w.det &&& ~~~(BitVec.ofNat 18 v) }
  else if off = 0x20 then (if bitOf v 63 then s.modWrd fun w => { w with frec := 0 } else s)
  else if off = 0x40 then s.wdConfig who .a v
  else if off = 0x50 then s.wdConfig who .b v
  else if off = 0x60 then s.wdConfig who .g v
  else if off = 0x48 then s.wdService who .a v
  else if off = 0x58 then s.wdService who .b v
  else if off = 0x68 then s.wdService who .g v
  else if off = 0x80 then s.safeWrite v
  else if off = 0x90 then (if s.wrd.escfgLock || !escfgOk v then s else s.modWrd fun w => w.setEscfg v)
  else if off = 0xC0 then s.pctlWrite v
  else if off = 0xC8 then (if bitOf v 24 then s.modWrd fun w => { w with fail := false } else s)
  else if off = 0xD0 then s.pinjWrite v
  else s

end Sys2Proof.Machine
end

