-- ==== Sys2Proof/Machine/Resets.lean ====
section
/-! DEFINITION. Power and warm resets, unit resets and gating, RUN-OUT and its end, block CLK (chapter 4), with the run-out
sequence of chapter 13. -/

namespace Sys2Proof.Machine

/-! What a reset leaves of each unit. -/

/-- A warm or power reset: no register but the flash's contents. [log 75 DEDUCED] -/
def XspPort.reset' (p : XspPort) : XspPort := { XspPort.reset with flash := p.flash }

/-- The bits of a set of domains. [log 76 DEDUCED] -/
def domMask (l : List Nat) : BitVec 60 := l.foldl (fun m d => m ||| BitVec.ofNat 60 (2 ^ d)) 0

/-- The domains of a unit of GATE_UNITS (Table 4-4). -/
def fuseDomains (n : Nat) : List Nat :=
  match n with
  | 0 => [8, 9, 10, 11, 12, 42] | 1 => [28, 43] | 2 => [29, 44] | 3 => [45, 58] | 4 => [0, 2] | 5 => [1, 3]
  | 6 => [22, 24] | 7 => [48] | 8 => [49] | 9 => [50] | _ => []

/-- The domains that hardware gates: those of fuse-disabled units, and D59 while JTAG is locked (R184, R206). -/
def State.hwGated (s : State) : BitVec 60 :=
  domMask (((List.range 10).filter s.unitOff).flatMap fuseDomains) ||| (if s.gate.jtaglock then domMask [59] else 0)

/-- The value of CLK_GATE after a warm reset. -/
def State.gatedReset (s : State) : BitVec 60 := 0xF ||| s.hwGated

/-- The CLK registers after a warm reset (R193); ROOTGOOD and PLLLOCK too read 0 until the next window and report of the
lock. [log 56 DESIGN CHOICE] -/
def State.clkWarm (s : State) : Clk :=
  { Clk.reset with
      badkey := s.clk.badkey, lastsrc := s.clk.lastsrc, drainfail := s.clk.drainfail, gated := s.gatedReset,
      warm := s.clk.warm, tra := s.clk.tra, trb := s.clk.trb, crystal := s.clk.crystal }

/-- The WRD registers after a warm reset (R108, R192). -/
def Wrd.warmReset (w : Wrd) : Wrd :=
  { w with cfgLock := false, reducedEn := false, wdA := .reset, wdB := .reset, wdG := .reset, escfgLock := false,
           escDisc := Wrd.reset.escDisc, escTpp := Wrd.reset.escTpp, escTpw := Wrd.reset.escTpw, pause := false,
           pinjMech := 0, pinjGo := false, injected := [], holdCmd := false, laneA := false, laneB := false, lostA := none, lostB := none,
           pendHold := none }

/-- The SPK registers after a warm reset (R646). -/
def Spk.warmReset (k : Spk) : Spk := { k with opA := .reset, opB := .reset, opG := .reset, waitUs := 0 }

/-- The DRC registers after a warm reset (R591); the channels are in self-refresh. -/
def Drc.warmReset (d : Drc) : Drc :=
  { Drc.reset with a := { d.a with sref := d.a.ready }, b := { d.b with sref := d.b.ready }, cleared := d.cleared,
                   fresh := d.fresh }

/-- The site is a word of the gatehouse TCM. -/
def Site.inTcm : Site → Bool
  | .word w => 0x10000000 ≤ 8 * w && 8 * w < 0x10080000
  | _ => false

/-- The site is a word of the Spenik store, whose contents outlast every reset (Table 4-5). -/
def Site.inSpenik : Site → Bool
  | .word w | .away w => spkBase ≤ 8 * w && 8 * w < 0x44000000
  | .metadata _ _ => true
  | _ => false

/-- Every block that a warm reset resets (Table 4-5, R591, R646, R724, R775, R814, R847, R885, R913). [log 70 DEDUCED] -/
def State.warmBlocks (s : State) : State :=
  let s := s.nfcReset
  { s with irt := s.irt.warmReset, drc := s.drc.warmReset,
           xsp := { Xsp.reset with a := s.xsp.a.reset', b := s.xsp.b.reset' },
           spk := s.spk.warmReset, wrd := s.wrd.warmReset, clk := s.clkWarm, grm := { s.grm with evalReq := none },
           cta := [], pio := s.pio.board,
           usb := { s.usb.unitReset with idok := false, served := false }, canA := .reset, canB := .reset, uat := .reset,
           schA := .reset, schB := .reset, mem := tclr s.mem (0x10000000 / 8) (0x10080000 / 8),
           upset := s.upset.filter fun u => !u.site.inTcm }

/-! The stop of the tandems (R188, R559, R624). -/

/-- The entry is for the SRAM or for DRAM. -/
def SbEnt.volatile (e : SbEnt) : Bool := decide (0x20000000 ≤ e.addr ∧ e.addr < 0x20400000) || decide (dramBase ≤ e.addr)

/-- A tandem stops at an instruction boundary; of its buffered stores those to the SRAM and to DRAM go on. -/
def Cpu.halt (c : Cpu) : Cpu :=
  { c with run := if c.run = .held then .held else .stopped, wait := .none, sb := c.sb.filter SbEnt.volatile }

/-- The stop rolls back a tandem's epochs (R188, R624). [log 70 DEDUCED] -/
def State.haltAll (s : State) : State :=
  [Tandem.a, .b, .g].foldl (fun s t => (s.modCpu t Cpu.halt).rollback t) s

/-- The first `n` entries that the stop left reach the memories. [log 71 DESIGN CHOICE] -/
def State.flush (s : State) (t : Tandem) (n : Nat) : State :=
  let l := (s.cpu t).sb
  (l.take n).foldl (fun s e => s.writeWords t (e.writes s.memWord)) (s.modCpu t fun c => { c with sb := [] })

/-- Every entry that the stop left reaches the memories. -/
def State.flushAll (s : State) : State :=
  [Tandem.a, .b, .g].foldl (fun s t => s.flush t (s.cpu t).sb.length) s

/-! The warm reset (R188 to R193, R199, R203). -/

/-- A mode in which a warm reset may start (T8). -/
def Mode.warmable (m : Mode) : Bool := m == .run || m == .reduced || m == .safeHold || m == .service

/-- WARM_RESET: the start, after the reactions to detections of the same cycle (R199). [log 4 DESIGN CHOICE, 70 DEDUCED] -/
def execWarmReset (s : State) : Out :=
  .next <| s.rooted fun s =>
    match s.clk.warmReq with
    | none => s
    | some src =>
      if !s.wrd.mode.warmable then s
      else
        let s := s.decideAll
        let s := (s.enter .gatehouse 0 false false).haltAll.modClk fun c => { c with lastsrc := src }
        let s := s.warmBlocks
        (s.modClk fun c => { c with draining := true }).modGate fun g => { g with released := false }

/-- A dirty line is lost: the memory behind it keeps what it held. -/
def L2Line.lost (e : L2Line) (s : State) : State :=
  if e.dirty then ((lineWords e.line).zip e.back).foldl (fun s p => s.setMem p.1 p.2) s else s

/-- The L2 loses its lines; those of `keep` have been written back before (Table 4-5, R203, R631). [log 71 DESIGN CHOICE] -/
def State.l2Cut (s : State) (keep : Nat → Bool) : State :=
  let ls := (List.range s.l2Lines.length).zip s.l2Lines
  let s := ls.foldl (fun s p => if keep p.1 then s.hw (s.l2Drop p.2) else p.2.lost s) s
  { s with l2 := [], upset := s.upset.filter fun u => match u.site with | .l2 _ => false | _ => true }

/-- E: the tandems are reset, tandem G leaves reset but where its eight losses hold it there (R61), and the gatehouse sequence
starts at step 3 (R188). [log 70 DEDUCED] -/
def State.drained (s : State) : State :=
  let s := s.heal fun x => x.ofTandem .a || x.ofTandem .b || x.ofTandem .g
  let s := { s with cpuA := .reset, cpuB := .reset, cpuG := if 8 ≤ s.wrd.gloss then .reset else gStart }
  let s := s.modWrd fun w => { w with wdG := .reset }
  let s := s.modClk fun c => { c with draining := false, warm := satAdd 0xFFFF c.warm 1 }
  s.modGate fun g => { g.restart s.us with ledgerdone := s.spk.recovered, ledgerLate := false,
                                                     preA := 0, preB := 0, preC := 0, preD := 0 }

/-- DRAIN_END (R188, R631): every dirty line has been written back (Table 4-5). [log 70 DEDUCED] -/
def execDrainEnd (s : State) : Out :=
  .next <| s.rooted fun s => if s.clk.draining then (s.flushAll.l2Cut fun _ => true).drained else s

/-- DRAIN_TIMEOUT (R203): how many buffered stores and which dirty lines had reached the memories are free values. [log 71
DESIGN CHOICE] -/
def execDrainTimeout (s : State) : Out :=
  .next <| s.rooted fun s =>
    if s.clk.draining then
      let n := s.freeVal.toNat
      let s := [Tandem.a, .b, .g].foldl (fun s t => s.flush t (n / 16 ^ t.idx % 16)) s
      let lines := s.l2Lines.length
      let s := s.l2Cut fun i => (Config.free (s.free + 1 + i)).getLsbD 0
      ((({ s with free := s.free + 1 + lines } : State).modClk fun c => { c with drainfail := true }).mchk 0x14).drained
    else s

/-! The power reset (R62, Table 4-5). -/

/-- What stays of the Spenik store and its log when power fails: the array, the COMMITTED epochs, the warden ring. Whether an
epoch in MARKING had its first mark complete is a free value (R630). [log 73 DEDUCED] -/
def Spk.powerLoss (k : Spk) (marked : Bool) : Spk :=
  let mark (k : Spk) (e : Epoch) : Spk :=
    match e.st with
    | .committed => { k with closed := k.closed ++ [e] }
    | .marking =>
      if marked then
        let n := (k.ep e.owner + 1) % 2 ^ 48
        { k.setEp e.owner n with closed := k.closed ++ [{ e with st := .committed, num := n }] }
      else { k with partials := k.partials + 1 }
    | .sealing => { k with partials := k.partials + 1 }
    | .waiting => k
  k.closed.foldl mark
    { Spk.reset with array := k.array, seq := k.seq, epA := k.epA, epB := k.epB, epG := k.epG, newest := k.newest,
                     ring := k.ring, recno := k.recno, skipped := k.skipped, holdok := k.holdok, vinok := k.vinok,
                     damaged := k.damaged, needRec := k.needRec, partials := k.partials }

/-- Rail `n` of Table 2-5 falls below its band: without VDD_USB there is no pull-up (Table 21-12). [log 126 DEDUCED] -/
def State.railDown (s : State) (n : Nat) : State :=
  (s.modWrd fun w => { w with rails := w.rails &&& ~~~(BitVec.ofNat 7 (2 ^ n)) }).modUsb fun u => if n = 6 then u.quiet else u

/-- A power reset: every field at its reset value but what survives a loss of power, and the levels of the board. [log 73
DEDUCED, 74 UNVERIFIED] -/
def State.powerReset (s : State) : State :=
  let s := s.nfcReset
  let spk := s.spk.powerLoss (s.freeVal.getLsbD 0)
  { State.reset with
      pending := s.pending, free := s.free + 1, rdata := s.rdata, spk := spk,
      gate := { Gate.reset with fuses := s.gate.fuses }, grm := { Grm.reset with saved := s.grm.saved },
      xsp := { Xsp.reset with a := s.xsp.a.reset', b := s.xsp.b.reset' },
      nfc := { s.nfc with lockReg := 0, uid := 0, hold := none }, usb := { Usb.reset with vbus := s.usb.vbus, ocPins := s.usb.ocPins },
      pio := s.pio.board, clk := { Clk.reset with crystal := s.clk.crystal },
      wrd := { Wrd.reset with rails := s.wrd.rails &&& 0x7D }, upset := s.upset.filter fun u => u.site.inSpenik }

/-- POWER_RESET (T11). -/
def execPowerReset (s : State) : Out := .next s.powerReset

/-- SUPPLY_OUT_OF_LIMITS (R60, R62): rail 1 is VDD_AON. A rail below its band leaves its balls high-impedance (R936), the
crystal's among them: rail 4, VIO_18, takes the oscillation with it (R953). [log 126 DEDUCED] -/
def execSupplyOutOfLimits (rail : RailTrip) (s : State) : Out :=
  .next <|
    if !s.gate.pgood then s
    else
      let n := rail.rail.val
      let s := if rail.below then s.railDown n else s
      if n = 1 then s.powerReset
      else
        let s := s.detect 6 n
        if rail.below && n == 4 then s.crystalOff else s

/-! RUN-OUT (R200, R624, R626). -/

/-- VIN_SENSE_TRIP (R622): VINOK falls, and T9 is taken from every mode but RUN-OUT. [log 72 DEDUCED] -/
def execVinSenseTrip (s : State) : Out :=
  .next <|
    if !s.gate.pgood || s.wrd.mode == .runOut then s.modSpk fun k => { k with vinok := false }
    else
      let mode : Fin 8 := ⟨s.wrd.mode.code % 8, Nat.mod_lt _ (by decide)⟩
      let s := s.modSpk fun k =>
        { k with tripMode := mode, tripUs := s.us, holdTrip := k.holdok, holdFell := !k.holdok, vinok := false, runoutRec := false,
                 rollA := k.rollWords .a, rollB := k.rollWords .b, rollG := k.rollWords .g,
                 partials := k.partials + (k.closed.filter fun e => e.st == .sealing).length }
      let s := s.nfcAbandon.modWrd fun w => { w with tripDet := 0 }
      let s := (s.enter .runOut 0 false false).gatesClose.haltAll.flushAll
      let s := s.modClk fun c => { c with warmReq := none, draining := false }
      let s := { s with canA := s.canA.cutOff, canB := s.canB.cutOff, pio := { s.pio with drive := false },
                        xsp := if s.xsp.busy then { s.xsp with busy := false, done := true } else s.xsp }
      let s := s.modUsb Usb.runOut
      (s.settleSessions none).modClk fun c => { c with warmReq := none }

/-- T10: power-good holds again; a warm reset whose ledger recovery runs in full (R631). An epoch in MARKING has committed
(Table 13-6); a fault record still due stays due. Neither the L2 nor a frame move under way has been kept (Table 14-8). [log
73 DEDUCED] -/
def execRunOutPowerGood (s : State) : Out :=
  .next <|
    if s.wrd.mode = .runOut ∧ s.spk.runoutRec = true ∧ s.spk.vinok = true then
      let s := s.modSpk fun k =>
        let p := k.powerLoss true
        { k with closed := p.closed, epA := p.epA, epB := p.epB, epG := p.epG, norec := k.needRec, needRec := true }
      let s := (s.dropMove.l2Cut fun _ => false).modWrd fun w => { w with rails := 0x7F }
      let s := (s.enter .gatehouse 0 false false).modClk fun c => { c with lastsrc := .t10, crystal := true }
      let s := s.warmBlocks
      (s.modSpk fun k => { k with recovered := false, runoutRec := false, doneSeq := [] }).drained
    else s

/-! Unit resets (R190, R195, Table 4-4). -/

/-- Unit `n` of CLK_URST returns to its reset values. [log 75 DEDUCED] -/
def State.unitReset (s : State) (n : Nat) : State :=
  match n with
  | 0 => (s.modUsb Usb.unitReset).usbSession
  | 1 => s.setCan .a .reset
  | 2 => s.setCan .b .reset
  | 3 => s.nfcReset
  | 4 => { s with cta := [] }
  | 5 => s.modPio fun p => { p.board with drive := p.drive }
  | 6 =>
    let x := s.xsp
    let cut := x.busy && cmdPort x.run.toNat == .b
    { s with xsp := { x with b := x.b.reset', busy := x.busy && !cut, done := x.done || cut } }
  | _ =>
    let k : Fin 5 := ⟨(n - 7) % 4, by omega⟩
    (s.settleSessions none).modSes k fun x => { x with lines := 0, replays := 0, ferr := 0, drop := 0 }

/-- UNIT_RESET: a write of CLK_URST. Tandems A and B do not reach the UART bits. -/
def State.urstWrite (s : State) (who : Tandem) (v : Nat) : State :=
  (List.range 11).foldl (fun s n =>
    if bitOf v n && !s.clk.urst.getLsbD n && (who.isG || decide (n < 7)) then
      (s.modClk fun c => { c with urst := c.urst ||| BitVec.ofNat 11 (2 ^ n) }).unitReset n
    else s) s

/-- The unit reset of unit `n` ends. -/
def State.urstEnd (s : State) (n : Nat) : State :=
  if s.clk.urst.getLsbD n then
    (s.modClk fun c => { c with urst := c.urst &&& ~~~(BitVec.ofNat 11 (2 ^ n)) }).settleSessions none
  else s

/-- UNIT_RESET_END: within 160 ns. -/
def execUnitResetEnd (unit : Fin 11) (s : State) : Out := .next (s.rooted fun s => s.urstEnd unit.val)

/-! Gating (R184 to R186). -/

/-- The domains that an initiator may gate: the Software ones for tandems A and B, D48 to D50 for tandem G. [log 76 DEDUCED] -/
def gateable (who : Tandem) : BitVec 60 :=
  if who.isG then domMask [48, 49, 50]
  else domMask [8, 9, 10, 11, 12, 22, 24, 28, 29, 40, 41, 42, 43, 44, 45, 51, 52, 53, 54, 55, 56, 58]

/-- A write of CLK_GATE_SET or CLK_GATE_CLR: it awaits an alignment point. [log 76 DEDUCED] -/
def State.gateWrite (s : State) (who : Tandem) (set : Bool) (v : Nat) : State :=
  let m := BitVec.ofNat 60 v &&& gateable who &&& ~~~s.hwGated
  s.modClk fun c =>
    if set then { c with toGate := c.toGate ||| m, toUngate := c.toUngate &&& ~~~m }
    else { c with toUngate := c.toUngate ||| m, toGate := c.toGate &&& ~~~m }

/-- The domains whose gating holds a whole unit of CLK_URST in reset (R186). -/
def unitDomains (n : Nat) : List Nat :=
  match n with
  | 0 => [8, 9, 10, 11, 12, 42] | 1 => [28, 43] | 2 => [29, 44] | 3 => [45, 58] | 4 => [40] | 5 => [41, 55, 56]
  | 6 => [22, 24] | 8 => [48] | 9 => [49] | 10 => [50] | _ => []

/-- GATING_TAKES_EFFECT: at an alignment point. A unit with a newly gated domain is reset; a newly gated counter group resets
its channels alone. [log 13 DESIGN CHOICE, 76 DEDUCED] -/
def State.gatingEffect (s : State) : State :=
  let fresh := s.clk.toGate &&& ~~~s.clk.gated
  let s := s.modClk fun c => { c with gated := (c.gated ||| c.toGate) &&& ~~~c.toUngate, toGate := 0, toUngate := 0 }
  let s := (List.range 11).foldl (fun s n => if (unitDomains n).any fresh.getLsbD then s.unitReset n else s) s
  let groups := { s with cta := s.cta.filter fun (p : Nat × Chan) => !fresh.getLsbD (51 + p.1 / 8) }
  groups.settleSessions none

/-- GATING_TAKES_EFFECT: at an alignment point of the root, which the crystal's stop takes away (R185, R205). -/
def execGatingTakesEffect (s : State) : Out := .next (s.rooted State.gatingEffect)

/-! CLK_RSTCMD (R175, R194). -/

/-- A write of CLK_RSTCMD. -/
def State.rstcmd (s : State) (who : Tandem) (v : Nat) : State :=
  let serving := s.wrd.mode == .run || s.wrd.mode == .reduced
  if who = .g then s
  else if fld v 16 16 ≠ 0x7A15 then s.modClk fun c => { c with badkey := satAdd 0xFF c.badkey 1 }
  else match fld v 0 2, serving with
    | 1, true => s.modClk fun c => { c with warmReq := some (c.warmReq.getD (if who = .a then .cmdA else .cmdB)) }
    | 2, true => s.modWrd fun w => { w with holdCmd := true }
    | _, _ => s

/-! The registers. -/

def WarmSrc.code : WarmSrc → Nat
  | .none => 0 | .resetVerb => 1 | .exitVerb => 2 | .cmdA => 3 | .cmdB => 4 | .t10 => 5

def clkWide (off : Nat) : Bool := off == 0x20 || off == 0x28 || off == 0x30

def clkRead (off : Nat) (s : State) : Nat × State :=
  let c := s.clk
  if off = 0x0 then (0x4D550101, s)
  else if off = 0x8 then
    (pack [(16, c.badkey), (9, c.lastsrc.code), (8, b2n c.drainfail), (1, b2n c.rootgood), (0, b2n c.plllock)],
      s.modClk fun c => { c with badkey := 0 })
  else if off = 0x10 then (pack [(16, c.rccnt.toNat), (0, c.fabcnt.toNat)], s)
  else if off = 0x20 ∨ off = 0x28 ∨ off = 0x30 then (c.gated.toNat, s)
  else if off = 0x48 then (c.urst.toNat, s)
  else if off = 0x50 then (pack [(24, c.trb), (16, c.tra), (0, c.warm)], s)
  else (0, s)

def clkWrite (who : Tandem) (off v : Nat) (s : State) : State :=
  if off = 0x28 then s.gateWrite who true v
  else if off = 0x30 then s.gateWrite who false v
  else if off = 0x40 then s.rstcmd who v
  else if off = 0x48 then s.urstWrite who v
  else s

end Sys2Proof.Machine
end

