-- ==== Sys2Proof/Machine/Sha.lean ====
section
/-! DEFINITION. SHA-256 (FIPS 180-4), HMAC-SHA-256 (FIPS 198-1) and ECDSA verification on P-256 (FIPS 186-5), which
R123 and R870 name. -/

namespace Sys2Proof.Machine

abbrev W32 := BitVec 32

/-- The largest r below 2^b + `r` with r^k at most n, found from the highest bit. -/
def rootFrom (k n : Nat) : Nat → Nat → Nat
  | 0, r => r
  | b + 1, r => rootFrom k n b (if (r + 2 ^ b) ^ k ≤ n then r + 2 ^ b else r)

/-- The first 64 primes. -/
def shaPrimes : List Nat :=
  [2, 3, 5, 7, 11, 13, 17, 19, 23, 29, 31, 37, 41, 43, 47, 53, 59, 61, 67, 71, 73, 79, 83, 89, 97, 101, 103, 107, 109, 113, 127,
   131] ++
  [137, 139, 149, 151, 157, 163, 167, 173, 179, 181, 191, 193, 197, 199, 211, 223, 227, 229, 233, 239, 241, 251, 257, 263, 269,
   271, 277, 281, 283, 293, 307, 311]

/-- The first 32 bits of the fraction of the k-th root of a number. -/
def rootFrac (k p : Nat) : W32 := BitVec.ofNat 32 (rootFrom k (p * 2 ^ (32 * k)) 37 0)

/-- The round constants: cube roots of the primes (FIPS 180-4, 4.2.2). -/
def shaK : List W32 := shaPrimes.map (rootFrac 3)

/-- The initial hash value: square roots of the first eight (FIPS 180-4, 5.3.3). -/
def shaInit : List W32 := (shaPrimes.take 8).map (rootFrac 2)

/-- The exclusive or of a word's rotations. -/
def rots (x : W32) (by_ : List Nat) : W32 := by_.foldl (fun y n => y ^^^ x.rotateRight n) 0

/-- One round on the eight working words, oldest last in each half, with the constant and schedule word summed. -/
def shaRound (kw : W32) (st : List W32) : List W32 :=
  match st with
  | [p, q, r, s, u, v, x, y] =>
    let hi := y + rots u [6, 11, 25] + (x ^^^ (u &&& (v ^^^ x))) + kw
    let lo := rots p [2, 13, 22] + ((p &&& (q ||| r)) ||| (q &&& r))
    [hi + lo, p, q, r, s + hi, u, v, x]
  | _ => st

/-- The next schedule word from the latest sixteen, oldest first. -/
def shaNext (w : List W32) : W32 :=
  let at_ (i : Nat) : W32 := (w[i]?).getD 0
  at_ 0 + (rots (at_ 1) [7, 18] ^^^ (at_ 1 >>> 3)) + at_ 9 + (rots (at_ 14) [17, 19] ^^^ (at_ 14 >>> 10))

/-- The rounds, one for each constant left, from a window of sixteen schedule words. -/
def shaRounds : List W32 → List W32 → List W32 → List W32
  | [], _, st => st
  | k :: ks, w, st => shaRounds ks (w.drop 1 ++ [shaNext w]) (shaRound (k + (w[0]?).getD 0) st)

def shaBlock (st : List W32) (block : List Byte) : List W32 :=
  let w := (List.range 16).map fun i => BitVec.ofNat 32 (ofBytesBE ((block.drop (4 * i)).take 4))
  List.zipWith (· + ·) st (shaRounds shaK w st)

/-- The n bytes of a number, highest first. -/
def bytesBE (n v : Nat) : List Byte := (bytesOf n v).reverse

/-- The message with its padding. -/
def shaPad (m : List Byte) : List Byte :=
  m ++ [0x80] ++ List.replicate ((119 - m.length % 64) % 64) 0 ++ bytesBE 8 (8 * m.length)

def sha256 (m : List Byte) : List Byte :=
  let p := shaPad m
  let blocks := (List.range (p.length / 64)).map fun i => (p.drop (64 * i)).take 64
  (blocks.foldl shaBlock shaInit).flatMap fun x => bytesBE 4 x.toNat

/-- HMAC-SHA-256; the keys of this machine hold at most 64 bytes. -/
def hmacSha256 (key m : List Byte) : List Byte :=
  let k := key ++ List.replicate (64 - key.length) 0
  sha256 (k.map (· ^^^ 0x5C) ++ sha256 (k.map (· ^^^ 0x36) ++ m))

/-! The curve P-256. A point is none (at infinity) or its affine coordinates. -/

def p256p : Nat := 2 ^ 256 - 2 ^ 224 + 2 ^ 192 + 2 ^ 96 - 1
def p256n : Nat := 0xFFFFFFFF00000000FFFFFFFFFFFFFFFFBCE6FAADA7179E84F3B9CAC2FC632551
def p256b : Nat := 0x5AC635D8AA3A93E7B3EBBD55769886BC651D06B0CC53B0F63BCE3C3E27D2604B
def p256g : Nat × Nat :=
  (0x6B17D1F2E12C4247F8BCE6E563A440F277037D812DEB33A0F4A13945D898C296,
   0x4FE342E2FE1A7F9B8EE7EB4A7C0F9E162BCE33576B315ECECBB6406837BF51F5)

/-- x to the power e modulo m, by the low `fuel` bits of e. -/
def powMod (m : Nat) : Nat → Nat → Nat → Nat
  | 0, _, _ => 1 % m
  | fuel + 1, x, e =>
    let r := powMod m fuel (x * x % m) (e / 2)
    if e % 2 = 1 then r * x % m else r

/-- The inverse modulo a prime. -/
def invMod (m x : Nat) : Nat := powMod m 256 (x % m) (m - 2)

/-- x - y modulo m, for y below m. -/
def subMod (m x y : Nat) : Nat := (x + (m - y % m)) % m

/-- The sum of two points. -/
def p256Add : Option (Nat × Nat) → Option (Nat × Nat) → Option (Nat × Nat)
  | none, q => q
  | p, none => p
  | some (x1, y1), some (x2, y2) =>
    let m := p256p
    if x1 = x2 ∧ (y1 + y2) % m = 0 then none
    else
      let l := if x1 = x2 then (3 * x1 * x1 + (m - 3)) * invMod m (2 * y1) % m
        else subMod m y2 y1 * invMod m (subMod m x2 x1) % m
      let x3 := subMod m (subMod m (l * l) x1) x2
      some (x3, subMod m (l * subMod m x1 x3) y1)

/-- k times a point, by the low `fuel` bits of k. -/
def p256Mul : Nat → Nat → Option (Nat × Nat) → Option (Nat × Nat)
  | 0, _, _ => none
  | fuel + 1, k, q =>
    let r := p256Mul fuel (k / 2) (p256Add q q)
    if k % 2 = 1 then p256Add r q else r

/-- The point lies on the curve (R123). -/
def onP256 (x y : Nat) : Bool :=
  decide (x < p256p ∧ y < p256p) && decide (y * y % p256p = (x * x * x + (p256p - 3) * x + p256b) % p256p)

/-- ECDSA verification of a digest with the key (qx, qy) and the signature (r, s) (FIPS 186-5). -/
def ecdsaOk (digest : List Byte) (qx qy r s : Nat) : Bool :=
  let n := p256n
  if 1 ≤ r ∧ r < n ∧ 1 ≤ s ∧ s < n then
    let w := invMod n s
    let u1 := ofBytesBE digest * w % n
    let u2 := r * w % n
    match p256Add (p256Mul 256 u1 (some p256g)) (p256Mul 256 u2 (some (qx, qy))) with
    | none => false
    | some (x, _) => x % n == r
  else false

end Sys2Proof.Machine
end

