-- ==== Sys2Proof/Machine/Image.lean ====
section
/-! DEFINITION. The Xomaox image: its header, signature and option records, and the checks of Table 3-3 (chapter 3). -/

namespace Sys2Proof.Machine

/-! Bytes. -/

/-- The byte at an offset of a value. -/
def at8 (v : List Byte) (i : Nat) : Nat := ((v[i]?).getD 0).toNat
/-- Bytes of a value as a little-endian number. -/
def le (v : List Byte) (lo n : Nat) : Nat := ofBytes ((v.drop lo).take n)
/-- Bytes of a value as a big-endian number. -/
def be (v : List Byte) (lo n : Nat) : Nat := ofBytesBE ((v.drop lo).take n)
/-- The bytes are all 0. -/
def zeros (v : List Byte) (lo n : Nat) : Bool := ((v.drop lo).take n).all (· == 0)

/-- Bytes of a port's flash. [log 90 DESIGN CHOICE] -/
def XspPort.bytes (p : XspPort) (lo n : Nat) : List Byte := (List.range n).map fun i => tget 0xFF p.flash (lo + i)

/-! The record types of Table 3-4. -/

def tSAFETY : Nat := 0x8001
def tXSPI : Nat := 0x8002
def tDRAM : Nat := 0x8003
def tGPATCH : Nat := 0x8004
def tPROFILE : Nat := 0x0005
def tPIOBANK : Nat := 0x0006
def tCANBT : Nat := 0x0007
def tUSBID : Nat := 0x0008
def tUSBSTR : Nat := 0x0009
def tCONSOLE : Nat := 0x000A
def tNFCMAKER : Nat := 0x000B
def tLOAD : Nat := 0x800C
def tENTRY : Nat := 0x800D

/-- The maximum count of a known type; 0 for an unknown one. -/
def typeMax (t : Nat) : Nat :=
  if t = tGPATCH then 32
  else if t = tPIOBANK ∨ t = tLOAD then 16
  else if t = tCANBT then 2
  else if t = tUSBSTR then 8
  else if [tSAFETY, tXSPI, tDRAM, tPROFILE, tUSBID, tCONSOLE, tNFCMAKER, tENTRY].contains t then 1
  else 0

/-- A non-zero LEN that a known type permits. -/
def lenOk (t n : Nat) : Bool :=
  if t = tSAFETY ∨ t = tPIOBANK ∨ t = tUSBID then n == 8
  else if t = tXSPI ∨ t = tCANBT ∨ t = tCONSOLE ∨ t = tENTRY then n == 16
  else if t = tDRAM then n == 256
  else if t = tGPATCH then decide (8 ≤ n ∧ n ≤ 4096)
  else if t = tPROFILE then n == 4
  else if t = tUSBSTR then decide (2 ≤ n ∧ n ≤ 254) && n % 2 == 0
  else if t = tNFCMAKER then decide (4 ≤ n ∧ n ≤ 1024) && n % 4 == 0
  else n == 56

/-- One half of an XSPI record (R572, R183). [log 65 DEDUCED] -/
def xspiOk (v : List Byte) (o : Nat) : Bool :=
  decide (at8 v o ≤ 2) && [12, 16, 20, 24, 30, 40, 48, 60, 80, 120, 240].contains (at8 v (o + 1)) &&
    decide (at8 v (o + 3) ≤ 31 ∧ at8 v (o + 4) ≤ 12) && zeros v (o + 5) 3

/-- The MRW list of a DRAM record: the pairs before the number 0xFF (R566). -/
def mrwOf (v : List Byte) : List (Byte × Byte) :=
  ((List.range 32).map fun i => (BitVec.ofNat 8 (at8 v (68 + 2 * i)), BitVec.ofNat 8 (at8 v (69 + 2 * i)))).takeWhile
    fun p => p.1 != 0xFF

/-- A DRAM record (Table 12-6). [log 65 DEDUCED] -/
def dramOk (v : List Byte) : Bool :=
  decide (at8 v 0 ≤ 3 ∧ at8 v 1 ≤ 3) && zeros v 2 2 && ((List.range 32).all fun i => le v (4 + 2 * i) 2 != 0) &&
    ((mrwOf v).all fun p => [1, 2, 3, 10, 11, 12, 14, 15, 17, 18].contains p.1.toNat) && zeros v 132 124

/-- CAN_BT as a CANBT record gives it, field by field (Table 17-2). -/
def canbtWord (v : List Byte) : W64 :=
  w64 (pack [(0, at8 v 4), (6, le v 6 2), (16, at8 v 8), (24, at8 v 5), (32, at8 v 9), (38, at8 v 10), (44, at8 v 11),
    (49, at8 v 12), (55, at8 v 13)])

/-- A CANBT record (Table 17-2, R784). -/
def canbtOk (v : List Byte) : Bool :=
  decide (at8 v 0 ≤ 1 ∧ at8 v 1 ≤ 15) && zeros v 2 2 && zeros v 14 2 &&
    decide (at8 v 4 < 64 ∧ le v 6 2 < 512 ∧ at8 v 9 < 64 ∧ at8 v 10 < 64 ∧ at8 v 11 < 32 ∧ at8 v 12 < 32 ∧ at8 v 13 ≤ 127) &&
    btOk (canbtWord v) (bitOf (at8 v 1) 0)

/-- A CONSOLE record (Table 19-2). -/
def consoleOk (v : List Byte) : Bool :=
  ((List.range 4).all fun i => decide (at8 v i ≤ 11 ∧ at8 v (4 + i) ≤ 7)) && !bitOf (at8 v 4) 2 &&
    decide (at8 v 8 ≤ 3) && zeros v 10 6

/-- A LOAD record's own fields (R130). -/
def loadOk (v : List Byte) : Bool :=
  decide (at8 v 0 ≤ 1) && [1, 2, 5].contains (at8 v 1) && zeros v 2 2 &&
    decide (8 ≤ le v 4 4 ∧ le v 4 4 ≤ 67108864) && le v 4 4 % 8 == 0 && le v 8 8 % 8 == 0 && le v 16 8 % 8 == 0

/-- The fields of a record's value lie in their ranges (Table 3-4). -/
def valueOk (t : Nat) (v : List Byte) : Bool :=
  if t = tSAFETY then decide (at8 v 0 ≤ 1) && zeros v 1 3 && escfgOk (le v 4 4)
  else if t = tXSPI then xspiOk v 0 && xspiOk v 8
  else if t = tDRAM then dramOk v
  else if t = tPROFILE then decide (at8 v 0 ≤ 3) && zeros v 1 3
  else if t = tPIOBANK then decide (at8 v 0 ≤ 15 ∧ at8 v 1 ≤ 1) && zeros v 2 2
  else if t = tCANBT then canbtOk v
  else if t = tUSBID then le v 0 2 != 0
  else if t = tUSBSTR then decide (1 ≤ at8 v 0 ∧ at8 v 0 ≤ 15 ∧ 1 ≤ at8 v 1 ∧ at8 v 1 ≤ 3)
  else if t = tCONSOLE then consoleOk v
  else if t = tLOAD then loadOk v
  else true

/-! Parsing (R124 to R131). -/

/-- The records of an area that begins at offset `off` of the image, up to the first that overruns it or has non-zero padding,
and that one's offset. -/
def parseArea : Nat → Nat → List Byte → List Rec × Option Nat
  | 0, _, _ => ([], none)
  | fuel + 1, off, area =>
    if area.isEmpty then ([], none)
    else
      let len := le area 2 2
      let pad := (4 - len % 4) % 4
      if area.length < 4 + len + pad ∨ zeros area (4 + len) pad = false then ([], some off)
      else
        let q := parseArea fuel (off + 4 + len + pad) (area.drop (4 + len + pad))
        (⟨off, le area 0 2, (area.drop 4).take len⟩ :: q.1, q.2)

/-- Two records that may not stand together: two banks, two controllers, one string index for one device (R703, R751, R786). -/
def clash (a b : Rec) : Bool :=
  a.type == b.type && a.val != [] && b.val != [] &&
    (if a.type = tPIOBANK ∨ a.type = tCANBT then at8 a.val 0 == at8 b.val 0
     else if a.type = tUSBSTR then at8 a.val 0 == at8 b.val 0 && at8 a.val 1 &&& at8 b.val 1 != 0
     else false)

/-- The first record that fails a test of itself and of those before it. [log 63 DEDUCED] -/
def firstBad (bad : List Rec → Rec → Bool) : List Rec → List Rec → Option Nat
  | _, [] => none
  | before, r :: rs => if bad before r then some r.off else firstBad bad (before ++ [r]) rs

/-- Malformed on its own or beside an earlier record (0x17). -/
def badValue (before : List Rec) (r : Rec) : Bool :=
  typeMax r.type != 0 && r.val != [] &&
    (!lenOk r.type r.val.length || !valueOk r.type r.val || before.any fun b => clash b r)

/-- The records of a type with LEN above 0. -/
def recsOf (t : Nat) (rs : List Rec) : List Rec := rs.filter fun r => r.type == t && r.val != []

/-- The first of them. -/
def recOf (t : Nat) (rs : List Rec) : Option (List Byte) := (recsOf t rs).head?.map Rec.val

/-- The flash capacity that the records give a port (R130). [log 65 DEDUCED] -/
def State.imgCap (s : State) (rs : List Rec) (port : Nat) : Nat :=
  match recOf tXSPI rs with
  | none => 0
  | some v =>
    let cap := at8 v (8 * port + 4)
    if cap = 0 ∨ (port = 1 ∧ s.unitOff 6 = true) then 0 else 2 ^ (20 + (cap - 1))

/-- The DRAM that the records install (R566). -/
def State.imgDram (s : State) (rs : List Rec) : Nat :=
  match recOf tDRAM rs with
  | none => 0
  | some v =>
    let size (i : Nat) : Nat := if at8 v i = 0 ∨ s.unitOff (4 + i) = true then 0 else 2 ^ (29 + at8 v i)
    size 0 + size 1

def Rec.port (r : Rec) : Nat := at8 r.val 0
def Rec.len (r : Rec) : Nat := le r.val 4 4
def Rec.src (r : Rec) : Nat := le r.val 8 8
def Rec.dest (r : Rec) : Nat := le r.val 16 8

/-- A LOAD record is inconsistent (R130). -/
def State.loadBad (s : State) (rs : List Rec) (before : List Rec) (r : Rec) : Bool :=
  let d := r.dest
  let dram := s.imgDram rs
  decide (s.imgCap rs r.port < r.src + r.len) ||
    !(decide (0x20000000 ≤ d ∧ d + r.len ≤ 0x20400000) || decide (dramBase ≤ d ∧ d + r.len ≤ dramBase + dram)) ||
    (recsOf tLOAD before).any fun b => decide (b.dest < d + r.len ∧ d < b.dest + b.len)

/-- An ENTRY address is good (R131). -/
def entryOk (rs : List Rec) (a : Nat) : Bool :=
  a % 4 == 0 && (recsOf tLOAD rs).any fun r => at8 r.val 1 == 5 && decide (r.dest ≤ a ∧ a < r.dest + r.len)

/-- A LOAD or ENTRY record is inconsistent (0x1A). -/
def State.inconsistent (s : State) (rs : List Rec) (before : List Rec) (r : Rec) : Bool :=
  if r.val = [] then false
  else if r.type = tLOAD then s.loadBad rs before r
  else if r.type = tENTRY then !(entryOk rs (le r.val 0 8) && entryOk rs (le r.val 8 8))
  else false

/-- The records of an image whose signature has passed, or the failure's code and BADREC (R125 to R131). -/
def State.parseImage (s : State) (img : List Byte) : Except (Nat × Nat) (List Rec) :=
  let q := parseArea 16384 16 ((img.drop 16).take (img.length - 144))
  let rs := q.1
  let many (b : List Rec) (r : Rec) : Bool :=
    typeMax r.type != 0 && decide (typeMax r.type ≤ (b.filter fun x => x.type == r.type).length)
  match (firstBad badValue [] rs).or q.2, firstBad (fun _ r => typeMax r.type == 0 && bitOf r.type 15) [] rs,
      firstBad many [] rs, firstBad (s.inconsistent rs) [] rs with
  | some off, _, _, _ => .error (0x17, off)
  | none, some off, _, _ => .error (0x18, off)
  | none, none, some off, _ => .error (0x19, off)
  | none, none, none, some off => .error (0x1A, off)
  | none, none, none, none => .ok rs

/-! The header and the signature (R121 to R123, R128). -/

/-- FLOOR: the blown bits of fuse row 20 (Table 3-5). -/
def State.floor (s : State) : Nat := ((List.range 64).filter fun i => (tget 0 s.gate.shadow 20).getLsbD i).length

/-- The result of a header, 0 where it passes. -/
def State.headerCheck (s : State) (h : List Byte) : Nat :=
  let n := le h 4 4
  if h.take 3 ≠ [0x58, 0x4D, 0x58] then 0x11
  else if at8 h 3 ≠ 1 ∨ zeros h 12 4 = false then 0x12
  else if n < 144 ∨ 65536 < n ∨ n % 4 ≠ 0 then 0x13
  else if at8 h 11 < s.floor then 0x14
  else 0

/-- The KEYHASH digest: rows 16 to 19, row 16 bits [7:0] first. -/
def State.keyHash (s : State) : List Byte := [16, 17, 18, 19].flatMap fun r => bytesOf 8 (tget 0 s.gate.shadow r).toNat

/-- Step 4 for an image in flash: the records, or the code and BADREC of the first failure. -/
def State.verifyImage (s : State) (p : XspPort) : Except (Nat × Nat) (List Rec) :=
  let n := le (p.bytes 4 4) 0 4
  let img := p.bytes 0 n
  let key := (img.drop (n - 128)).take 64
  let sig := img.drop (n - 64)
  if sha256 key ≠ s.keyHash then .error (0x15, 0)
  else if !(onP256 (be key 0 32) (be key 32 32) &&
      ecdsaOk (sha256 (img.take (n - 64))) (be key 0 32) (be key 32 32) (be sig 0 32) (be sig 32 32)) then .error (0x16, 0)
  else s.parseImage img

/-- The source bytes of a LOAD record match its digest. -/
def loadDigestOk (x : Xsp) (r : Rec) : Bool :=
  sha256 ((if r.port = 0 then x.a else x.b).bytes r.src r.len) == (r.val.drop 24).take 32

end Sys2Proof.Machine
end

