-- ==== Sys2Proof/Machine/Gate.lean ====
section
/-! DEFINITION. The gatehouse sequence from power-good to release, and block GATE (chapter 3). -/

namespace Sys2Proof.Machine

/-! Power-good and fuse load (R116, R118, R135, R136, R158, R206). -/

/-- POWER_GOOD (R116): every rail is in band and the crystal runs; times run from here. [log 126 DEDUCED] -/
def execPowerGood (s : State) : Out :=
  .next (if s.gate.pgood then s
    else
      { s with us := 0, gate := { s.gate with pgood := true, step := 2, origin := 0 }, wrd := { s.wrd with rails := 0x7F },
               clk := { s.clk with crystal := true }, spk := { s.spk with norec := s.spk.needRec, needRec := true } })

/-- The fuse shadow: each row as blown; rows 21 to 24 read 0; an uncorrectable row has no stated value. [log 62 DESIGN
CHOICE] -/
def State.loadShadow (s : State) (errs : List FuseErr) : Tbl W64 :=
  (List.range 128).foldl (fun t n =>
    let bad := errs.any fun e => e.row.val == n && e.uncorrectable
    tset 0 t n (if 21 ≤ n ∧ n ≤ 24 then 0 else if bad then Config.free (s.free + n) else tget 0 s.gate.fuses n)) []

/-- What fuse load leaves in the GATE registers; BADROW names the uncorrectable row where LIFECYCLE is bad too. [log 62
DESIGN CHOICE] -/
def State.fuseRegs (s : State) (errs : List FuseErr) : State :=
  let shadow := s.loadShadow errs
  let unc := (errs.filter fun e => e.uncorrectable).map fun e => e.row.val
  let rows := (errs.map fun e => e.row.val).eraseDups
  let cor := (rows.filter fun n => !unc.contains n).length
  let life := lifecycleOf (tget 0 shadow 8)
  let bad := !unc.isEmpty || life.isNone
  let prof := wf (tget 0 shadow 10) 0 2
  ({ s with free := s.free + 128 }).modGate fun g =>
    { g with shadow := shadow, ferrBad := bad, fuseok := !bad,
             badrow := if unc.isEmpty then (if bad then 8 else 0) else BitVec.ofNat 8 (unc.foldl min 127),
             corrected := cor, dis := BitVec.ofNat 10 (tget 0 shadow 9).toNat, jtaglock := bad || life == some 2,
             profile := ⟨prof % 4, Nat.mod_lt _ (by decide)⟩, step := 3 }

/-- A copy of the groomer's metadata holds a word that its code cannot correct. [log 85 DEDUCED] -/
def State.copyBad (s : State) (c : Side) : Bool :=
  s.upset.any fun u => match u.site with
    | .metadata d _ => d == c && decide (2 < u.bits)
    | _ => false

/-- The groomer reads its metadata (R678, R679); `found` of its two copies turn out uncorrectable, or those that the machine
holds as such. One bad copy is rewritten from the other. [log 77 DEDUCED, 85 DEDUCED] -/
def State.readMeta (s : State) (found : Fin 3) : State :=
  let bad := max found.val (b2n (s.copyBad .a) + b2n (s.copyBad .b))
  let s := if bad = 1 then s.heal fun
      | .metadata c _ => s.copyBad c
      | _ => false
    else s
  s.modGrm fun g =>
    { g with cur := if bad = 2 then .reset else g.saved, stale := true, meta1 := bad == 1, maplost := bad == 2 }

/-- FUSE_LOAD_END (R118, R206). [log 62 DESIGN CHOICE] -/
def execFuseLoadEnd (errs : List FuseErr) (metaBad : Fin 3) (s : State) : Out :=
  .next <|
    if s.gate.pgood && s.gate.step == 2 && s.wrd.mode == .gatehouse && s.clk.crystal then
      let s := (s.fuseRegs errs).readMeta metaBad
      let s := s.modClk fun c => { c with plllock := true, gated := s.gatedReset }
      (s.setCpu .g gStart).modWrd fun w => { w with patrol := true, pulses := true }
    else s

/-! Slots (R119 to R123, R128). -/

/-- The gatehouse is at step `n`, and tandem G runs it. [log 3 DESIGN CHOICE] -/
def State.atStep (s : State) (n : Fin 8) : Bool :=
  s.gate.pgood && !s.gate.released && s.gate.step == n && s.wrd.mode == .gatehouse && s.cpuG.run == .running &&
    !s.clk.draining && s.clk.crystal

def Gate.slotRes (g : Gate) : Side → SlotRes
  | .a => g.slotA | .b => g.slotB

def Gate.setSlot (g : Gate) (p : Side) (r : SlotRes) : Gate :=
  match p with
  | .a => { g with slotA := r } | .b => { g with slotB := r }

/-- The result of a slot's header. [log 63 DEDUCED] -/
def State.header (s : State) (p : Side) (fail : Bool) : SlotRes :=
  if fail || (p == .b && s.unitOff 6) then { SlotRes.reset with result := 0x10 }
  else
    let h := (s.xsp.port p).bytes 0 16
    let c := s.headerCheck h
    { seq := BitVec.ofNat 32 (le h 8 4), badrec := 0, version := BitVec.ofNat 8 (at8 h 3),
      result := BitVec.ofNat 8 (if c = 0 then 2 else c) }

/-- SLOT_HEADER_CHECK: a fuse failure or BLANK reads no image (R158, Table 3-6). -/
def execSlotHeaderCheck (failA failB : Bool) (s : State) : Out :=
  .next <|
    if !s.atStep 3 then s
    else if s.gate.ferrBad || s.lifecycle == some 0 then s.modGate fun g => { g with step := 4 }
    else
      let a := s.header .a failA
      let b := s.header .b failB
      let okA := a.result == 2
      let okB := b.result == 2
      let order : List Side :=
        if okA && okB then (if a.seq < b.seq then [.b, .a] else [.a, .b])
        else (if okA then [.a] else []) ++ (if okB then [.b] else [])
      s.modGate fun g => { g with slotA := a, slotB := b, hdrA := okA, hdrB := okB, order := order, step := 4 }

/-- The slot tried now has failed: its result, and the next slot, or none (R120, R159). [log 63 DEDUCED] -/
def Gate.slotFails (g : Gate) (p : Side) (code off : Nat) : Gate :=
  let g := g.setSlot p { g.slotRes p with result := BitVec.ofNat 8 code, badrec := BitVec.ofNat 16 off }
  let rest := g.order.drop 1
  { g with order := rest, recs := [], step := if rest.isEmpty then 5 else 4 }

/-- IMAGE_VERIFY: step 4 for the slot tried now. [log 63 DEDUCED] -/
def execImageVerify (readFail : Bool) (s : State) : Out :=
  .next <|
    if !s.atStep 4 then s
    else match s.gate.order with
      | [] => s.modGate fun g => { g with step := 5 }
      | p :: _ =>
        if readFail then s.modGate fun g => g.slotFails p 0x10 0
        else match s.verifyImage (s.xsp.port p) with
          | .error (code, off) => s.modGate fun g => g.slotFails p code off
          | .ok rs => s.modGate fun g => { g with recs := rs, step := 5 }

/-! Step 5 (R129, R132 to R134, R161, Table 3-4). -/

/-- Every configuration that an image's records set, as it is without them. [log 64 DEDUCED] -/
def State.unconfigured (s : State) : State :=
  let w := Wrd.reset
  let ses (u : Uat) : Tbl Session := u.ses.map fun (p : Nat × Session) =>
    (p.1, { Session.reset with preLine := p.2.preLine, preCr := p.2.preCr })
  let s := s.gate.patched.foldl (fun s p => s.setMem p.1 p.2) s
  { s with wrd := { s.wrd with reducedEn := false, escDisc := w.escDisc, escTpp := w.escTpp, escTpw := w.escTpw },
           xsp := { s.xsp with a := s.xsp.a.reset', b := s.xsp.b.reset' }, pio := s.pio.board,
           canA := .reset, canB := .reset, uat := { s.uat with ses := ses s.uat, helmIdle := 10 },
           usb := { s.usb with idok := false, vid := 0, hubPid := 0, fnPid := 0, bcdDev := 0, strings := [] },
           gate := { s.gate with skip := 0, nocfg := 0, pioBad := 0, profImg := false, cfgFail := false, patched := [],
                                 profile := ⟨wf (tget 0 s.gate.shadow 10) 0 2 % 4, Nat.mod_lt _ (by decide)⟩ } }

/-- A record skipped or ignored. [log 67 DEDUCED] -/
def Gate.skip1 (g : Gate) : Gate := { g with skip := satAdd 0xFFFF g.skip 1 }

def Gate.noCfg (g : Gate) (n : Nat) : Gate := { g with nocfg := g.nocfg ||| BitVec.ofNat 10 (2 ^ n) }

/-- A configuration of step 5 fails (R161). -/
def Gate.cfgFails (g : Gate) : Gate := { g with cfgFail := true }

def applySafety (v : List Byte) (s : State) : State :=
  s.modWrd fun w => ({ w with reducedEn := bitOf (at8 v 0) 0 } : Wrd).setEscfg (le v 4 4)

/-- A port's half of the XSPI record; `fail`: the header read in the new mode differs, and the mode change has failed (R161,
R573). The capacity plays no part in that. [log 65 DEDUCED] -/
def applyPort (p : Side) (v : List Byte) (fail : Bool) (s : State) : State :=
  let o := 8 * p.idx
  let cap := at8 v (o + 4)
  if p = .b ∧ s.unitOff 6 = true then s
  else if fail then s.modGate Gate.cfgFails
  else
    { s with xsp := s.xsp.setPort p { s.xsp.port p with
        mode := ⟨at8 v o % 3, Nat.mod_lt _ (by decide)⟩, div := at8 v (o + 1), rdcmd := BitVec.ofNat 8 (at8 v (o + 2)),
        dummy := at8 v (o + 3), cap := cap } }

/-- A DRAM channel under the record (R567, R569): its state, and whether it was initialised in full. [log 91 DEDUCED] -/
def DramCh.apply (c : DramCh) (dens : Fin 4) (fail : InitFail) : DramCh × Bool :=
  let ecc : DramCh := { DramCh.reset with corr := c.corr, unc := c.unc, last := c.last }
  if dens = 0 then (ecc, false)
  else match fail with
    | some k => ({ ecc with fail := ⟨(k.val + 1) % 6, Nat.mod_lt _ (by decide)⟩ }, false)
    | none => ({ ecc with dens := dens, ready := true }, !(c.ready && c.dens == dens))

/-! How the two channels share the DRAM region, and what a change of that moves (R24, R569). Fresh parts of a channel are
ranges of 32 KiB units of the channel's own space; a 64 KiB block of the region holds one unit of each channel where they
interleave, and two units of one channel otherwise. -/

/-- The channels interleave: both are installed, of equal capacity. -/
def Drc.interleaved (d : Drc) : Bool := d.a.size == d.b.size && d.a.size != 0

/-- Where a channel's part of the region starts when the channels do not interleave. -/
def Drc.start (d : Drc) (c : Side) : Nat := if c = .b then d.a.size else 0

def Drc.sizeOf (d : Drc) (c : Side) : Nat := match c with | .a => d.a.size | .b => d.b.size

/-- The channel and its own offset of a byte of the region. -/
def Drc.toChan (d : Drc) (off : Nat) : Side × Nat :=
  if d.interleaved then (if off / 256 % 2 = 0 then .a else .b, off / 512 * 256 + off % 256)
  else if off < d.a.size then (.a, off) else (.b, off - d.a.size)

/-- The region's byte for a channel's own offset. -/
def Drc.ofChan (d : Drc) (c : Side) (o : Nat) : Nat :=
  if d.interleaved then o / 256 * 512 + c.idx * 256 + o % 256 else d.start c + o

/-- The fresh units of a channel. -/
def Drc.freshUnits (d : Drc) (c : Side) : List (Nat × Nat) :=
  if d.interleaved then d.fresh
  else
    let lo := d.start c / 0x8000
    let hi := lo + d.sizeOf c / 0x8000
    d.fresh.filterMap fun r =>
      let x := max (2 * r.1) lo
      let y := min (2 * r.2) hi
      if x < y then some (x - lo, y - lo) else none

/-- The parts that two lists of ranges share. -/
def rangesBoth (p q : List (Nat × Nat)) : List (Nat × Nat) :=
  p.flatMap fun r => q.filterMap fun t => if max r.1 t.1 < min r.2 t.2 then some (max r.1 t.1, min r.2 t.2) else none

/-- The fresh blocks of the region, from the channels' fresh units. -/
def Drc.freshOf (d : Drc) (a b : List (Nat × Nat)) : List (Nat × Nat) :=
  if d.interleaved then rangesBoth a b
  else
    let blocks (c : Side) (l : List (Nat × Nat)) : List (Nat × Nat) := l.filterMap fun r =>
      let x := d.start c / 0x10000 + (r.1 + 1) / 2
      let y := d.start c / 0x10000 + r.2 / 2
      if x < y then some (x, y) else none
    blocks .a a ++ blocks .b b

/-- The fresh blocks after a record is applied: a channel initialised in full is fresh throughout, another one's fresh bits
stay. [log 91 DEDUCED] -/
def freshAfter (old new : Drc) (initA initB : Bool) : List (Nat × Nat) :=
  let units (c : Side) (init : Bool) : List (Nat × Nat) :=
    if new.sizeOf c = 0 then [] else if init then [(0, new.sizeOf c / 0x8000)] else old.freshUnits c
  new.freshOf (units .a initA) (units .b initB)

/-- The DRAM contents after a record is applied: a channel that is kept keeps its words, at the addresses that the region
now gives them (R24, R569). [log 91 DEDUCED] -/
def State.dramAfter (s : State) (new : Drc) (initA initB : Bool) : Tbl TWord :=
  let old := s.drc
  let move (p : Nat × TWord) : Option (Nat × TWord) :=
    let x := old.toChan (8 * p.1 - dramBase)
    let keep := match x.1 with | .a => !initA | .b => !initB
    if keep && x.2 < new.sizeOf x.1 && !s.fresh (8 * p.1) then some ((dramBase + new.ofChan x.1 x.2) / 8, p.2) else none
  let dram := s.mem.filter fun p => decide (dramBase ≤ 8 * p.1)
  (dram.filterMap move).foldl (fun m p => tset .unwritten m p.1 p.2) (s.mem.filter fun p => decide (8 * p.1 < dramBase))

/-- The DRAM record, or its absence (R206, R207, R566 to R569). [log 91 DEDUCED] -/
def applyDram (v : Option (List Byte)) (failA failB : InitFail) (s : State) : State :=
  let dens (i : Nat) : Fin 4 :=
    match v with
    | some v => if s.unitOff (4 + i) then 0 else ⟨at8 v i % 4, Nat.mod_lt _ (by decide)⟩
    | none => 0
  let d := s.drc
  let a := d.a.apply (dens 0) failA
  let b := d.b.apply (dens 1) failB
  let new : Drc := { d with a := a.1, b := b.1, timing := (v.map fun v => (List.range 32).map fun i =>
    BitVec.ofNat 16 (le v (4 + 2 * i) 2)).getD [], mrw := (v.map mrwOf).getD [] }
  let same := d.a.size == new.a.size && d.b.size == new.b.size && !a.2 && !b.2
  let fresh := if same then d.fresh else freshAfter d new a.2 b.2
  let cleared := d.cleared && !a.2 && !b.2 && fresh.isEmpty
  let s := if same then s
    else (({ s.hw (s.l2Remove fun l => decide (dramBase ≤ 64 * l)) with mem := s.dramAfter new a.2 b.2 } : State).heal fun x =>
      match x with
      | .word w | .away w => decide (dramBase ≤ 8 * w)
      | _ => false)
  let s := { s with drc := { new with fresh := fresh, cleared := cleared } }
  let gate (ok : Bool) (m : BitVec 60) (c : Clk) : Clk := { c with gated := if ok then c.gated &&& ~~~m else c.gated ||| m }
  let s := s.modClk fun c => gate b.1.ready (domMask [1, 3]) (gate a.1.ready (domMask [0, 2]) c)
  if a.1.fail ≠ 0 ∨ b.1.fail ≠ 0 then s.modGate Gate.cfgFails else s

/-- A GPATCH record: a patch for this ROM goes into the TCM. Its format is Felsadric's: the words are free values. [log 49
DESIGN CHOICE, 67 DEDUCED] -/
def applyGpatch (v : List Byte) (s : State) : State :=
  if le v 0 4 ≠ wrdBlock then s.modGate Gate.skip1
  else
    let w := le v 4 4 / 8
    (List.range (ceilDiv (v.length - 8) 8)).foldl (fun s i =>
      let a := 0x10000000 / 8 + w + i
      if w + i < 0x10000 then
        (((s.modGate fun g => { g with patched := (a, tget .unwritten s.mem a) :: g.patched }).clearSite (.word a)).setMem a
          ⟨if s.freeVal.getLsbD 0 then .insn else .int, Config.free (s.free + 1)⟩).freeNext.freeNext
      else s) s

/-- A PROFILE record (R133). [log 67 DEDUCED] -/
def applyProfile (v : List Byte) (s : State) : State :=
  if bitOf (tget 0 s.gate.shadow 10).toNat 2 then
    s.modGate fun g => { g with profile := ⟨at8 v 0 % 4, Nat.mod_lt _ (by decide)⟩, profImg := true }
  else s.modGate Gate.skip1

/-- A PIOBANK record (R703). -/
def applyBank (v : List Byte) (s : State) : State :=
  let k := at8 v 0
  let s := s.modPio fun p =>
    let p := p.writeBank k true (at8 v 1 == 1)
    if p.on k then
      { p with cfg := (List.range 32).foldl (fun t i => if bitOf (le v 4 4) i then tset 0 t (32 * k + i) 2 else t) p.cfg }
    else p
  if s.pio.on k then s else s.modGate fun g => { g with pioBad := g.pioBad ||| BitVec.ofNat 16 (2 ^ k) }

/-- A CANBT record: the controller goes into bus monitoring (R143, R786). -/
def applyCan (v : List Byte) (s : State) : State :=
  let c : Side := if at8 v 0 = 0 then .a else .b
  let f := at8 v 1
  if s.unitOff (1 + c.idx) then s
  else
    s.setCan c (({ Can.reset with fden := bitOf f 0, brsen := bitOf f 1, tdcen := bitOf f 2, pexdis := bitOf f 3,
                                  bt := canbtWord v, op := 1, configured := true } : Can).goto .monitor)

def applyUsbId (v : List Byte) (s : State) : State :=
  s.modUsb fun u =>
    { u with idok := true, vid := BitVec.ofNat 16 (le v 0 2), hubPid := BitVec.ofNat 16 (le v 2 2),
             fnPid := BitVec.ofNat 16 (le v 4 2), bcdDev := BitVec.ofNat 16 (le v 6 2) }

/-- A USBSTR record goes to the descriptor store (R751). [log 67 DEDUCED] -/
def applyUsbStr (v : List Byte) (s : State) : State :=
  s.modUsb fun u =>
    { u with strings := u.strings ++ [(BitVec.ofNat 8 (at8 v 0), BitVec.ofNat 8 (at8 v 1), v.drop 2)] }

/-- The CONSOLE record (Table 19-2). [log 66 DEDUCED, 68 DEDUCED] -/
def applyConsole (v : List Byte) (s : State) : State :=
  let rate (i : Nat) : Fin 12 := if i = 4 then 0 else ⟨at8 v i % 12, Nat.mod_lt _ (by decide)⟩
  let s := sessions.foldl (fun s n =>
    let fl := at8 v (4 + n.val)
    s.modSes n fun x => { x with rate0 := rate n.val, quiet0 := bitOf fl 0, notify0 := bitOf fl 1,
                                 off := bitOf fl 2 && decide (n.val < 4) }) s
  s.modUat fun u => { u with helmIdle := if at8 v 9 = 0 then 10 else at8 v 9 }

/-- Do `f` for the first record of a type, if one has LEN above 0. -/
def State.withRec (s : State) (rs : List Rec) (t : Nat) (f : List Byte → State → State) : State :=
  match recOf t rs with
  | some v => f v s
  | none => s

/-- Do `f` for every record of a type. -/
def State.eachRec (s : State) (rs : List Rec) (t : Nat) (f : List Byte → State → State) : State :=
  (recsOf t rs).foldl (fun s r => f r.val s) s

/-- GATE_UNITS.NOCFG: the units that an absent record or a failure left unconfigured; a record that leaves a memory
unpopulated counts as applied (R579); without USBID the USB unit is named whether a fuse disables it or not (R750). [log 66
DEDUCED] -/
def State.setNoCfg (s : State) (xspiB : Bool) : State :=
  let none_ (t : Nat) : Bool := (recOf t s.gate.recs).isNone
  let off : List (Nat × Bool) := [(1, !s.canA.configured), (2, !s.canB.configured),
    (4, none_ tDRAM || s.drc.a.fail != 0), (5, none_ tDRAM || s.drc.b.fail != 0), (6, none_ tXSPI || xspiB)]
  s.modGate fun g =>
    off.foldl (fun g p => if p.2 && !s.unitOff p.1 then g.noCfg p.1 else g) (if none_ tUSBID then g.noCfg 0 else g)

/-- APPLY_RECORDS: step 5. [log 64 DEDUCED] -/
def State.applyAll (s : State) (dramA dramB : InitFail) (xspiA xspiB : Bool) : State :=
  let rs := s.gate.recs
  let s := s.unconfigured
  let s := (rs.filter fun r => typeMax r.type == 0).foldl (fun s _ => s.modGate Gate.skip1) s
  let s := s.withRec rs tSAFETY applySafety
  let s := s.withRec rs tXSPI fun v s => applyPort .b v xspiB (applyPort .a v xspiA s)
  let s := applyDram (recOf tDRAM rs) dramA dramB s
  let s := s.eachRec rs tGPATCH applyGpatch
  let s := s.withRec rs tPROFILE applyProfile
  let s := s.eachRec rs tPIOBANK applyBank
  let s := s.eachRec rs tCANBT applyCan
  let s := s.withRec rs tUSBID applyUsbId
  let s := s.eachRec rs tUSBSTR applyUsbStr
  let s := s.withRec rs tCONSOLE applyConsole
  (s.setNoCfg xspiB).modGate fun g => { g with step := 6 }

/-- APPLY_RECORDS: step 5 of the gatehouse sequence (Table 3-1). [log 64 DEDUCED] -/
def execApplyRecords (dramA dramB : InitFail) (xspiA xspiB : Bool) (s : State) : Out :=
  .next (if s.atStep 5 then s.applyAll dramA dramB xspiA xspiB else s)

/-! Step 6 (R130, R160, R161). -/

/-- The tag of a LOAD record. -/
def loadTag (n : Nat) : Tag := if n = 1 then .int else if n = 5 then .insn else .bytes

/-- A LOAD record's words reach their destination. -/
def State.copyLoad (s : State) (r : Rec) : State :=
  let src := (if r.port = 0 then s.xsp.a else s.xsp.b).bytes r.src r.len
  (List.range (r.len / 8)).foldl (fun s i =>
    (s.clearSite (.word (r.dest / 8 + i))).setMem (r.dest / 8 + i) ⟨loadTag (at8 r.val 1), w64 (le src (8 * i) 8)⟩) s

/-- The destinations of LOAD records return to UNWRITTEN. -/
def State.dropLoads (s : State) (l : List Rec) : State :=
  l.foldl (fun s r => { s with mem := tclr s.mem (r.dest / 8) ((r.dest + r.len) / 8) }) s

/-- The LOAD records in order: the state, and where a digest fails the records copied so far, the failing one last. -/
def State.runLoads (misread : Option (Fin 16)) : List Rec → Nat → List Rec → State → State × Option (List Rec)
  | [], _, _, s => (s, none)
  | r :: rs, i, done, s =>
    let bad := (match misread with
      | some k => k.val == i | none => false) || !loadDigestOk s.xsp r
    let s := s.copyLoad r
    if bad then (s, some (done ++ [r])) else State.runLoads misread rs (i + 1) (done ++ [r]) s

/-- LOAD_RECORDS: step 6. `misread`: the record whose source is read wrong. After a failed configuration no LOAD record runs,
so that the image has not passed every check and is not in use (R161, Table 3-3). [log 63 DEDUCED] -/
def execLoadRecords (misread : Option (Fin 16)) (s : State) : Out :=
  .next <|
    if !s.atStep 6 then s
    else match s.gate.order with
      | [] => s.modGate fun g => { g with step := 7 }
      | p :: _ =>
        let use (s : State) : State := s.modGate fun g =>
          { g.setSlot p { g.slotRes p with result := 0x01 } with slot := some p, step := 7 }
        if s.gate.cfgFail then s.modGate fun g => { g with step := 7 }
        else
          match State.runLoads misread (recsOf tLOAD s.gate.recs) 0 [] s with
          | (s, none) => use s
          | (s, some l) =>
            (s.dropLoads l).portsPlain.modGate fun g => g.slotFails p 0x1B ((l.getLast?.map Rec.off).getD 0)

/-! Release (R137 to R140, R180, Tables 3-7 and 3-8, T1 to T3). -/

/-- The outcome, and the cause of an OUTCOME 5. [log 60 DEDUCED, 61 DEDUCED, 133 DESIGN CHOICE] -/
def State.outcome (s : State) : Fin 8 × Fin 6 :=
  let g := s.gate
  if s.clk.drainfail then (5, 1)
  else if s.spk.damaged then (5, 2)
  else if s.grm.maplost then (5, 3)
  else if g.ferrBad then (4, 0)
  else if s.lifecycle = some 0 then (6, 0)
  else if !s.spk.recovered || g.ledgerLate then (5, 4)
  else if g.cfgFail then (5, 5)
  else if g.slot = none then (3, 0)
  else if (recOf tENTRY g.recs).isNone then (2, 0)
  else (1, 0)

/-- The ENTRY address of a main tandem. -/
def State.entryOf (s : State) (m : Side) : Nat :=
  match recOf tENTRY s.gate.recs with
  | some v => le v (8 * m.idx) 8
  | none => 0

/-- A main tandem as it leaves reset (R139, R140, R369, Table 3-8). [log 69 DEDUCED] -/
def State.mainStart (s : State) (m : Side) : Cpu :=
  let e := s.entryOf m
  let dram := s.dramSize
  let inDram := decide (dramBase ≤ e)
  let pcc := Cap.root (if inDram then dramBase else 0x20000000) (if inDram then dram else 0x400000) (pLD + pEX + pLDC + pSYS) e
  let data := pLD + pST + pLDC + pSTC + pTTH
  let win (base size : Nat) : Cap := if size = 0 then .null else Cap.root base size pLD base
  let l : Locker := { Locker.reset with pcc := pcc, fcsr := .int 0, qstat := .int 0 }
  let l := (l.setC 1 (Cap.root 0x20000000 0x400000 data 0x20000000)).setC 2 (Cap.root spkBase 0x4000000 (data + pDUR) spkBase)
  let l := (l.setC 3 (if dram = 0 then .null else Cap.root dramBase dram data dramBase)).setC 4
    (Cap.root devBase 0x110000 (pLD + pST) devBase)
  let l := (l.setC 5 (win winABase s.xsp.a.size)).setC 6 (win winBBase s.xsp.b.size)
  { (Cpu.reset.setLocker 0 (l.setC 7 (Cap.root 0 64 (pSEAL + pUNSEAL) 0))) with run := .running }

/-- The mode that release enters, its cause, and the tandems that serve. [log 69 DEDUCED] -/
def State.relTarget (s : State) (out : Fin 8) : Mode × Nat × Bool × Bool :=
  let w := s.wrd
  let cause (o : Option (Fin 18)) : Nat := match o with
    | some b => b.val + 1 | none => 0
  if out ≠ 1 then (.safeHold, 0, false, false)
  else if w.pendHold.isSome then (.safeHold, cause w.pendHold, false, false)
  else match w.lostA, w.lostB with
    | none, none => (.run, 0, true, true)
    | some a, none => if w.reducedEn then (.reduced, a.val + 1, false, true) else (.safeHold, a.val + 1, false, false)
    | none, some b => if w.reducedEn then (.reduced, b.val + 1, true, false) else (.safeHold, b.val + 1, false, false)
    | some a, some _ => (.safeHold, a.val + 1, false, false)

/-- The units at release (Table 3-7, R775, R788, R847, R885, R913). [log 66 DEDUCED] -/
def State.relUnits (s : State) (serve : Bool) : State :=
  let s := s.modUsb fun u =>
    ({ u with atten := u.idok && !s.unitOff 0, served := serve } : Usb).pull s.pullOk
  let join (c : Side) (s : State) : State :=
    if (s.can c).configured && s.canOn c then s.modCan c fun k => k.request 2 else s
  let s := join .b (join .a s)
  let s := (s.modPio fun p => { p with drive := true }).nfcRelease
  let s := sessions.foldl (fun s n => s.modSes n fun x => { x with rate := x.rate0, quiet := x.quiet0, notify := x.notify0 }) s
  let off := domMask ([1, 2, 3].filterMap fun k => if (tget Session.reset s.uat.ses k).off then some (47 + k) else none)
  (s.modClk fun c => { c with gated := c.gated ||| off }).irtRelease

/-- Start the main tandems that serve; with the RC reference stopped both stay held (R104). [log 69 DEDUCED] -/
def State.startMains (s : State) (a b : Bool) : State :=
  let go (m : Side) (on : Bool) (s : State) : State :=
    if on && !s.wrd.rcStopped then
      (s.setCpu m.tandem (s.mainStart m)).modWrd fun w => w.setWd m.tandem { w.wd m.tandem with us := 0 }
    else s
  go .b b (go .a a s)

/-- The release itself. [log 69 DEDUCED] -/
def State.doRelease (s : State) : State :=
  let o := s.outcome
  let (mode, cause, a, b) := s.relTarget o.1
  let s := s.modGrm fun g =>
    if s.clk.warm = 0 then { g with cur := { g.cur with pcyc := satAdd 0xFFFFFFFF g.cur.pcyc 1 } } else g
  let s := { s with relUs := s.us }
  let s := s.modGate fun g =>
    { g with released := true, outcome := o.1, holdCause := o.2, relMode := mode, trel := BitVec.ofNat 32 (s.us - g.origin) }
  let s := s.modWrd fun w => { w with cfgLock := true, escfgLock := true }
  let s := s.relUnits (a || b)
  let s := (s.enter mode cause a b).startMains a b
  (s.modWrd fun w => { w with lostA := none, lostB := none, pendHold := none }).settleSessions none

/-- RELEASE: after step 6, and not before 20 ms (R137, R162). [log 77 DEDUCED, 133 DESIGN CHOICE] -/
def execRelease (s : State) : Out :=
  .next (if s.atStep 7 && decide (s.gate.origin + 20000 ≤ s.us) then s.doRelease else s)

/-! Characters before release (R148). -/

def Gate.countPre (g : Gate) (n : Nat) : Gate :=
  match n with
  | 0 => { g with preA := satAdd 0xFFFF g.preA 1 }
  | 1 => { g with preB := satAdd 0xFFFF g.preB 1 }
  | 2 => { g with preC := satAdd 0xFFFF g.preC 1 }
  | _ => { g with preD := satAdd 0xFFFF g.preD 1 }

/-- A discarded character: counted, and the line it belongs to noted. `none` is a framing error or a break. -/
def State.preChar (s : State) (n : Fin 4) (ch : Option Byte) : State :=
  let k : Fin 5 := ⟨n.val, by omega⟩
  let cr := ch == some 0x0D
  let lf := ch == some 0x0A
  (s.modGate fun g => g.countPre n.val).modSes k fun x =>
    if lf && x.preCr then { x with preCr := false }
    else { x with preLine := !cr && !lf, preCr := cr }

/-- PRE_RELEASE_CHARACTER, from the end of fuse load, on a UART that is not disabled by fuse. [log 68 DEDUCED] -/
def execPreReleaseCharacter (uart : Fin 4) (ch : Option Byte) (s : State) : Out :=
  .next <| s.rooted fun s =>
    if !s.gate.released && decide (3 ≤ s.gate.step.val) && s.wrd.mode == .gatehouse &&
        (uart.val == 0 || !s.unitOff (6 + uart.val)) then s.preChar uart ch
    else s

/-! The registers. -/

def gateWide (off : Nat) : Bool := off == 0x10 || off == 0x18 || off == 0x20 || (0x1000 ≤ off && off < 0x1400 && off % 8 == 0)

def SlotRes.card (r : SlotRes) : Nat :=
  pack [(32, r.seq.toNat), (16, r.badrec.toNat), (8, r.version.toNat), (0, r.result.toNat)]

def gateRead (off : Nat) (s : State) : Nat × State :=
  let g := s.gate
  let v : Nat :=
    if off = 0x0 then
      pack [(15, b2n g.released), (12, g.outcome.val), (10, slotCode g.slot), (9, b2n g.ledgerdone), (8, b2n g.fuseok),
        (0, g.step.val)]
    else if off = 0x8 then g.trel.toNat
    else if off = 0x10 then g.slotA.card
    else if off = 0x18 then g.slotB.card
    else if off = 0x20 then pack [(48, g.preD), (32, g.preC), (16, g.preB), (0, g.preA)]
    else if off = 0x28 then g.skip
    else if off = 0x30 then
      pack [(8, s.floor), (6, b2n g.profImg), (4, g.profile.val), (3, b2n ((tget 0 g.shadow 10).getLsbD 2)),
        (2, b2n g.jtaglock), (0, s.lifeState)]
    else if off = 0x38 then pack [(16, b2n g.ferrBad), (8, g.badrow.toNat), (0, min 0xFF g.corrected)]
    else if off = 0x40 then pack [(16, g.nocfg.toNat), (0, g.dis.toNat)]
    else if 0x1000 ≤ off && off < 0x1400 && off % 8 == 0 then (tget 0 g.shadow ((off - 0x1000) / 8)).toNat
    else 0
  (v, s)

end Sys2Proof.Machine
end

