-- ==== Sys2Proof/Machine/Verbs.lean ====
section
/-! DEFINITION. The verbs of the Kakosor console (Tables 19-5 and 19-6). A verb answers with a reply and leaves a state. -/

namespace Sys2Proof.Machine

/-- What a verb answers. -/
inductive Rep where
  /-- OK with the rest of the first line, and the data lines where the verb has them. -/
  | ok (first : Text) (data : Option (List Text))
  | no (code : Nat) (extra : Text)
  | busy
  /-- The reply comes later (EVAL), or never (HOLD while no lane decides). -/
  | later
  deriving DecidableEq, Repr

/-! Arguments (R858). -/

def digitOf (base : Nat) (c : Char) : Option Nat :=
  let n := c.toNat
  let d := if 48 ≤ n ∧ n ≤ 57 then n - 48 else if 65 ≤ n ∧ n ≤ 70 then n - 55 else if 97 ≤ n ∧ n ≤ 102 then n - 87 else 16
  if d < base then some d else none

/-- Digits with underscores between digits; `prev` says that the character before was a digit. -/
def digitsVal (base : Nat) : Text → Bool → Nat → Option Nat
  | [], prev, acc => if prev then some acc else none
  | c :: r, prev, acc =>
    if c = '_' then (if prev && !r.isEmpty && r.head? != some '_' then digitsVal base r false acc else none)
    else match digitOf base c with
      | some d => digitsVal base r true (acc * base + d)
      | none => none

def upper (t : Text) : Text := t.map fun c => if 97 ≤ c.toNat ∧ c.toNat ≤ 122 then Char.ofNat (c.toNat - 32) else c

/-- A number: decimal, or hexadecimal with the prefix 0x (R858). [log 113 DEDUCED] -/
def parseNum (t : Text) : Option Nat :=
  match t with
  | '0' :: 'x' :: r => digitsVal 16 r false 0
  | r => digitsVal 10 r false 0

def arg (args : List Text) (i : Nat) : Text := (args[i]?).getD []
def num (args : List Text) (i : Nat) : Option Nat := parseNum (arg args i)
def numD (args : List Text) (i d : Nat) : Nat := if i < args.length then (num args i).getD 0 else d
def isWord (args : List Text) (i : Nat) (w : String) : Bool := upper (arg args i) == txt w

/-! Checks in code order (R859, R867, R872). -/

/-- A check: whether it fails, its code and what follows the text. -/
abbrev Check := Bool × Nat × Text

/-- The first failing check answers; else the verb goes on. [log 113 DEDUCED] -/
def State.checked (s : State) (cs : List Check) (go : State → Rep × State) : Rep × State :=
  match cs.find? fun c => c.1 with
  | some c => (.no c.2.1 c.2.2, s)
  | none => go s

/-- From `lo` to `hi` arguments. -/
def argc (args : List Text) (lo hi : Nat) : List Check :=
  [(decide (args.length < lo), 10, []), (decide (hi < args.length), 11, [])]

/-- Argument `i`, where present, is a number. -/
def isNum (args : List Text) (i : Nat) : List Check := [(decide (i < args.length) && (num args i).isNone, 12, [])]

def State.helmNo (s : State) (n : Fin 5) : List Check :=
  [(s.uat.helm.isNone, 30, []), (s.uat.helm != some n, 31, dec ((s.uat.helm.getD 0).val))]

def State.privNo (s : State) (n : Fin 5) : List Check := s.helmNo n ++ [(!s.uat.unlocked, 32, [])]

/-- A verb of SERVICE alone answers NO 21 elsewhere (Table 19-8). [log 114 DEDUCED] -/
def State.svcNo (s : State) : List Check := [(s.wrd.mode != .service, 21, [])]

def okWords (ws : List Text) : Rep := .ok (unwords ws) none
def okData (l : List Text) : Rep := .ok (txt "+" ++ dec l.length) (some l)

/-! Class R. -/

/-- The verbs' syntax, as Tables 19-5 and 19-6 give it. [log 113 DEDUCED] -/
def verbSyntax : List (String × String) :=
  [("HELP", "HELP [verb]"), ("VER", "VER"), ("MODE", "MODE"), ("STATUS", "STATUS"), ("REPORT", "REPORT"), ("DET", "DET"),
   ("LOG", "LOG [first] [count]"), ("LIFE", "LIFE"), ("WEAR", "WEAR"), ("VC", "VC [name or index]"), ("TIME", "TIME"),
   ("SESSION", "SESSION"), ("QUIET", "QUIET ON, QUIET OFF"), ("NOTIFY", "NOTIFY ON, NOTIFY OFF"), ("BAUD", "BAUD rate"),
   ("HELM", "HELM TAKE, HELM FREE"), ("UNLOCK", "UNLOCK [response]"), ("LOCK", "LOCK"), ("DATE", "DATE day"),
   ("EVAL", "EVAL"), ("HOLD", "HOLD"), ("RESET", "RESET"), ("SERVICE", "SERVICE ENTER, SERVICE EXIT"),
   ("FUSE", "FUSE READ row [count], FUSE BLOW row value"), ("IMAGE", "IMAGE, IMAGE BEGIN, ERASE, DATA, END, ABORT"),
   ("PATROL", "PATROL PAUSE ON, PATROL PAUSE OFF, PATROL INJECT mech"), ("LEDGER", "LEDGER ACK"),
   ("USBTEST", "USBTEST ON, USBTEST OFF")]

/-- HELP: at most 24 data lines (R860). [log 113 DEDUCED] -/
def verbHelp (args : List Text) (s : State) : Rep × State :=
  let hit := verbSyntax.find? fun p => txt p.1 == upper (arg args 0)
  s.checked (argc args 0 1 ++ [(decide (args.length = 1) && hit.isNone, 14, [])]) fun s =>
    (okData (match args, hit with
      | _ :: _, some p => [txt p.2]
      | _, _ => (verbSyntax.take 24).map fun p => txt p.2), s)

def verbVer (args : List Text) (s : State) : Rep × State :=
  s.checked (argc args 0 0) fun s =>
    (okWords [txt "MU4-" ++ gradeName, txt "ROM", hex 2 wrdBlock, txt "SLOT", slotName s.gate.slot, txt "SEQ", hex 8 s.imgSeq,
      txt "SN", hex 16 (tget 0 s.gate.shadow 25).toNat], s)

def verbMode (args : List Text) (s : State) : Rep × State := s.checked (argc args 0 0) fun s => (.ok s.modeText none, s)

/-- Name and value pairs. -/
def pairs (name : String) (l : List (String × Text)) : Text := unwords (txt name :: l.flatMap fun p => [txt p.1, p.2])

def bitTxt (b : Bool) : Text := dec (b2n b)

/-- STATUS (Table 19-5). [log 116 DESIGN CHOICE] -/
def verbStatus (args : List Text) (s : State) : Rep × State :=
  s.checked (argc args 0 0) fun s =>
    let w := s.wrd
    let g := s.gate
    let k := s.spk
    (okData [
      pairs "SAFE" [("HOLD", dec w.hold.val), ("LATCHED", bitTxt w.latched), ("SWSTOP", bitTxt w.swstop), ("RB_B", bitTxt w.rbB),
        ("RB_A", bitTxt w.rbA), ("RATE", bitTxt w.rate), ("TOGGLING", bitTxt w.toggling), ("PERMIT", bitTxt s.permit)],
      pairs "ESTOP" [("PULSE_B", bitTxt w.pulseB), ("PULSE_A", bitTxt w.pulseA), ("DISC", bitTxt w.disc),
        ("DEMAND", bitTxt w.demand), ("CLOSED_B", bitTxt w.closedB), ("CLOSED_A", bitTxt w.closedA)],
      pairs "PATROL" [("FIRST", bitTxt w.first), ("SWEEPS", dec w.sweeps.toNat), ("FAIL", bitTxt w.fail),
        ("LAST", hex 2 w.last.toNat)],
      pairs "GATE" [("RELEASED", bitTxt g.released), ("OUTCOME", dec g.outcome.val), ("SLOT", slotName g.slot),
        ("LEDGERDONE", bitTxt g.ledgerdone), ("FUSEOK", bitTxt g.fuseok), ("STEP", dec g.step.val),
        ("SLOTA", hex 2 g.slotA.result.toNat), ("SLOTB", hex 2 g.slotB.result.toNat), ("NOCFG", hex 4 g.nocfg.toNat),
        ("DIS", hex 4 g.dis.toNat)],
      pairs "LEDGER" [("DAMAGED", bitTxt k.damaged), ("APPLYING", bitTxt (decide (k.pendingRead ≠ 0))),
        ("HOLDOK", bitTxt k.holdok), ("VINOK", bitTxt k.vinok), ("RECOVERED", bitTxt k.recovered), ("SEALING", dec k.sealingRead),
        ("PENDING", dec k.pendingRead), ("FREE", dec s.freeRead)]], s)

/-- REPORT (Table 19-5). [log 116 DESIGN CHOICE] -/
def verbReport (n : Fin 5) (args : List Text) (s : State) : Rep × State :=
  s.checked (argc args 0 0) fun s => (okData ((s.reportLines n none).take 24), s)

def verbDet (args : List Text) (s : State) : Rep × State :=
  s.checked (argc args 0 0) fun s =>
    (okWords [txt "DET", hex 8 s.wrd.det.toNat, txt "FREC", hex 16 s.wrd.frec.toNat, txt "GLOSS", dec s.wrd.gloss], s)

/-- One line of LOG. -/
def State.logLine (s : State) (slot : Nat) : Text :=
  let ws := tget [] s.spk.ring slot
  let w (i : Nat) : W64 := (ws[i]?).getD 0
  let kind := wf (w 0) 56 8
  let head (name : String) : List Text :=
    [dec slot, txt name, dec (wf (w 0) 0 48), txt "MS", dec (wf (w 1) 0 32), (modeOfCode (wf (w 0) 48 3)).name]
  let good := w 7 == w64 (crc32cOf (((List.range 7).map w).flatMap fun x => bytesOf 8 x.toNat))
  if good && kind == 2 then
    unwords (head "FAULT" ++ [txt "CODE", dec (wf (w 2) 0 8), txt "DETAIL", dec (wf (w 2) 8 8)])
  else if good && kind == 1 then
    unwords (head "RUNOUT" ++ [txt "ROLL", dec (wf (w 2) 0 16), dec (wf (w 2) 16 16), dec (wf (w 2) 32 16), txt "DURUS",
      dec (wf (w 3) 48 16), txt "LEFT", dec (wf (w 3) 40 8), txt "HOLD", bitTxt ((w 3).getLsbD 39) ++ bitTxt ((w 3).getLsbD 38)])
  else unwords [dec slot, txt "EMPTY"]

def verbLog (args : List Text) (s : State) : Rep × State :=
  let first := numD args 0 s.spk.newestRead
  let count := numD args 1 8
  s.checked (argc args 0 2 ++ isNum args 0 ++ isNum args 1 ++ [(decide (255 < first ∨ 16 < count), 13, [])]) fun s =>
    (okData ((List.range count).map fun i => s.logLine ((first + 256 - i) % 256)), s)

def mechName (m : Nat) : Text :=
  match m with
  | 0 => txt "BTI" | 1 => txt "EM" | 2 => txt "SPK_ENDUR" | 3 => txt "SPK_SPARE" | 4 => txt "SPK_RETAIN" | 5 => txt "FLASH"
  | 6 => txt "PKG" | _ => txt "-"

def lifeStName (n : Nat) : Text :=
  match n with
  | 0 => txt "VALID" | 1 => txt "INSUFF" | 2 => txt "NOREP" | _ => txt "FAILED"

def verbLife (args : List Text) (s : State) : Rep × State :=
  s.checked (argc args 0 0 ++ [(s.grm.cur.evals == 0, 24, [])]) fun s =>
    let row (m : Nat) : Text :=
      let r := tget LifeRes.reset s.grm.cur.life m
      unwords [mechName m, dec r.d, dec r.lo, dec r.hi, lifeStName r.st.val]
    let d := s.grm.cur.dev
    (okData ((List.range 7).map row ++
      [unwords [txt "DEV", dec (wf d 0 16), dec (wf d 16 16), dec (wf d 40 24), mechName (wf d 36 4)]]), s)

/-- The field of a groomer register. -/
def State.grmField (s : State) (off lo len : Nat) : Nat := fld (grmRead off s).1 lo len

def verbWear (args : List Text) (s : State) : Rep × State :=
  s.checked (argc args 0 0) fun s =>
    (okWords [txt "FREE", dec (s.grmField 0x10 21 11), txt "RETIRED", dec (s.grmField 0x10 10 11), txt "LOGRET",
      dec (s.grmField 0x10 0 7), txt "EMAX", hex 10 (s.grmField 0x50 0 40), txt "MARGIN", dec (s.grmField 0x58 0 24),
      txt "REFRESHED", dec (s.grmField 0x58 32 16)], s)

/-- The violation counters that Table 20-2 names. -/
def vcNames : List (Nat × String) :=
  [(0, "VC_USB_TTSTALL"), (1, "VC_USB_TTFULL"), (2, "VC_USB_TTLATE"), (3, "VC_USB_PID"), (4, "VC_USB_REQ"), (5, "VC_USB_SEQ"),
   (6, "VC_USB_BABBLE"), (7, "VC_USB_EP"), (8, "VC_USB_DSBABBLE"), (9, "VC_USB_OC"), (16, "VC_CAN_PEX"), (17, "VC_CAN_SLEN"),
   (18, "VC_CAN_SCRC"), (19, "VC_CAN_SCONN"), (20, "VC_CAN_DUP"), (21, "VC_CAN_SEQ"), (32, "VC_NFC_OPT"), (33, "VC_NFC_CMD"),
   (34, "VC_NFC_ADDR"), (35, "VC_NFC_LOCK"), (48, "VC_CON_VERB"), (49, "VC_CON_CHAR"), (50, "VC_CON_LONG"), (51, "VC_CON_TAG"),
   (52, "VC_CON_CRC"), (53, "VC_CON_OVR"), (54, "VC_CON_ARG"), (55, "VC_CON_HELM"), (56, "VC_CON_AUTH")]

def State.vcLine (s : State) (p : Nat × String) : Text := unwords [txt p.2, dec (tget 0 s.irt.vc p.1)]

/-- The counters of VC with an index: one that Table 20-2 does not list is named by its register (R905). [log 116 DESIGN
CHOICE] -/
def vcFrom (k : Nat) : List (Nat × Text) :=
  ((List.range 24).filter fun i => decide (k + i < 64)).map fun i =>
    (k + i, (((vcNames.find? fun p => p.1 == k + i).map fun p => txt p.2).getD (txt "IRT_VC_" ++ dec (k + i))))

/-- VC: an argument that begins with a digit is an index, any other a name. -/
def verbVc (args : List Text) (s : State) : Rep × State :=
  let a := arg args 0
  let isIdx := (a.head?.bind (digitOf 10)).isSome
  let hit := vcNames.find? fun p => txt p.2 == upper a
  let k := (parseNum a).getD 0
  s.checked (argc args 0 1 ++ [(isIdx && (parseNum a).isNone, 12, []), (isIdx && decide (63 < k), 13, []),
      (decide (args.length = 1) && !isIdx && hit.isNone, 14, [])]) fun s =>
    (if args.isEmpty then okData (((vcNames.filter fun p => tget 0 s.irt.vc p.1 != 0).take 24).map s.vcLine)
     else if isIdx then okData ((vcFrom k).map fun p => unwords [p.2, dec (tget 0 s.irt.vc p.1)])
     else match hit with
      | some p => .ok (s.vcLine p) none
      | none => .ok [] none, s)

/-- DAY and CDATE, "-" where not valid. -/
def State.dayTxt (s : State) : Text := if s.grm.dayValid then dec s.grm.day.toNat else txt "-"
def State.cdateTxt (s : State) : Text :=
  match s.grm.cur.cdate with
  | some d => dec d.toNat
  | none => txt "-"

def verbTime (args : List Text) (s : State) : Rep × State :=
  s.checked (argc args 0 0) fun s =>
    (okWords [txt "MS", dec s.ms, txt "DAY", s.dayTxt, txt "CDATE", s.cdateTxt], s)

/-- Open sessions as a mask. -/
def State.openMask (s : State) : Nat := pack (sessions.map fun n => (n.val, b2n (s.ses n).opn))

def verbSession (n : Fin 5) (args : List Text) (s : State) : Rep × State :=
  s.checked (argc args 0 0) fun s =>
    (okWords [txt "ME", dec n.val, txt "HELM", (match s.uat.helm with
      | some h => dec h.val
      | none => txt "-"), txt "UNLOCK", bitTxt (s.uat.helm == some n && s.uat.unlocked), txt "OPEN", hex 2 s.openMask], s)

/-! Class S. -/

/-- ON or OFF as the argument. -/
def onOff (args : List Text) (i : Nat) : List Check :=
  argc args (i + 1) (i + 1) ++ [(!(isWord args i "ON" || isWord args i "OFF"), 14, [])]

def verbQuiet (n : Fin 5) (args : List Text) (s : State) : Rep × State :=
  s.checked (onOff args 0) fun s =>
    (okWords [txt "QUIET", upper (arg args 0)], s.modSes n fun x => { x with quiet := isWord args 0 "ON" })

def verbNotify (n : Fin 5) (args : List Text) (s : State) : Rep × State :=
  s.checked (onOff args 0) fun s =>
    (okWords [txt "NOTIFY", upper (arg args 0)], s.modSes n fun x => { x with notify := isWord args 0 "ON" })

/-- Table 19-1. -/
def bauds : List Nat := [115200, 9600, 19200, 38400, 57600, 230400, 460800, 921600, 1000000, 1500000, 2000000, 3000000]

/-- BAUD: the rate changes after the final stop bit of the reply; the present rate changes nothing (R880). [log 123 DEDUCED] -/
def verbBaud (n : Fin 5) (args : List Text) (s : State) : Rep × State :=
  let r := (num args 0).getD 0
  let code := bauds.findIdx fun b => b == r
  s.checked (argc args 1 1 ++ isNum args 0 ++ [(decide (12 ≤ code), 13, []), (n.val == 4, 22, [])]) fun s =>
    (okWords [txt "BAUD", dec r], s.modSes n fun x =>
      { x with newRate := if h : code < 12 then (if x.rate.val = code then none else some ⟨code, h⟩) else none })

def verbHelmTake (n : Fin 5) (args : List Text) (s : State) : Rep × State :=
  s.checked (argc args 0 0 ++ [(s.uat.helm.isSome && s.uat.helm != some n, 31, dec ((s.uat.helm.getD 0).val))]) fun s =>
    (okWords [txt "HELM", dec n.val], s.modUat fun u => { u with helm := some n })

def verbHelmFree (n : Fin 5) (args : List Text) (s : State) : Rep × State :=
  s.checked (argc args 0 0 ++ [(s.uat.helm != some n, 30, [])]) fun s => (okWords [txt "HELM", txt "FREE"], s.freeHelm)

def verbLock (n : Fin 5) (args : List Text) (s : State) : Rep × State :=
  s.checked (argc args 0 0) fun s =>
    (okWords [txt "LOCKED"], s.modUat fun u => { u with unlocked := u.unlocked && u.helm != some n })

/-! The unlock (R870, R871). -/

/-- What remains of the 60 s of the lockout, in seconds begun (R871, Table 19-8). [log 119 DESIGN CHOICE] -/
def State.lockLeft (s : State) : Nat := max 1 ((s.uat.lockAt + 60000000 - s.us + 999999) / 1000000)

/-- NO 35 with the seconds left. -/
def State.lockNo (s : State) : List Check := [(s.uat.lockout, 35, dec s.lockLeft)]

/-- UNLOCK without an argument: while BLANK it unlocks; else it draws a challenge. [log 119 DESIGN CHOICE] -/
def verbUnlockChallenge (n : Fin 5) (args : List Text) (s : State) : Rep × State :=
  s.checked (argc args 0 0 ++ s.helmNo n ++ s.lockNo) fun s =>
    if s.lifecycle = some 0 then (okWords [txt "UNLOCKED"], s.modUat fun u => { u with unlocked := true })
    else
      let c : BitVec 32 := s.freeVal.setWidth 32
      (okWords [txt "CHAL", hex 8 c.toNat], (s.modUat fun u => { u with chal := some (c, n) }).freeNext)

/-- DEVKEY, byte 0 first. -/
def State.devKey (s : State) : List Byte := [21, 22, 23, 24].flatMap fun r => bytesOf 8 (tget 0 s.gate.fuses r).toNat

/-- The response that unlocks. [log 119 DESIGN CHOICE] -/
def State.response (s : State) (c : BitVec 32) (n : Fin 5) : Nat :=
  let msg := [0x4B, 0x41, 0x4B, 0x31] ++ bytesBE 4 c.toNat ++ bytesOf 8 (tget 0 s.gate.shadow 25).toNat ++ [BitVec.ofNat 8 n.val]
  ofBytesBE ((hmacSha256 s.devKey msg).take 4)

/-- The outstanding challenge of a session. [log 119 DESIGN CHOICE] -/
def Uat.challenge (u : Uat) (n : Fin 5) : Option (BitVec 32) :=
  match u.chal with
  | some (c, m) => if m = n then some c else none
  | none => none

/-- UNLOCK with a response. -/
def verbUnlockResponse (n : Fin 5) (args : List Text) (s : State) : Rep × State :=
  let r := (num args 0).getD 0
  s.checked (argc args 1 1 ++ isNum args 0 ++ [(decide (2 ^ 32 ≤ r), 13, [])] ++ s.helmNo n ++ s.lockNo ++
      [((s.uat.challenge n).isNone, 33, [])]) fun s =>
    let good := match s.uat.challenge n with
      | some c => s.devKey.any (· != 0) && r == s.response c n
      | none => false
    if good then (okWords [txt "UNLOCKED"], s.modUat fun u => { u with unlocked := true, chal := none, wrong := 0 })
    else
      let third := decide (3 ≤ s.uat.wrong + 1)
      (.no 34 [], s.modUat fun u =>
        { u with chal := none, wrong := u.wrong + 1, lockout := u.lockout || third, lockAt := if third then s.us else u.lockAt })

/-! Class H. -/

def verbDate (n : Fin 5) (args : List Text) (s : State) : Rep × State :=
  let d := (num args 0).getD 0
  s.checked (argc args 1 1 ++ isNum args 0 ++ [(decide (0xFFFFFE < d), 13, [])] ++ s.helmNo n) fun s =>
    let s := s.setDate d
    (okWords [txt "DAY", s.dayTxt, txt "CDATE", s.cdateTxt], s)

/-- EVAL: the reply comes when the evaluation ends. -/
def verbEval (n : Fin 5) (tag : Text) (sfx : Bool) (args : List Text) (s : State) : Rep × State :=
  s.checked (argc args 0 0 ++ s.helmNo n) fun s =>
    if s.grm.evalReq.isSome then (.busy, s)
    else (.later, s.evalStart.modUat fun u => { u with evalFor := some (n, tag, sfx) })

/-- HOLD: a hold command, decided at once. [log 122 DEDUCED] -/
def verbHold (n : Fin 5) (args : List Text) (s : State) : Rep × State :=
  s.checked (argc args 0 0 ++ [(s.wrd.mode != .run && s.wrd.mode != .reduced, 20, [])] ++ s.helmNo n) fun s =>
    let s := (s.modWrd fun w => { w with holdCmd := true }).decideAll
    (if s.wrd.mode = .safeHold then okWords [txt "SAFE", txt "HOLD"] else .later, s)

/-! Class P. -/

/-- RESET and SERVICE EXIT: the warm reset follows the reply, the earliest of such replies (R873). [log 123 DEDUCED] -/
def State.warmAfter (s : State) (n : Fin 5) (exit : Bool) : Rep × State :=
  (okWords [txt "RESET"], s.modUat fun u =>
    if u.after = .none then { u with after := .warm exit, afterSes := n, afterLeft := none } else u)

def verbReset (n : Fin 5) (args : List Text) (s : State) : Rep × State :=
  s.checked (argc args 0 0 ++ s.privNo n) fun s => s.warmAfter n false

/-- SERVICE ENTER (T7). -/
def verbServiceEnter (n : Fin 5) (args : List Text) (s : State) : Rep × State :=
  s.checked (argc args 0 0 ++ [(s.wrd.mode != .safeHold, 20, [])] ++ s.privNo n) fun s =>
    (okWords [txt "SERVICE"], s.enter .service 0 false false)

/-- SERVICE EXIT (Table 19-6). [log 114 DEDUCED] -/
def verbServiceExit (n : Fin 5) (args : List Text) (s : State) : Rep × State :=
  s.checked (argc args 0 0 ++ [(s.wrd.mode != .service, 20, [])] ++ s.privNo n) fun s => s.warmAfter n true

/-- The value that a reply shows of a row: rows 21 to 24 show 0. -/
def State.fuseShown (s : State) (row : Nat) : Nat := if 21 ≤ row ∧ row ≤ 24 then 0 else (tget 0 s.gate.fuses row).toNat

def verbFuseRead (n : Fin 5) (args : List Text) (s : State) : Rep × State :=
  let row := (num args 0).getD 0
  let count := numD args 1 1
  s.checked (argc args 1 2 ++ isNum args 0 ++ isNum args 1 ++
      [(decide (count = 0 ∨ 16 < count ∨ 128 < row + count), 13, [])] ++ s.svcNo ++ s.privNo n) fun s =>
    (okData ((List.range count).map fun i => unwords [dec (row + i), hex 16 (s.fuseShown (row + i))]), s)

/-- The rows that FUSE BLOW may write in the present lifecycle state (Table 19-7). -/
def rowBlowable (life : Option (Fin 4)) (row : Nat) : Bool :=
  match life with
  | none => false
  | some l =>
    if row = 8 then decide (l.val < 3)
    else if 9 ≤ row ∧ row ≤ 12 then decide (l.val < 2)
    else if (16 ≤ row ∧ row ≤ 19) ∨ (21 ≤ row ∧ row ≤ 24) then decide (l.val = 0)
    else if row = 20 ∨ (64 ≤ row ∧ row ≤ 127) then decide (l.val < 3)
    else false

/-- A blow of row 8 that R874 refuses. -/
def State.lifeBlowBad (s : State) (v : Nat) : Bool :=
  let r := lifecycleOf (tget 0 s.gate.fuses 8 ||| w64 v)
  let dark (rows : List Nat) : Bool := rows.all fun n => tget 0 s.gate.fuses n == 0
  match s.lifecycle, r with
  | some a, some b => decide (b.val ≠ a.val + 1) || (b.val == 2 && (dark [16, 17, 18, 19] || dark [21, 22, 23, 24]))
  | _, _ => true

/-- FUSE BLOW (R874): the bits that fail to blow stay 0. -/
def verbFuseBlow (n : Fin 5) (args : List Text) (env : ConEnv) (s : State) : Rep × State :=
  let row := (num args 0).getD 0
  let v := (num args 1).getD 0
  let may := rowBlowable s.lifecycle row
  s.checked (argc args 2 2 ++ isNum args 0 ++ isNum args 1 ++
      [(decide (127 < row ∨ 2 ^ 64 ≤ v) || (row == 8 && may && s.lifeBlowBad v), 13, [])] ++ s.svcNo ++ s.privNo n ++
      [(!may, 36, [])]) fun s =>
    let old := tget 0 s.gate.fuses row
    let new := old ||| (w64 v &&& ~~~env.blowFail)
    let s := s.modGate fun g => { g with fuses := tset 0 g.fuses row new }
    if new &&& w64 v = w64 v then (okWords [txt "ROW", dec row, hex 16 (s.fuseShown row)], s) else (.no 42 [], s)

def verbPatrolPause (n : Fin 5) (args : List Text) (s : State) : Rep × State :=
  s.checked (onOff args 0 ++ s.svcNo ++ s.privNo n) fun s =>
    (okWords [txt "PAUSE", upper (arg args 0)], s.pctlWrite (b2n (isWord args 0 "ON")))

def verbPatrolInject (n : Fin 5) (args : List Text) (s : State) : Rep × State :=
  let m := (num args 0).getD 0
  s.checked (argc args 1 1 ++ isNum args 0 ++ [(!mechanisms.contains m, 13, [])] ++ s.svcNo ++ s.privNo n) fun s =>
    (okWords [txt "INJECT", hex 2 m], s.pinjWrite (2 ^ 31 + m))

/-- LEDGER ACK (R642). -/
def verbLedgerAck (n : Fin 5) (args : List Text) (s : State) : Rep × State :=
  s.checked (argc args 0 0 ++ s.svcNo ++ [(!s.spk.damaged, 24, [])] ++ s.privNo n) fun s =>
    (okWords [txt "LEDGER"], s.modSpk fun k => { k with damaged := false, recov := k.recov &&& ~~~4#64 })

def verbUsbtest (n : Fin 5) (args : List Text) (s : State) : Rep × State :=
  s.checked (onOff args 0 ++ s.svcNo ++ s.privNo n) fun s =>
    (okWords [txt "USBTEST", upper (arg args 0)], if s.blkOn blkUSB && !s.devBusy blkUSB then s.modUsb fun u => { u with testen := isWord args 0 "ON" } else s)

/-! The IMAGE verbs (R875). -/

def portName (p : Side) : Text := slotName (some p)

/-- IMAGE: the state of the open image, with the sectors that the erase has done by now; those are erased. [log 116 DESIGN
CHOICE, 121 DEDUCED] -/
def verbImage (n : Fin 5) (args : List Text) (env : ConEnv) (s : State) : Rep × State :=
  s.checked (argc args 0 0 ++ s.svcNo ++ s.privNo n) fun s =>
    match s.uat.image with
    | none => (okWords [txt "IDLE"], s)
    | some i =>
      let left := if i.erase.isEmpty then 0 else max 1 (min i.erase.length (i.total - env.erased))
      (okWords ([txt "PORT", portName i.port] ++
        (if i.total = 0 then [] else [txt "ERASE", dec (i.total - left), txt "OF", dec i.total])),
       s.eraseNext i (i.erase.length - left))

def Xsp.modPort (x : Xsp) (p : Side) (f : XspPort → XspPort) : Xsp := x.setPort p (f (x.port p))

/-- IMAGE BEGIN; an image that is open is aborted first. [log 116 DESIGN CHOICE, 121 DEDUCED] -/
def verbImageBegin (n : Fin 5) (args : List Text) (s : State) : Rep × State :=
  let p : Side := if isWord args 0 "A" then .a else .b
  s.checked (argc args 1 1 ++ [(!(isWord args 0 "A" || isWord args 0 "B"), 14, [])] ++ s.svcNo ++
      [((s.xsp.port p).cap == 0, 23, [])] ++ s.privNo n) fun s =>
    if (s.uat.image.map fun i => !i.erase.isEmpty) = some true then (.busy, s)
    else if s.gate.slot = some p then (.no 44 [], s)
    else
      let s := s.imgAbort
      (okWords [txt "PORT", portName p],
        { s with xsp := s.xsp.modPort p fun q => { q with winoff := true },
                 uat := { s.uat with image := some { port := p, erase := [], total := 0 } } })

/-- The open image for a verb that needs one, once its erase has ended. -/
def State.withImage (s : State) (go : ImgUpd → State → Rep × State) : Rep × State :=
  match s.uat.image with
  | none => (.no 25 [], s)
  | some i => if i.erase.isEmpty then go i s else (.busy, s)

def State.imgNo (s : State) : List Check := [(s.uat.image.isNone, 25, [])]

/-- The capacity of the open port. -/
def State.imgSize (s : State) : Nat :=
  match s.uat.image with
  | some i => (s.xsp.port i.port).size
  | none => 0

/-- IMAGE ERASE: the erase runs in the background. [log 121 DEDUCED] -/
def verbImageErase (n : Fin 5) (args : List Text) (s : State) : Rep × State :=
  let off := (num args 0).getD 0
  let len := (num args 1).getD 0
  s.checked (argc args 2 2 ++ isNum args 0 ++ isNum args 1 ++
      [(decide (off % 4096 ≠ 0 ∨ len % 4096 ≠ 0 ∨ len < 4096), 13, [])] ++ s.svcNo ++ s.imgNo ++ s.privNo n) fun s =>
    s.withImage fun i s =>
      if s.imgSize < off + len then (.no 45 [], s)
      else
        let k := len / 4096
        (okWords [txt "ERASE", dec k], s.modUat fun u =>
          { u with image := some { i with erase := (List.range k).map fun j => off / 4096 + j, total := k } })

/-- Bytes of a string of hexadecimal digits. [log 113 DEDUCED] -/
def hexBytes : Text → Option (List Byte)
  | [] => some []
  | [_] => none
  | a :: b :: r =>
    match digitOf 16 a, digitOf 16 b, hexBytes r with
    | some x, some y, some l => some (BitVec.ofNat 8 (16 * x + y) :: l)
    | _, _, _ => none

/-- IMAGE DATA: each byte keeps the bits that both it and the data hold, but for those that come out otherwise. [log 90
DESIGN CHOICE, 121 DEDUCED] -/
def verbImageData (n : Fin 5) (args : List Text) (env : ConEnv) (s : State) : Rep × State :=
  let off := (num args 0).getD 0
  let hx := hexBytes (arg args 1)
  let d := hx.getD []
  s.checked (argc args 2 2 ++ isNum args 0 ++ [(hx.isNone, 12, [])] ++
      [(decide (64 < d.length ∨ d = [] ∨ off / 256 ≠ (off + d.length - 1) / 256), 13, [])] ++ s.svcNo ++ s.imgNo ++
      s.privNo n) fun s =>
    s.withImage fun i s =>
      if s.imgSize < off + d.length then (.no 45 [], s)
      else if env.flashTimeout then (.no 40 [], s)
      else
        let old := (s.xsp.port i.port).bytes off d.length
        let put := ((List.range d.length).zip (old.zip d)).map fun p => (off + p.1, p.2.1 &&& p.2.2)
        let odd := env.flashOdd.filter fun c => decide (off ≤ c.1 ∧ c.1 < off + d.length)
        let s := { s with xsp := s.xsp.modPort i.port fun q => q.change (put ++ odd) }
        let back : List Byte := (s.xsp.port i.port).bytes off d.length
        (if back == d then okWords [txt "DATA", dec d.length] else .no 40 [], s)

/-- The code that IMAGE END finds, or the records. -/
def State.imgCheck (s : State) (p : Side) : Except Nat (List Rec) :=
  let c := s.headerCheck ((s.xsp.port p).bytes 0 16)
  if c ≠ 0 then .error c
  else match s.verifyImage (s.xsp.port p) with
    | .error e => .error e.1
    | .ok rs =>
      if (recsOf tLOAD rs).all fun r => r.port != p.idx || loadDigestOk s.xsp r then .ok rs else .error 0x1B

/-- IMAGE END: the checks of the gatehouse; the image is closed either way. -/
def verbImageEnd (n : Fin 5) (args : List Text) (env : ConEnv) (s : State) : Rep × State :=
  s.checked (argc args 0 0 ++ s.svcNo ++ s.imgNo ++ s.privNo n) fun s =>
    s.withImage fun i s =>
      let seq := le ((s.xsp.port i.port).bytes 0 16) 8 4
      (if env.flashTimeout then .no 40 []
       else match s.imgCheck i.port with
        | .error c => .no 41 (hex 2 c)
        | .ok _ =>
          okWords [txt "SLOT", portName i.port, txt "SEQ", hex 8 seq, txt "NEXT", bitTxt (decide (s.imgSeq < seq))], s.imgAbort)

/-- IMAGE ABORT (R875). [log 116 DESIGN CHOICE] -/
def verbImageAbort (n : Fin 5) (args : List Text) (s : State) : Rep × State :=
  s.checked (argc args 0 0 ++ s.svcNo ++ s.imgNo ++ s.privNo n) fun s => (okWords [txt "ABORT"], s.imgAbort)

/-- IMAGE_ERASE_END: the sectors are erased, or those before the command that timed out. [log 90 DESIGN CHOICE, 121 DEDUCED] -/
def execImageEraseEnd (timeout : Option Nat) (s : State) : Out :=
  .next <| s.rooted fun s =>
    match s.uat.image with
    | none => s
    | some i =>
      (s.eraseNext i (timeout.getD i.erase.length)).modUat fun u =>
        { u with image := u.image.map fun i => { i with erase := [] } }

end Sys2Proof.Machine
end

