-- ==== Sys2Proof/Machine/Console.lean ====
section
/-! DEFINITION. The Kakosor console: characters, lines, replay, and the verbs' commands (chapter 19). -/

namespace Sys2Proof.Machine

/-! Characters (R856, R857, Table 19-3). -/

/-- Characters that the session has received while a line of its own waits (R862). [log 118 DESIGN CHOICE] -/
def State.bufUsed (s : State) (n : Fin 5) : Nat :=
  match s.uat.queue.filter fun l => decide (l.ses = n) with
  | [] => 0
  | _ :: r => (r.map Line.raw).sum + (s.ses n).raw

/-- Echo, while QUIET is 0. -/
def State.echo (s : State) (n : Fin 5) (t : Text) : State := if (s.ses n).quiet then s else s.say n false t

/-- The line being received is discarded. [log 68 DEDUCED] -/
def Session.dropLine (x : Session) : Session := { x with line := [], raw := 0, err := .none, afterCr := false }

/-- A line ends: it waits for execution. -/
def State.endLine (s : State) (n : Fin 5) (cr : Bool) : State :=
  let x := s.ses n
  let s := s.echo n crlf
  let s := s.modUat fun u => { u with queue := u.queue ++ [{ ses := n, text := x.line, err := x.err, raw := x.raw + 1 }] }
  s.modSes n fun x => { x.dropLine with afterCr := cr }

/-- A character joins the line. -/
def State.putChar (s : State) (n : Fin 5) (c : Nat) : State :=
  let x := s.ses n
  if 200 ≤ x.line.length then s.modSes n fun x => { x with err := { x.err with long := true }, raw := x.raw + 1 }
  else (s.modSes n fun x => { x with line := x.line ++ [Char.ofNat c], raw := x.raw + 1 }).echo n [Char.ofNat c]

/-- A received character of an open session. [log 117 DESIGN CHOICE] -/
def State.recvChar (s : State) (n : Fin 5) (c : Nat) : State :=
  let x := s.ses n
  let s := s.modSes n fun x => { x with afterCr := false }
  if c = 0x0A ∧ x.afterCr = true then s
  else if 256 ≤ s.bufUsed n then s.modSes n fun x => { x with drop := x.drop + 1, err := { x.err with lost := true } }
  else if c = 0x0D ∨ c = 0x0A then s.endLine n (c == 0x0D)
  else if 0x20 ≤ c ∧ c ≤ 0x7E then s.putChar n c
  else if c = 0x09 then s.putChar n 0x20
  else if c = 0x08 ∨ c = 0x7F then
    if x.line.isEmpty then s
    else (s.modSes n fun x => { x with line := x.line.dropLast, raw := x.raw + 1 }).echo n [Char.ofNat 8, ' ', Char.ofNat 8]
  else if c = 0x03 then ((s.modSes n Session.dropLine).echo n (txt "^C" ++ crlf)).prompt n
  else s.modSes n fun x => { x with err := { x.err with char := true }, raw := x.raw + 1 }

/-- The UART of session `n`. [log 117 DESIGN CHOICE] -/
def uartOf (n : Fin 5) : Option (Fin 4) := if h : n.val < 4 then some ⟨n.val, h⟩ else none

/-- CONSOLE_CHARACTER: a character of a line that began before release is discarded and counted, the LF of its line end
included (R148); a framing error is a UART's alone. [log 117 DESIGN CHOICE] -/
def execConsoleCharacter (ses : Fin 5) (ch : Byte) (framing : Bool) (s : State) : Out :=
  .next <| s.rooted fun s =>
    if !(s.ses ses).opn || s.wrd.mode == .runOut then s
    else match uartOf ses, (s.ses ses).preLine || ((s.ses ses).preCr && !framing && ch == 0x0A) with
      | some u, true => s.preChar u (if framing then none else some ch)
      | some _, false =>
        let s := s.modSes ses fun x => { x with preCr := false }
        if framing then
          s.modSes ses fun x => { x with ferr := x.ferr + 1, afterCr := false, err := { x.err with frame := true } }
        else s.recvChar ses ch.toNat
      | none, _ => s.recvChar ses ch.toNat

/-- CONSOLE_BREAK: `long` is one of 250 ms or more (R869). -/
def execConsoleBreak (ses : Fin 5) (long : Bool) (s : State) : Out :=
  .next <| s.rooted fun s =>
    match uartOf ses with
    | none => s
    | some u =>
      if !(s.ses ses).opn || s.wrd.mode == .runOut then s
      else
        let s := if (s.ses ses).preLine then s.preChar u none
          else s.modSes ses fun x => { x.dropLine with ferr := x.ferr + 1, preCr := false }
        if long then (s.endSession ses).modSes ses fun x => { x with broken := true } else s.prompt ses

/-- UART_BREAK_END (R865). -/
def execUartBreakEnd (ses : Fin 5) (s : State) : Out :=
  .next <| s.rooted fun s =>
    let x := s.ses ses
    if x.broken && !x.opn then
      let s := s.modSes ses fun x => { x with broken := false }
      if s.sesExists ses then s.startSession ses (some (txt "BREAK")) else s
    else s

/-! The USB session's packets (R752, R758, R856, R873). -/

/-- Tandem G takes the characters of the EP3 OUT packet just accepted, and releases its buffer. [log 117 DESIGN CHOICE] -/
def State.ep3Take (s : State) (bytes : List Byte) : State :=
  if (s.ses 4).opn then
    (bytes.foldl (fun s b => s.recvChar 4 b.toNat) s).modUsb fun u =>
      let p := u.ep 3
      u.setEp 3 (p.setSt (!p.hwnext) false)
  else s

/-- OUT_DATA_PACKET: one that EP3 accepts gives the USB session its characters (R758, R856). [log 117 DESIGN CHOICE] -/
def execOutDataPacket (d : UsbDev) (ep : Fin 16) (data1 : Bool) (bytes : List Byte) (s : State) : Out :=
  .next (s.onDev d fun s =>
    let t := outPacket d ep data1 bytes s
    if d = .fn ∧ ep.val = 3 ∧ t.usb.resp = .ack ∧ (t.usb.ep 3).toggle ≠ (s.usb.ep 3).toggle then t.ep3Take bytes else t)

/-- Tandem G arms the EP3 IN buffer that an IN token finds empty with the session's next characters. [log 117 DESIGN CHOICE] -/
def State.ep3Arm (s : State) : State :=
  let p := s.usb.ep 2
  let o := (s.ses 4).out
  if (s.ses 4).opn && !p.next && !o.isEmpty then
    let bytes := (o.take 64).map chNat
    let n := BitVec.ofNat 7 bytes.length
    let q := if p.hwnext then { p with buf1 := bufOf bytes, len1 := n } else { p with buf0 := bufOf bytes, len0 := n }
    ((s.modUsb fun u => u.setEp 2 (q.setSt p.hwnext true)).modSes 4 fun x => { x with out := o.drop 64 }).modUat fun u =>
      { u with afterLeft := u.afterLeft.map (· - 64) }
  else s

/-- IN_TOKEN; the console's text goes out on EP3. [log 117 DESIGN CHOICE] -/
def execInToken (d : UsbDev) (ep : Fin 16) (s : State) : Out :=
  .next (if s.nakTest d then s.usbResp .nak else s.onDev d fun s =>
    inToken d ep (if d = .fn ∧ ep.val = 3 ∧ s.usb.hasEp d 0x83 then s.ep3Arm else s))

/-- HOST_ACK (R757): of the EP3 packet that ends a reply, it starts the warm reset that awaits it (R873). [log 123 DEDUCED] -/
def execHostAck (d : UsbDev) (ep : Fin 16) (s : State) : Out :=
  .next (s.onDev d fun s =>
    let t := hostAck d ep s
    if d = .fn ∧ ep.val = 3 ∧ (s.usb.ep 2).sent = true ∧ s.uat.afterSes = 4 ∧ s.uat.afterLeft = some 0 then t.warmStart else t)

/-! The grammar of a line (R858, R859). -/

def trimL (t : Text) : Text := t.dropWhile (· == ' ')
def trimR (t : Text) : Text := (trimL t.reverse).reverse

/-- The words of a text. -/
def wordsIn : Text → Text → List Text
  | [], [] => []
  | [], w => [w]
  | c :: r, w => if c = ' ' then (if w.isEmpty then wordsIn r [] else w :: wordsIn r []) else wordsIn r (w ++ [c])

/-- What stands before the suffix, and the suffix's value, where the last three characters have its form. -/
def suffixOf (t : Text) : Option (Text × Nat) :=
  match (trimR t).reverse with
  | b :: a :: '*' :: r =>
    match digitOf 16 a, digitOf 16 b with
    | some x, some y => some (r.reverse, 16 * x + y)
    | _, _ => none
  | _ => none

/-- The tag at the start of a line and the rest; `none` where a line beginning "#" has none. -/
def tagOf (t : Text) : Option (Text × Text) :=
  match trimL t with
  | '#' :: a :: b :: c :: d :: r =>
    if [a, b, c, d].all (fun x => (digitOf 10 x).isSome) && (r.isEmpty || r.head? == some ' ') then some (['#', a, b, c, d], r)
    else none
  | '#' :: _ => none
  | r => some ([], r)

/-- The first of NO 02 to NO 08 that a line meets. -/
def lineNo (l : Line) : Option Nat :=
  let body := match suffixOf l.text with
    | some p => p.1
    | none => l.text
  let crcBad := match suffixOf l.text with
    | some p => crc8 p.1 != p.2
    | none => false
  if l.err.char then some 2
  else if l.err.long then some 3
  else if (tagOf body).isNone then some 4
  else if body.contains '*' then some 5
  else if crcBad then some 6
  else if l.err.lost then some 7
  else if l.err.frame then some 8
  else none

/-! NO codes (Table 19-8). -/

def noText (c : Nat) : Text :=
  match c with
  | 1 => txt "VERB" | 2 => txt "CHAR" | 3 => txt "LONG" | 4 => txt "TAG" | 5 => txt "SUFFIX" | 6 => txt "CRC" | 7 => txt "LOST"
  | 8 => txt "FRAME" | 10 => txt "MISSING" | 11 => txt "EXTRA" | 12 => txt "NUMBER" | 13 => txt "RANGE" | 14 => txt "KEYWORD"
  | 20 => txt "MODE" | 21 => txt "SERVICE" | 22 => txt "SESSION" | 23 => txt "ABSENT" | 24 => txt "NODATA" | 25 => txt "ORDER"
  | 30 => txt "NOHELM" | 31 => txt "HELM" | 32 => txt "LOCKED" | 33 => txt "NOCHAL" | 34 => txt "DENIED" | 35 => txt "LOCKOUT"
  | 36 => txt "FUSE" | 40 => txt "FLASH" | 41 => txt "IMAGE" | 42 => txt "BLOW" | 44 => txt "INUSE" | _ => txt "CAPACITY"

/-- The violation counter of a code. [log 115 DEDUCED] -/
def noCounter (c : Nat) : Option Nat :=
  match c with
  | 1 => some 48 | 2 => some 49 | 3 => some 50 | 4 => some 51 | 5 => some 52 | 6 => some 52 | 7 => some 53
  | 10 => some 54 | 11 => some 54 | 12 => some 54 | 13 => some 54 | 14 => some 54 | 31 => some 55 | 34 => some 56 | 35 => some 56
  | _ => none

/-- A NO code adds 1 to its violation counter (R877, Table 19-8). [log 115 DEDUCED] -/
def State.countNo (s : State) (c : Nat) : State :=
  match noCounter c with
  | some k => s.vc k
  | none => s

/-- The text of a NO line. [log 113 DEDUCED] -/
def noLine (c : Nat) (extra : Text) : Text :=
  unwords ([txt "NO", digits 10 2 2 c, noText c] ++ (if extra.isEmpty then [] else [extra]))

/-- A line has executed. [log 115 DEDUCED] -/
def State.ran (s : State) (n : Fin 5) : State := s.modSes n fun x => { x with lines := x.lines + 1 }

/-- Send what a verb answered. -/
def State.answer (n : Fin 5) (tag : Text) (sfx : Bool) (q : Rep × State) : State :=
  match q.1 with
  | .ok first data => (q.2.ran n).reply n tag sfx false (txt "OK " ++ first) (data.getD [])
  | .no c extra => ((q.2.ran n).countNo c).reply n tag sfx false (noLine c extra) []
  | .busy => q.2.reply n tag sfx true (txt "BUSY") []
  | .later => q.2.ran n

/-- Run a verb and send what it answered; what the verb itself made the session receive, a notification, follows the reply
(Table 19-10). The session may have ended meanwhile: the reply is then discarded (R881). [log 122 DEDUCED] -/
def State.conclude (n : Fin 5) (tag : Text) (sfx : Bool) (run : State → Rep × State) (s : State) : State :=
  let before := (s.ses n).out
  let q := run s
  if !(q.2.ses n).opn then q.2
  else
    let note := (q.2.ses n).out.drop before.length
    let s := State.answer n tag sfx (q.1, q.2.modSes n fun x => { x with out := before })
    if note.isEmpty then s else s.say n false note

/-! Dispatch (R872). -/

/-- A verb with a keyword as its first argument; its syntaxes have from `lo` to `hi` arguments, the keyword among them, which
is what a line without a known keyword is held to. [log 113 DEDUCED] -/
def subVerb (args : List Text) (lo hi : Nat) (l : List (String × (List Text → Rep × State))) (s : State) : Rep × State :=
  match l.find? fun p => decide (args ≠ []) && txt p.1 == upper (arg args 0) with
  | some p => p.2 args.tail
  | none => s.checked (argc args lo hi) fun s => (.no 14 [], s)

/-- What the verb `w` answers. -/
def runVerb (n : Fin 5) (env : ConEnv) (tag : Text) (sfx : Bool) (w : Text) (args : List Text) (s : State) : Rep × State :=
  let verbs : List (String × (Unit → Rep × State)) :=
    [("HELP", fun _ => verbHelp args s), ("VER", fun _ => verbVer args s), ("MODE", fun _ => verbMode args s),
     ("STATUS", fun _ => verbStatus args s), ("REPORT", fun _ => verbReport n args s), ("DET", fun _ => verbDet args s),
     ("LOG", fun _ => verbLog args s), ("LIFE", fun _ => verbLife args s), ("WEAR", fun _ => verbWear args s),
     ("VC", fun _ => verbVc args s), ("TIME", fun _ => verbTime args s), ("SESSION", fun _ => verbSession n args s),
     ("QUIET", fun _ => verbQuiet n args s), ("NOTIFY", fun _ => verbNotify n args s), ("BAUD", fun _ => verbBaud n args s),
     ("HELM", fun _ => subVerb args 1 1 [("TAKE", fun a => verbHelmTake n a s), ("FREE", fun a => verbHelmFree n a s)] s),
     ("UNLOCK", fun _ => if args.isEmpty then verbUnlockChallenge n args s else verbUnlockResponse n args s),
     ("LOCK", fun _ => verbLock n args s), ("DATE", fun _ => verbDate n args s), ("EVAL", fun _ => verbEval n tag sfx args s),
     ("HOLD", fun _ => verbHold n args s), ("RESET", fun _ => verbReset n args s),
     ("SERVICE", fun _ => subVerb args 1 1 [("ENTER", fun a => verbServiceEnter n a s),
        ("EXIT", fun a => verbServiceExit n a s)] s),
     ("FUSE", fun _ => subVerb args 2 3 [("READ", fun a => verbFuseRead n a s),
        ("BLOW", fun a => verbFuseBlow n a env s)] s),
     ("IMAGE", fun _ => if args.isEmpty then verbImage n args env s
        else subVerb args 1 3 [("BEGIN", fun a => verbImageBegin n a s), ("ERASE", fun a => verbImageErase n a s),
          ("DATA", fun a => verbImageData n a env s), ("END", fun a => verbImageEnd n a env s),
          ("ABORT", fun a => verbImageAbort n a s)] s),
     ("PATROL", fun _ => subVerb args 2 2 [("PAUSE", fun a => verbPatrolPause n a s),
        ("INJECT", fun a => verbPatrolInject n a s)] s),
     ("LEDGER", fun _ => subVerb args 1 1 [("ACK", fun a => verbLedgerAck n a s)] s),
     ("USBTEST", fun _ => verbUsbtest n args s)]
  match verbs.find? fun p => txt p.1 == upper w with
  | some p => p.2 ()
  | none => (.no 1 [], s)

/-! Lines (R859 to R862). -/

/-- Execute a line that has passed the checks of NO 02 to NO 08. [log 113 DEDUCED] -/
def State.execLine (s : State) (l : Line) (env : ConEnv) : State :=
  let sfx := (suffixOf l.text).isSome
  let body := match suffixOf l.text with
    | some p => p.1
    | none => l.text
  match tagOf body with
  | none => s
  | some (tag, rest) =>
    match (if tag.isEmpty then none else (s.ses l.ses).replay.lookup tag), wordsIn rest [] with
    | some stored, _ =>
      ((s.say l.ses true stored).modSes l.ses fun x => { x with replays := x.replays + 1 }).prompt l.ses
    | none, [] => if tag.isEmpty then s.prompt l.ses else s.conclude l.ses tag sfx fun s => (.no 1 [], s)
    | none, w :: args => s.conclude l.ses tag sfx (runVerb l.ses env tag sfx w args)

/-- One waiting line is taken. [log 113 DEDUCED] -/
def State.takeLine (s : State) (l : Line) (env : ConEnv) : State :=
  let s := s.modUat fun u => { u with queue := u.queue.erase l }
  match lineNo l with
  | some c => (s.countNo c).reply l.ses [] (suffixOf l.text).isSome false (noLine c []) []
  | none => s.execLine l env

/-- CONSOLE_LINE: the first line, in line-end order, whose session has room for its previous reply; one at a time across all
sessions. -/
def execConsoleLine (env : ConEnv) (s : State) : Out :=
  .next <| s.rooted fun s =>
    if !s.serves || s.uat.evalFor.isSome then s
    else match s.uat.queue.find? fun l => decide ((s.ses l.ses).out.length ≤ 4096) with
      | some l => s.takeLine l env
      | none => s

/-- A verb's command: an untagged line without a suffix, already parsed, from an open session. -/
def State.verbCmd (s : State) (n : Fin 5) (run : State → Rep × State) : State :=
  if s.serves && s.clk.crystal && (s.ses n).opn && s.uat.evalFor.isNone then s.conclude n [] false run else s

def execHelp (ses : Fin 5) (args : List Text) (s : State) : Out := .next (s.verbCmd ses (verbHelp args))
def execVer (ses : Fin 5) (args : List Text) (s : State) : Out := .next (s.verbCmd ses (verbVer args))
def execMode (ses : Fin 5) (args : List Text) (s : State) : Out := .next (s.verbCmd ses (verbMode args))
def execStatus (ses : Fin 5) (args : List Text) (s : State) : Out := .next (s.verbCmd ses (verbStatus args))
def execReport (ses : Fin 5) (args : List Text) (s : State) : Out := .next (s.verbCmd ses (verbReport ses args))
def execDet (ses : Fin 5) (args : List Text) (s : State) : Out := .next (s.verbCmd ses (verbDet args))
def execLog (ses : Fin 5) (args : List Text) (s : State) : Out := .next (s.verbCmd ses (verbLog args))
def execLife (ses : Fin 5) (args : List Text) (s : State) : Out := .next (s.verbCmd ses (verbLife args))
def execWear (ses : Fin 5) (args : List Text) (s : State) : Out := .next (s.verbCmd ses (verbWear args))
def execVc (ses : Fin 5) (args : List Text) (s : State) : Out := .next (s.verbCmd ses (verbVc args))
def execTime (ses : Fin 5) (args : List Text) (s : State) : Out := .next (s.verbCmd ses (verbTime args))
def execSession (ses : Fin 5) (args : List Text) (s : State) : Out := .next (s.verbCmd ses (verbSession ses args))
def execQuiet (ses : Fin 5) (args : List Text) (s : State) : Out := .next (s.verbCmd ses (verbQuiet ses args))
def execNotify (ses : Fin 5) (args : List Text) (s : State) : Out := .next (s.verbCmd ses (verbNotify ses args))
def execBaud (ses : Fin 5) (args : List Text) (s : State) : Out := .next (s.verbCmd ses (verbBaud ses args))
def execHelmTake (ses : Fin 5) (args : List Text) (s : State) : Out := .next (s.verbCmd ses (verbHelmTake ses args))
def execHelmFree (ses : Fin 5) (args : List Text) (s : State) : Out := .next (s.verbCmd ses (verbHelmFree ses args))
def execUnlockChallenge (ses : Fin 5) (args : List Text) (s : State) : Out :=
  .next (s.verbCmd ses (verbUnlockChallenge ses args))
def execUnlockResponse (ses : Fin 5) (args : List Text) (s : State) : Out :=
  .next (s.verbCmd ses (verbUnlockResponse ses args))
def execLock (ses : Fin 5) (args : List Text) (s : State) : Out := .next (s.verbCmd ses (verbLock ses args))
def execDate (ses : Fin 5) (args : List Text) (s : State) : Out := .next (s.verbCmd ses (verbDate ses args))
def execEval (ses : Fin 5) (args : List Text) (s : State) : Out := .next (s.verbCmd ses (verbEval ses [] false args))
/-- HOLD: the hold command (Table 19-6). [log 122 DEDUCED] -/
def execHold (ses : Fin 5) (args : List Text) (s : State) : Out := .next (s.verbCmd ses (verbHold ses args))
def execReset (ses : Fin 5) (args : List Text) (s : State) : Out := .next (s.verbCmd ses (verbReset ses args))
def execServiceEnter (ses : Fin 5) (args : List Text) (s : State) : Out := .next (s.verbCmd ses (verbServiceEnter ses args))
def execServiceExit (ses : Fin 5) (args : List Text) (s : State) : Out := .next (s.verbCmd ses (verbServiceExit ses args))
def execFuseRead (ses : Fin 5) (args : List Text) (s : State) : Out := .next (s.verbCmd ses (verbFuseRead ses args))
def execFuseBlow (ses : Fin 5) (args : List Text) (env : ConEnv) (s : State) : Out :=
  .next (s.verbCmd ses (verbFuseBlow ses args env))
def execImage (ses : Fin 5) (args : List Text) (env : ConEnv) (s : State) : Out := .next (s.verbCmd ses (verbImage ses args env))
def execImageBegin (ses : Fin 5) (args : List Text) (s : State) : Out := .next (s.verbCmd ses (verbImageBegin ses args))
def execImageErase (ses : Fin 5) (args : List Text) (s : State) : Out := .next (s.verbCmd ses (verbImageErase ses args))
def execImageData (ses : Fin 5) (args : List Text) (env : ConEnv) (s : State) : Out :=
  .next (s.verbCmd ses (verbImageData ses args env))
def execImageEnd (ses : Fin 5) (args : List Text) (env : ConEnv) (s : State) : Out :=
  .next (s.verbCmd ses (verbImageEnd ses args env))
def execImageAbort (ses : Fin 5) (args : List Text) (s : State) : Out := .next (s.verbCmd ses (verbImageAbort ses args))
def execPatrolPause (ses : Fin 5) (args : List Text) (s : State) : Out := .next (s.verbCmd ses (verbPatrolPause ses args))
def execPatrolInject (ses : Fin 5) (args : List Text) (s : State) : Out := .next (s.verbCmd ses (verbPatrolInject ses args))
def execLedgerAck (ses : Fin 5) (args : List Text) (s : State) : Out := .next (s.verbCmd ses (verbLedgerAck ses args))
def execUsbtest (ses : Fin 5) (args : List Text) (s : State) : Out := .next (s.verbCmd ses (verbUsbtest ses args))

/-! What follows a reply, and the console's timers (R868, R870, R871, R873). -/

/-- CONSOLE_REPLY_END: what was queued has been sent; a new rate or a warm reset follows. [log 118 DESIGN CHOICE, 123
DEDUCED] -/
def execConsoleReplyEnd (ses : Fin 5) (s : State) : Out :=
  .next <| s.rooted fun s =>
    let s := s.modSes ses fun x => { x with out := [], rate := x.newRate.getD x.rate, newRate := none }
    if s.uat.afterSes = ses then s.warmStart else s

/-- HELM_IDLE_EXPIRY: not while a line of the holder waits or executes. [log 120 DESIGN CHOICE] -/
def execHelmIdleExpiry (s : State) : Out :=
  .next <| s.rooted fun s =>
    match s.uat.helm with
    | none => s
    | some h =>
      let waits := (s.uat.queue.any fun l => decide (l.ses = h)) || (match s.uat.evalFor with
        | some e => decide (e.1 = h)
        | none => false)
      if waits then s else s.freeHelm

/-- CHALLENGE_EXPIRY: the challenge is no longer outstanding (R870). [log 120 DESIGN CHOICE] -/
def execChallengeExpiry (s : State) : Out := .next (s.rooted fun s => s.modUat fun u => { u with chal := none })

/-- LOCKOUT_EXPIRY (R871). [log 119 DESIGN CHOICE, 120 DESIGN CHOICE] -/
def execLockoutExpiry (s : State) : Out :=
  .next (s.rooted fun s => if s.uat.lockout then s.modUat fun u => { u with lockout := false, wrong := 0 } else s)

/-! The registers (R886). -/

def uatWide (off : Nat) : Bool := 0x108 ≤ off && off < 0x150 && off % 0x10 == 8

/-- A read of a UAT register (R886). [log 115 DEDUCED] -/
def uatRead (off : Nat) (s : State) : Nat × State :=
  let u := s.uat
  let v : Nat :=
    if off = 0x0 then 0x4D550101
    else if off = 0x8 then
      pack [(19, b2n u.lockout), (16, match u.helm with
        | some h => h.val
        | none => 7), (8, b2n u.unlocked), (0, s.openMask)]
    else if 0x100 ≤ off && off < 0x150 then
      let x := tget Session.reset u.ses ((off - 0x100) / 0x10)
      if off % 0x10 = 0 then pack [(9, b2n x.notify), (8, b2n x.quiet), (0, x.rate.val)]
      else if off % 0x10 = 8 then pack [(48, x.lines.toNat), (32, x.replays.toNat), (16, x.ferr.toNat), (0, x.drop.toNat)]
      else 0
    else 0
  (v, s)

end Sys2Proof.Machine
end

