-- ==== Sys2Proof/Machine/Dev.lean ====
section
/-! DEFINITION. Device registers as the tandems reach them: the seventeen blocks of Table 1-2, each by the cards of its own
chapter. Offsets are multiples of 8; a register that no card gives reads 0 and ignores writes (R9). -/

namespace Sys2Proof.Machine

/-- The 8 bytes at offset `off` hold a 64-bit register. [log 15 DESIGN CHOICE] -/
def devWide (b : Fin 17) (off : Nat) : Bool :=
  match b.val with
  | 0 => wrdWide off | 1 => clkWide off | 2 => gateWide off | 3 => irtWide off | 4 => schWide off | 5 => schWide off
  | 6 => spkWide off | 7 => grmWide off | 8 => drcWide off | 9 => xspWide off | 10 => ctaWide off | 11 => pioWide off
  | 12 => usbWide off | 13 => canWide off | 14 => canWide off | 15 => nfcWide off | _ => uatWide off

/-- A read of the register at an offset; its RC fields clear (R9). -/
def devRead (s : State) (t : Tandem) (b : Fin 17) (off : Nat) : Nat × State :=
  match b.val with
  | 0 => wrdRead off s | 1 => clkRead off s | 2 => gateRead off s | 3 => irtRead off s | 4 => schRead .a off s
  | 5 => schRead .b off s | 6 => spkRead off s | 7 => grmRead off s | 8 => drcRead off s | 9 => xspRead off s
  | 10 => ctaRead off s | 11 => pioRead off s | 12 => usbRead off s | 13 => canRead .a t off s | 14 => canRead .b t off s
  | 15 => nfcRead off s | _ => uatRead off s

/-- A write of the register at an offset. The cards of the GATE and UAT blocks give no field to write. -/
def devWrite (s : State) (t : Tandem) (b : Fin 17) (off v : Nat) : State :=
  match b.val with
  | 0 => wrdWrite t off v s | 1 => clkWrite t off v s | 3 => irtWrite t off v s | 4 => schWrite .a t off v s
  | 5 => schWrite .b t off v s | 6 => spkWrite off v s | 7 => grmWrite off v s | 8 => drcWrite off v s
  | 9 => xspWrite t off v s | 10 => ctaWrite off v s | 11 => pioWrite off v s | 12 => usbWrite t off v s
  | 13 => canWrite .a t off v s | 14 => canWrite .b t off v s | 15 => nfcWrite t off v s
  | _ => s

end Sys2Proof.Machine
end

