-- ==== Sys2Proof/Machine/Operands.lean ====
section
/-! DEFINITION. What one word of a tandem can do to memory and how it faults: register sources, the checks of Table 5-8,
translation (chapter 11), loads through the store buffer and stores into it (chapter 12), and the fetch checks. -/

namespace Sys2Proof.Machine

/-- A fault of a word: class and detail (Table 9-1), the first failing source (R222), the pair half and EADDR (R964). -/
structure Exc where
  cls : Nat
  det : Nat
  /-- SRCKIND: 0 g, 1 c, 2 f, 3 none. -/
  kind : Nat
  /-- SRCNUM; for TLB_MISS and the XLATE faults, which name no source, XMISS.KIND. -/
  num : Nat
  half : Bool
  addr : Nat
  deriving DecidableEq, Repr

/-- What a word does: a result and a state, or a fault and the state the fault leaves. -/
abbrev Cm (α : Type) := EStateM Exc State α

/-- Not a fault: the word waits and changes nothing (R630). No fault has this class. -/
def Exc.waits : Exc := ⟨16, 0, 3, 0, false, 0⟩

/-- A fault with no source register and no address. [log 27 DEDUCED] -/
def raise {α : Type} (cls det : Nat) : Cm α := throw ⟨cls, det, 3, 0, false, 0⟩
/-- A fault at an address. [log 27 DEDUCED] -/
def raiseAt {α : Type} (cls det va : Nat) : Cm α := throw ⟨cls, det, 3, 0, false, va % 2 ^ 44⟩
/-- A fault of a source register, by its kind and number. [log 27 DEDUCED, 28 DEDUCED] -/
def raiseSrc {α : Type} (cls det kind num : Nat) : Cm α := throw ⟨cls, det, kind, num, false, 0⟩
/-- A capability fault at an address, with its register. [log 27 DEDUCED] -/
def raiseCapAt {α : Type} (det num va : Nat) : Cm α := throw ⟨1, det, 1, num, false, va % 2 ^ 44⟩

/-! Fault details (Tables 5-9, 6-12, 7-7, 9-1, 11-5). -/

def dUNWRITTEN : Nat := 0x01
def dPOISON : Nat := 0x02
def dCORRUPT : Nat := 0x03
def dNOTINSN : Nat := 0x04
def dPARTIAL : Nat := 0x05
def dTAGSET : Nat := 0x06
def dINVALID : Nat := 0x10
def dSEALED : Nat := 0x11
def dRING : Nat := 0x12
def dPERM : Nat := 0x13
def dBOUNDS : Nat := 0x14
def dALIGN : Nat := 0x15
def dMONO : Nat := 0x16
def dINEXACT : Nat := 0x17
def dTYPE : Nat := 0x18
def dWICKET : Nat := 0x19
def dDUR : Nat := 0x1A
def dTETHER : Nat := 0x1B
def dREGION : Nat := 0x1C
def dPRIV : Nat := 0x1D

/-- CAP_PRIV: EADDR 0, as for every exception that R964 does not name. -/
def raisePriv {α : Type} : Cm α := raise 1 dPRIV

/-- Require SYS on PCC. [log 28 DEDUCED, 41 DEDUCED] -/
def needSys (t : Tandem) : Cm Unit := do
  if ((← get).cpu t).sys then pure () else raisePriv

/-- Require SYS on PCC and ring 0, of an access at `ea`, or, for `ea` 0, of a word without one. [log 27 DEDUCED] -/
def needSys0At (t : Tandem) (ea : Nat) : Cm Unit := do
  let c := (← get).cpu t
  if c.sys && c.ring == 0 then pure () else raiseAt 1 dPRIV ea

/-- Require SYS on PCC and ring 0. -/
def needSys0 (t : Tandem) : Cm Unit := needSys0At t 0

/-- The bits of a value that must hold a data tag (R283, Table 5-2). [log 28 DEDUCED] -/
def needData (v : TWord) (kind num : Nat) : Cm W64 :=
  match v.tag with
  | .unwritten => raiseSrc 0 dUNWRITTEN kind num
  | .poison => raiseSrc 0 dPOISON kind num
  | _ => pure v.bits

/-- A general source register read as data. [log 28 DEDUCED] -/
def srcG (t : Tandem) (r : Reg) : Cm W64 := do
  needData (((← get).cpu t).lk.getG r) 0 r.val

def srcF (m : Side) (r : FReg) : Cm W64 := do
  needData (((← get).cpu m.tandem).lk.getF r) 2 r.val

def rawG (t : Tandem) (r : Reg) : Cm TWord := do
  pure (((← get).cpu t).lk.getG r)

def rawC (t : Tandem) (r : CReg) : Cm Cap := do
  pure (((← get).cpu t).lk.getC r)

def modLk (t : Tandem) (f : Locker → Locker) : Cm Unit :=
  modify fun s => s.modCpu t fun c => c.setLk (f c.lk)

def putG (t : Tandem) (r : Reg) (v : TWord) : Cm Unit := modLk t fun l => l.setG r v
def putInt (t : Tandem) (r : Reg) (v : W64) : Cm Unit := putG t r (.int v)
def putC (t : Tandem) (r : CReg) (v : Cap) : Cm Unit := modLk t fun l => l.setC r v
def putF (t : Tandem) (r : FReg) (v : TWord) : Cm Unit := modLk t fun l => l.setF r v

/-- The address of the executing word (R269). -/
def pcNow (t : Tandem) : Cm Nat := do
  pure ((← get).cpu t).lk.pcc.cursor

/-! Translation (R508 to R524). -/

/-- XMISS.KIND. -/
inductive AKind where
  | fetch
  /-- A fetch ahead of execution: it raises nothing (R387, R525). -/
  | ahead
  | load | store | capLoad | capStore | fill
  deriving DecidableEq, Repr

def AKind.code : AKind → Nat
  | .fetch => 0 | .ahead => 0 | .load => 1 | .store => 2 | .capLoad => 3 | .capStore => 4 | .fill => 5

def AKind.isFetch : AKind → Bool
  | .fetch | .ahead => true
  | _ => false

/-- Store-kind accesses (R522). -/
def AKind.isStore : AKind → Bool
  | .store | .capStore | .fill => true
  | _ => false

def TlbEnt.size (e : TlbEnt) : Nat := wf e.hi 44 6
def TlbEnt.v (e : TlbEnt) : Bool := bitOf e.hi.toNat 55
def TlbEnt.g (e : TlbEnt) : Bool := bitOf e.hi.toNat 54
def TlbEnt.lock (e : TlbEnt) : Bool := bitOf e.hi.toNat 53
def TlbEnt.asid (e : TlbEnt) : Nat := wf e.hi 56 8

/-- The match of R512. -/
def TlbEnt.hit (e : TlbEnt) (asid va : Nat) : Bool :=
  e.v && (e.g || e.asid == asid) && (va % 2 ^ 44 / 2 ^ e.size == wf e.hi 12 32 * 2 ^ 12 / 2 ^ e.size)

/-- The physical address of R512. -/
def TlbEnt.pa (e : TlbEnt) (va : Nat) : Nat :=
  let sz := e.size
  if 40 ≤ sz then va % 2 ^ 40 else wf e.lo 12 28 * 2 ^ 12 / 2 ^ sz * 2 ^ sz + va % 2 ^ sz

def Cpu.xOn (c : Cpu) : Bool := bitOf c.xctl.toNat 0
def Cpu.asid (c : Cpu) : Nat := wf c.xctl 8 8

/-- An XLATE fault; its entry writes EADDR and XMISS (R520). -/
def xlate {α : Type} (k : AKind) (det va : Nat) : Cm α := throw ⟨6, det, 3, k.code, false, va % 2 ^ 44⟩

/-- TLB_MISS; its entry writes EADDR and XMISS and loads TLBHI for the refill (R520). -/
def tlbMiss {α : Type} (k : AKind) (va : Nat) : Cm α := throw ⟨5, 0x50, 3, k.code, false, va % 2 ^ 44⟩

/-- A multiple match: MC_TLBMULTI, counted and reported (R527, R425). [log 46 DEDUCED] -/
def tlbMulti {α : Type} (t : Tandem) (va : Nat) : Cm α := do
  modify fun s => (s.modCpu t fun c => { c with xmulti := satAdd 0xFFFF c.xmulti 1 }).mchk 0x10
  raiseAt 9 0x71 va

/-- An uncorrectable error that a tandem meets: ECCU with its memory group (R425, R897). [log 45 DEDUCED] -/
def eccAt {α : Type} (group va : Nat) : Cm α := do
  modify fun s => (s.detect 4 group).eccUnc group
  raiseAt 9 0x70 va

/-- An uncorrectable error that a word or, reported only, a fetch ahead of it meets (R415, R534). -/
def eccMet {α : Type} (k : AKind) (group va : Nat) : Cm α :=
  if k = .ahead then do
    modify fun s => s.dropped group
    raiseAt 9 0x70 va
  else eccAt group va

/-- The read of check bits at a site; an uncorrectable error is met at `va`. -/
def checkSite (k : AKind) (x : Site) (va : Nat) : Cm Unit := do
  let s ← get
  let r := s.check x
  set (s.hw r.1)
  if r.2 then eccMet k (s.siteGroup x) va else pure ()

/-- A read of an entry of the unified TLB: one with an uncorrectable error takes V = 0 (R534). -/
def tlbCheck (m : Side) (k : AKind) (va i : Nat) : Cm Unit := do
  let s ← get
  let r := s.check (.tlb m i)
  set (s.hw r.1)
  if r.2 then do
    modify fun s => (s.clearSite (.tlb m i)).modCpu m.tandem fun c => { c with tlb := tmod none c.tlb i fun e => e.map TlbEnt.kill }
    eccMet k (ownGroup m.tandem) va
  else pure ()

/-- The entries of the unified TLB that hold wrong bits. -/
def State.badTlb (s : State) (m : Side) : List Nat :=
  s.upset.filterMap fun u => match u.site with
    | .tlb n i => if n = m then some i else none
    | _ => none

/-- A lookup reads every entry of the unified TLB, one that software has never written too (R534). -/
def tlbScan (m : Side) (k : AKind) (va : Nat) : Cm Unit := do
  ((← get).badTlb m).forM (tlbCheck m k va)

/-- The micro-TLB that an access uses. -/
def Cpu.micro (c : Cpu) (k : AKind) : List TlbEnt := if k.isFetch then c.itlb else c.dtlb

def Cpu.setMicro (c : Cpu) (k : AKind) (l : List TlbEnt) : Cpu :=
  if k.isFetch then { c with itlb := l } else { c with dtlb := l }

/-- The same for the micro-TLB: the entry goes (R534). -/
def microScan (m : Side) (k : AKind) (va : Nat) : Cm Unit := do
  let c := (← get).cpu m.tandem
  (c.micro k).forM fun e => do
    let x : Site := if k.isFetch then .itlb m e else .dtlb m e
    let s ← get
    let r := s.check x
    set (s.hw r.1)
    if r.2 then do
      modify fun s => (s.clearSite x).modCpu m.tandem fun c => c.setMicro k ((c.micro k).filter fun y => decide (y ≠ e))
      eccMet k (ownGroup m.tandem) va
    else pure ()

/-- The unified entries that match, lowest index first (R512). -/
def Cpu.matches (c : Cpu) (asid va : Nat) : List (Nat × TlbEnt) :=
  c.tlb.filterMap fun p =>
    match p.2 with
    | some e => if e.hit asid va then some (p.1, e) else none
    | none => none

/-- Move a micro-TLB entry to the front: it is the most recently used. [log 46 DEDUCED] -/
def lruPut (n : Nat) (e : TlbEnt) (l : List TlbEnt) : List TlbEnt := (e :: l.filter fun x => decide (x ≠ e)).take n

/-- A unified entry is copied into the micro-TLB, with right bits (events 0x09 and 0x0A). [log 46 DEDUCED] -/
def State.microFill (s : State) (t : Tandem) (k : AKind) (e : TlbEnt) : State :=
  let s := match t.side with
    | some m => s.clearSite (if k.isFetch then .itlb m e else .dtlb m e)
    | none => s
  (s.modCpu t fun c => c.setMicro k (lruPut (if k.isFetch then 8 else 16) e (c.micro k))).event t (if k.isFetch then 0x09 else 0x0A) 1

/-- The lookup of R513: the micro-TLB, then the unified TLB, whose one match is copied; an uncorrectable error comes before a
multiple match. [log 46 DEDUCED, 139 DESIGN CHOICE] -/
def lookup (t : Tandem) (k : AKind) (va : Nat) : Cm TlbEnt := do
  let scan (f : Side → AKind → Nat → Cm Unit) : Cm Unit := match t.side with
    | some m => f m k va
    | none => pure ()
  scan microScan
  let c := (← get).cpu t
  let put (e : TlbEnt) : Cm Unit := modify fun s => s.modCpu t fun c =>
    c.setMicro k (lruPut (if k.isFetch then 8 else 16) e (c.micro k))
  match (c.micro k).filter fun e => e.hit c.asid va with
  | [e] => put e; pure e
  | _ :: _ :: _ => tlbMulti t va
  | [] => do
    scan tlbScan
    let c := (← get).cpu t
    match c.matches c.asid va with
    | [p] => do
      if k = .ahead then pure () else modify fun s => s.microFill t k p.2
      pure p.2
    | [] => tlbMiss k va
    | _ => tlbMulti t va

/-- A fetch ahead of execution that is not dropped copies its unified entry then (R525). -/
def aheadFill (t : Tandem) (k : AKind) (va : Nat) : Cm Unit := modify fun s =>
  let c := s.cpu t
  if k = .ahead ∧ t.isG = false ∧ c.xOn = true ∧ (c.itlb.filter fun e => e.hit c.asid va).isEmpty then
    match c.matches c.asid va with
    | [p] => s.microFill t k p.2
    | _ => s
  else s

/-- Rows 1 to 5 of Table 11-3 for the page of `va`: physical address, the bytes of the page from there on, and ATTR. Tandem G's
virtual address is its physical one, at 2^40 and above too, where no region lies (R34, R509). [log 128 DESIGN CHOICE] -/
def pageOf (t : Tandem) (k : AKind) (ring va : Nat) : Cm (Nat × Nat × Nat) := do
  let c := (← get).cpu t
  if t.isG then pure (va, 2 ^ 44 - va, 0)
  else if !c.xOn then
    if va < 2 ^ 40 then pure (va, 2 ^ 40 - va, 0) else xlate k 0x51 va
  else do
    let e ← lookup t k va
    if wf e.lo 8 2 < ring then xlate k 0x52 va
    else if k.isFetch && !bitOf e.lo.toNat 6 then xlate k 0x53 va
    else if k.isStore && !bitOf e.lo.toNat 5 then xlate k 0x54 va
    else if k.isStore && !bitOf e.lo.toNat 7 then xlate k 0x55 va
    else pure (e.pa va, 2 ^ e.size - va % 2 ^ e.size, wf e.lo 0 3)

/-- Row 7 (Table 11-1). -/
def attrAgrees (attr : Nat) (r : Region) : Bool :=
  match attr, r with
  | 0, _ => true
  | 1, .sram | 1, .dram => true
  | 2, .spenik => true
  | 3, .dev _ => true
  | 4, .winA | 4, .winB => true
  | _, _ => false

/-- The region is a block of device registers. -/
def Region.isDev : Region → Bool
  | .dev _ => true
  | _ => false

/-- Row 8: where a fetch may go (R396); tandem G also runs from its ROM and TCM. -/
def Region.fetchable : Region → Bool
  | .sram | .dram | .spenik | .rom | .tcm => true
  | _ => false

/-- Row 9: read-only regions (R26). -/
def Region.readOnly : Region → Bool
  | .rom | .winA | .winB => true
  | _ => false

/-- The region rule that row 10 applies to an access. -/
inductive RegionRule where
  | none
  /-- A data access: DEV_SIZE in a device region (R290). -/
  | data
  /-- FLD and FST: never in a device region (R290). -/
  | fp
  /-- Capability accesses, SPOIS, CLRP and SWEEP elements: CAP_REGION in a device region (R243, R294, R334). -/
  | noDev
  /-- LR and SC: cacheable regions only (R339). -/
  | lrsc
  /-- TAS: device and persistent regions only (R339), 8 bytes in a device region (R342). -/
  | tas
  deriving DecidableEq, Repr

/-- DEV_SIZE is due for an access of `n` bytes at offset `off` of a block (R290). -/
def devSizeBad (b : Fin 17) (off n : Nat) : Bool :=
  if n = 8 then off % 8 != 0
  else if n = 4 then off % 4 != 0 || devWide b (off / 8 * 8)
  else true

/-- Rows 6 to 10 of Table 11-3 for the physical bytes of an access and the ATTR of its pages (R522, R523). -/
def judge (t : Tandem) (k : AKind) (rule : RegionRule) (va n : Nat) (ph : Phys) (at1 at2 : Nat) : Cm (Phys × Region) := do
  let s ← get
  let r1 := s.regionOf t ph.lo ph.n
  let r2 := if n ≤ ph.n then r1 else s.regionOf t ph.hi (n - ph.n)
  match r1 with
  | none => raiseAt 3 0x40 va
  | some r =>
    if r2 ≠ some r then raiseAt 3 0x40 va
    else if r = .spenik ∧ t = .g ∧ s.spk.recovered = false then throw Exc.waits
    else if !(attrAgrees at1 r && attrAgrees at2 r) then xlate k 0x56 va
    else if k.isFetch && !r.fetchable then xlate k 0x57 va
    else if k.isStore && r.readOnly then raiseAt 3 0x41 va
    else
      match rule with
      | .none => pure (ph, r)
      | .noDev => if r.isDev then raiseAt 1 dREGION va else pure (ph, r)
      | .fp => if r.isDev then raiseAt 3 0x22 va else pure (ph, r)
      | .lrsc => if r = .sram ∨ r = .dram then pure (ph, r) else raiseAt 3 0x32 va
      | .data =>
        match r with
        | .dev b => if devSizeBad b (ph.lo % 0x10000) n then raiseAt 3 0x22 va else pure (ph, r)
        | _ => pure (ph, r)
      | .tas =>
        match r with
        | .dev b => if devSizeBad b (ph.lo % 0x10000) n then raiseAt 3 0x22 va else pure (ph, r)
        | .spenik => pure (ph, r)
        | _ => raiseAt 3 0x32 va

/-- Translate an access of `n` bytes at `va` for ring `ring`: every row of Table 11-3 (R522, R523). -/
def translate (t : Tandem) (k : AKind) (rule : RegionRule) (ring va n : Nat) : Cm (Phys × Region) := do
  let (pa, left, at1) ← pageOf t k ring va
  let (ph, at2) ←
    if n ≤ left then pure ((⟨pa, n, 0⟩ : Phys), at1)
    else do
      let (pb, _, at2) ← pageOf t k ring (va + left)
      pure ((⟨pa, left, pb⟩ : Phys), at2)
  judge t k rule va n ph at1 at2

/-! The capability checks of Table 5-8, steps 2 to 8. -/

/-- What an access needs of its address capability. -/
structure Need where
  perms : Nat
  tether : Bool
  size : Nat
  align : Nat
  deriving DecidableEq, Repr

/-- Steps 2 to 6. [log 135 DESIGN CHOICE] -/
def checkCap (t : Tandem) (r : CReg) (perms : Nat) (tether : Bool) (ea : Nat) : Cm Cap := do
  let s ← get
  let c := (s.cpu t).lk.getC r
  if c.st = .unwritten then raiseSrc 0 dUNWRITTEN 1 r.val
  else if c.st ≠ .valid then raiseCapAt dINVALID r.val ea
  else if c.sealed then raiseCapAt dSEALED r.val ea
  else if c.ring < (s.cpu t).ring then raiseCapAt dRING r.val ea
  else if !c.has perms then raiseAt 1 dPERM ea
  else if tether && !c.has pTTH then raiseAt 1 dTETHER ea
  else pure c

/-- The effective address CURSOR + offset, and its low 44 bits for EADDR, whatever the state of cs (R964). [log 27 DEDUCED] -/
def effAddr (t : Tandem) (r : CReg) (off : Int) : Cm Int := do
  let c ← rawC t r
  pure ((c.cursor : Int) + off)

/-- Steps 2 to 8 of Table 5-8: the effective address. -/
def access (t : Tandem) (r : CReg) (need : Need) (off : Int) : Cm Nat := do
  let ea ← effAddr t r off
  let low := wrap 44 ea
  let c ← checkCap t r need.perms need.tether low
  if ¬ ((c.base : Int) ≤ ea ∧ ea + need.size ≤ (c.top : Int) ∧ ea < 2 ^ 44) then raiseAt 1 dBOUNDS low
  else if ea.toNat % need.align ≠ 0 then raiseAt 1 dALIGN low
  else pure ea.toNat

/-! The store buffer (R550 to R559). -/

/-- Entries of the store buffer (R395, R550). [log 22 DESIGN CHOICE] -/
def sbCap : Tandem → Nat
  | .g => 2 | _ => 8

/-- A device store's write reaches its block (R290: an 8-byte store to a 32-bit register writes bits [31:0]). -/
def devStore (s : State) (t : Tandem) (a n v : Nat) : State :=
  match s.region t a with
  | some (.dev b) =>
    let off := a % 0x10000
    devWrite s t b off (if n = 8 && devWide b off then v else v % 2 ^ 32)
  | _ => s

/-- A device access to a block whose unit is held in reset stalls (R190). [log 16 DEDUCED] -/
def State.stalls (s : State) (t : Tandem) (a : Nat) : Bool :=
  match s.region t a with
  | some (.dev b) => s.devBusy b
  | _ => false

/-- The head entry is a store to a stalled block. [log 16 DEDUCED] -/
def State.headStuck (s : State) (t : Tandem) : Bool :=
  match (s.cpu t).sb with
  | [] => false
  | e :: _ => e.tag == .dev && s.stalls t e.addr

/-- The head entry reaches its target (Table 12-2); a stalled one stays. [log 22 DESIGN CHOICE] -/
def State.drainHead (s : State) (t : Tandem) : State :=
  if s.headStuck t then s
  else match (s.cpu t).sb with
    | [] => s
    | e :: r =>
      let s := s.modCpu t fun c => { c with sb := r }
      match e.tag with
      | .dev => devStore s t e.addr e.bytes.length (ofBytes e.bytes)
      | _ => s.writeWords t (e.writes s.memWord)

/-- Every entry drains, the holds they wait for having ended (R343). [log 23 DESIGN CHOICE] -/
def drainN : Nat → Tandem → State → State
  | 0, _, s => s
  | n + 1, t, s => drainN n t (s.drainHead t)

/-- The whole store buffer drains (R343). [log 23 DESIGN CHOICE] -/
def State.drainAll (s : State) (t : Tandem) : State := drainN (s.cpu t).sb.length t s

/-- The buffer empties; while a stalled block keeps a store in it, the word waits (R190, R353). [log 16 DEDUCED, 23 DESIGN
CHOICE] -/
def emptyBuffer (t : Tandem) : Cm Unit := do
  let s := (← get).drainAll t
  if (s.cpu t).sb.isEmpty then set s else throw Exc.waits

/-- A store joins the buffer; in a full buffer its word waits until the head entry has left (R395, R550). [log 22 DESIGN
CHOICE] -/
def pushStore (t : Tandem) (e : SbEnt) : Cm Unit := do
  let s ← get
  let full : Bool := decide (sbCap t ≤ (s.cpu t).sb.length)
  if full && s.headStuck t then throw Exc.waits
  else
    let s := if full then (s.drainHead t).event t 0x04 1 else s
    set (s.modCpu t fun c => { c with sb := c.sb ++ [e] })

/-- Admission of persistent words to the ledger (R604, R605). -/
def ledgerAdmit (t : Tandem) (va : Nat) (ws : List Nat) : Cm Unit := do
  let s ← get
  match s.spk.ledgerAdmit t ((ws.filter fun w => decide (spkBase ≤ 8 * w ∧ 8 * w < 0x44000000)).map fun w => w - spkBase / 8) with
  | some k => set { s with spk := k }
  | none =>
    set { s with spk := s.spk.refuse t }
    raiseAt 8 0x68 va

/-- The contiguous pieces of an access. -/
def Phys.pieces (p : Phys) (n : Nat) : List (Nat × Nat) := if n ≤ p.n then [(p.lo, n)] else [(p.lo, p.n), (p.hi, n - p.n)]

/-- Cut a piece at word boundaries: (address, length) of its part in each word. -/
def cutWords (a n : Nat) : List (Nat × Nat) :=
  if a % 8 + n ≤ 8 then [(a, n)] else [(a, 8 - a % 8), (a + (8 - a % 8), n - (8 - a % 8))]

/-- The parts of an access word by word. -/
def Phys.parts (p : Phys) (n : Nat) : List (Nat × Nat) := (p.pieces n).flatMap fun q => cutWords q.1 q.2

/-- The line of a store's word: one that is not in the L1 data cache is filled once every older entry of the buffer has left
it (R551). -/
def storeLine (t : Tandem) (w ea : Nat) : Cm Unit := do
  let s ← get
  if cachedAddr (8 * w) && !(s.cpu t).front.hasD (w / 4) then emptyBuffer t else pure ()
  let s ← get
  let r := s.readWord t false w
  set (s.hw r.1)
  match r.2 with
  | some g => eccAt g ea
  | none => pure ()

/-- Step 11 for a store: its line, POISON, then a partial store into UNWRITTEN (R217, Table 5-2). [log 129 DESIGN CHOICE] -/
def targetTag (t : Tandem) (w : Nat) (whole : Bool) (ea : Nat) : Cm Unit := do
  storeLine t w ea
  let s ← get
  match (s.viewWord t w).tag with
  | .poison => raiseAt 0 dPOISON ea
  | .unwritten => if whole then pure () else raiseAt 0 dPARTIAL ea
  | _ => pure ()

/-- The buffer entries of a data store of `n` bytes, in ascending address order (Table 8-6). -/
def storeEntries (ph : Phys) (n : Nat) (tag : Tag) (bs : List Byte) : List SbEnt :=
  if n = 8 ∧ ph.lo % 8 = 0 ∧ n ≤ ph.n then [⟨ph.lo, bs, .whole tag⟩]
  else ((ph.parts n).foldl (fun (acc : List SbEnt × List Byte) p =>
      (acc.1 ++ [⟨p.1, acc.2.take p.2, .part⟩], acc.2.drop p.2)) ([], bs)).1

/-- A data store of the low `n` bytes of `v` at `va`, after steps 1 to 8 (R287 to R291), from the register of `kind` and
`num`. Of two words it touches, step 11 judges the lower first. [log 129 DESIGN CHOICE] -/
def dataStore (t : Tandem) (rule : RegionRule) (va n : Nat) (v : TWord) (kind num : Nat) : Cm Unit := do
  let c := (← get).cpu t
  let (ph, r) ← translate t .store rule c.ring va n
  let bs := bytesOf n v.bits.toNat
  match r with
  | .dev _ => do
    let _ ← needData v kind num
    pushStore t ⟨ph.lo, bs, .dev⟩
  | _ => do
    let es := storeEntries ph n v.tag bs
    es.forM fun e => targetTag t (e.addr / 8) (match e.tag with | .whole _ => true | _ => false) va
    ledgerAdmit t va (es.map fun e => e.addr / 8)
    es.forM (pushStore t)

/-! Loads. -/

/-- The bytes of an access, as the tandem's own load sees them. [log 17 DEDUCED] -/
def State.loadBytes (s : State) (t : Tandem) (ph : Phys) (n : Nat) : List Byte :=
  (ph.parts n).flatMap fun p => (bytesOf 8 (s.viewWord t (p.1 / 8)).bits.toNat).drop (p.1 % 8) |>.take p.2

/-- Byte ranges overlap. -/
def rangesMeet (a n b m : Nat) : Bool := decide (a < b + m ∧ b < a + n)

/-- The entry overlaps the access. -/
def SbEnt.meets (e : SbEnt) (ph : Phys) (n : Nat) : Bool := (ph.pieces n).any fun p => rangesMeet e.addr e.bytes.length p.1 p.2

/-- The entry holds every byte of the access. -/
def SbEnt.holds (e : SbEnt) (ph : Phys) (n : Nat) : Bool :=
  (ph.pieces n).all fun p => decide (e.addr ≤ p.1 ∧ p.1 + p.2 ≤ e.addr + e.bytes.length)

/-- A load waits: behind older device stores (R556), or in partial overlap with its youngest overlapping entry (R554). [log
21 DEDUCED] -/
def Cpu.loadWaits (c : Cpu) (dev : Bool) (ph : Phys) (n : Nat) : Bool :=
  if dev then c.sb.any fun e => e.tag == .dev
  else
    match c.sb.reverse.find? fun e => e.meets ph n with
    | some e => !e.holds ph n
    | none => false

/-- A load lies wholly within its youngest overlapping entry, which forwards it (R554). [log 21 DEDUCED] -/
def Cpu.forwards (c : Cpu) (ph : Phys) (n : Nat) : Bool :=
  match c.sb.reverse.find? fun e => e.meets ph n with
  | some e => e.holds ph n
  | none => false

/-- A load that partly overlaps a buffered store waits until the youngest entry it overlaps has left (R554, R555). -/
def waitOverlap (t : Tandem) (ph : Phys) (n : Nat) : Cm Unit := do
  let s ← get
  let c := s.cpu t
  if c.loadWaits false ph n then do
    let later := (c.sb.reverse.takeWhile fun e => !e.meets ph n).length
    let s := drainN (c.sb.length - later) t s
    if (s.cpu t).loadWaits false ph n then throw Exc.waits else set (s.event t 0x0B 1)
  else pure ()

/-- A read of a window word that misses the caches (R577): the port's state decides. [log 26 DEDUCED] -/
def State.windowMiss (s : State) (t : Tandem) (r : Region) (w : Nat) : Option Side :=
  let miss := (s.l2Line (w / 8)).isNone && !(s.cpu t).front.hasD (w / 4)
  match r with
  | .winA => if miss then some .a else none
  | .winB => if miss then some .b else none
  | _ => none

/-- A window load waits for the end of a command on its port (R577, R586). [log 26 DEDUCED] -/
def State.windowWaits (s : State) (t : Tandem) (r : Region) (ph : Phys) (n : Nat) : Bool :=
  (ph.parts n).any fun p => match s.windowMiss t r (p.1 / 8) with
    | some q => s.xsp.busy && cmdPort s.xsp.run.toNat == q && !(s.xsp.port q).winoff
    | none => false

/-- A read of one word of memory through the caches: WINOFF of its port refuses a miss, a command on it keeps the word waiting
(R577) unless its turn has come (R586), and an uncorrectable error is met (R258). [log 26 DEDUCED] -/
def readOne (t : Tandem) (r : Region) (turn : Bool) (w va : Nat) : Cm Unit := do
  let s ← get
  match s.windowMiss t r w with
  | some q =>
    if (s.xsp.port q).winoff then raiseAt 3 0x40 va
    else if s.xsp.busy && cmdPort s.xsp.run.toNat == q && !turn then throw Exc.waits
    else pure ()
  | none => pure ()
  let x := s.readWord t false w
  set (s.hw x.1)
  match x.2 with
  | some g => eccAt g va
  | none => pure ()

/-- A read of memory word by word; a load that an entry forwards reads none (R554). [log 21 DEDUCED] -/
def readMem (t : Tandem) (r : Region) (turn : Bool) (ph : Phys) (n va : Nat) : Cm Unit := do
  if ((← get).cpu t).forwards ph n then pure ()
  else (ph.parts n).forM fun p => readOne t r turn (p.1 / 8) va

/-- A device register's value crosses the fabric to the tandem (R41). [log 127 DESIGN CHOICE] -/
def devTransit (t : Tandem) (va : Nat) : Cm Unit := do
  let s ← get
  let x := s.transfer (.transit t) 1
  set (s.hw x.1)
  if x.2 then eccAt 4 va else pure ()

/-- A capability load's result from its two words (Table 5-6); `none` for a reserved tag (R226). -/
def capOfPair (x y : TWord) : Option Cap :=
  match x.tag, y.tag with
  | .reserved _, _ => none
  | _, .reserved _ => none
  | .poison, _ => some ⟨.poison, x.bits, y.bits⟩
  | _, .poison => some ⟨.poison, x.bits, y.bits⟩
  | .unwritten, .unwritten => some .unwritten
  | .capa, .capb => some ⟨if capWellFormed x.bits y.bits then .valid else .malformed, x.bits, y.bits⟩
  | _, _ => some ⟨.notcap, x.bits, y.bits⟩

/-- TAG_CORRUPT, reported as MCHK (R216, R226). -/
def corrupt {α : Type} (va : Nat) : Cm α := do
  modify fun s => s.mchk 0x12
  raiseAt 0 dCORRUPT va

/-- A whole word as a data load gives it (R216). -/
def loadedWord (w : TWord) (va : Nat) : Cm TWord :=
  match w.tag with
  | .reserved _ => corrupt va
  | .capa | .capb => pure ⟨.bytes, w.bits⟩
  | .unwritten => pure .unwritten
  | .poison => pure .poison
  | _ => pure w

/-- What a data load of `n` bytes delivers (R216, Table 5-2, R290). -/
def loadValue (t : Tandem) (ph : Phys) (r : Region) (turn : Bool) (n va : Nat) (sgn : Bool) : Cm TWord := do
  let ext (x : Nat) : W64 := if sgn then BitVec.ofInt 64 (signed (8 * n) x) else w64 x
  match r with
  | .dev b => do
    let s ← get
    let (v, s') := devRead s t b (ph.lo % 0x10000)
    set s'
    devTransit t va
    pure (.int (ext (v % 2 ^ (8 * n))))
  | _ => do
    readMem t r turn ph n va
    let s ← get
    let ws := (ph.parts n).map fun p => s.viewWord t (p.1 / 8)
    if n = 8 ∧ ph.lo % 8 = 0 ∧ n ≤ ph.n then
      loadedWord (s.viewWord t (ph.lo / 8)) va
    else if ws.any fun w => match w.tag with | .reserved _ => true | _ => false then corrupt va
    else if ws.any fun w => w.tag == .poison then pure .poison
    else if ws.any fun w => w.tag == .unwritten then pure .unwritten
    else pure (.int (ext (ofBytes (s.loadBytes t ph n))))

/-- Whether a word completes, transfers control with a delay slot, has set PCC itself, or has not completed. -/
inductive Ret where
  | next
  /-- A control transfer with a delay slot (R299): its target, whether it is taken, and the new PCC of JALC. -/
  | cti (kind : CtiKind) (target : Int) (taken : Bool) (pcc : Option Cap)
  | moved
  | stay
  deriving DecidableEq, Repr

/-- The two words of a pair as the tandem sees them. -/
def State.pairAt (s : State) (t : Tandem) (a : Nat) : TWord × TWord := (s.viewWord t (a / 8), s.viewWord t (a / 8 + 1))

/-- A load reads and writes its register. [log 21 DEDUCED] -/
def finishLoad (t : Tandem) (q : LoadReq) (r : Region) : Cm Unit := do
  let va := q.va
  modify fun s => s.event t 0x03 2
  match q.kind with
  | .g gd sgn => do
    let v ← loadValue t q.phys r q.turn q.size va sgn
    putG t gd v
  | .f fd => do
    let v ← loadValue t q.phys r q.turn q.size va false
    putF t fd (match v.tag with | .unwritten => v | .poison => v | _ => ⟨.flt, v.bits⟩)
  | .c cd => do
    readMem t r q.turn q.phys 16 va
    let s ← get
    let p := s.pairAt t q.phys.lo
    match capOfPair p.1 p.2 with
    | none => corrupt va
    | some c => do
      if c.st = .malformed then modify fun s => s.mchk 0x12
      putC t cd c
  | .lr gd => do
    let v ← loadValue t q.phys r q.turn q.size va false
    modify fun s =>
      let line := q.phys.lo / 64
      let heldByOther := [Tandem.a, .b, .g].any fun u => decide (u ≠ t) && ((s.cpu u).hold == some line)
      s.modCpu t fun c => { c with resv := some line, hold := if heldByOther then c.hold else some line }
    putG t gd v
  | .modLoad gd sgn cs cur => do
    let v ← loadValue t q.phys r q.turn q.size va sgn
    putG t gd v
    let c ← rawC t cs
    putC t cs (c.setCursor cur.toNat)

/-- A load after steps 1 to 8: it translates, and reads at once or waits (R554 to R556). -/
def doLoad (t : Tandem) (k : AKind) (rule : RegionRule) (va n : Nat) (lk : LoadKind) : Cm Ret := do
  let c := (← get).cpu t
  let (ph, r) ← translate t k rule c.ring va n
  let dev := r.isDev
  let q : LoadReq := ⟨va, ph, n, lk, dev, false⟩
  let c := (← get).cpu t
  let s ← get
  if c.loadWaits dev ph n || (dev && s.stalls t ph.lo) || s.windowWaits t r ph n then do
    modify fun s => (s.modCpu t fun c => { c with wait := .load q }).event t 0x0B (b2n (!dev && c.loadWaits dev ph n))
    pure .stay
  else do
    finishLoad t q r
    pure .next

/-! Fetch (R384 to R389). -/

/-- The aligned block that F reads at once: four instruction words, on tandem G two (R384, R399). -/
def blockBytes : Tandem → Nat
  | .g => 8 | _ => 16

/-- F stops: a main tandem's queue of 8 words holds 5 or more, or tandem G's of 4 has no room for two (R384, R399). -/
def fqFull (t : Tandem) (n : Nat) : Bool := if t.isG then 3 ≤ n else 5 ≤ n

/-- F has fetched the word at `a`: the prediction there says where it goes after the next word; a parity error in the entry
removes it (R385, R410, R414). [log 18 DESIGN CHOICE] -/
def State.fStep (s : State) (t : Tandem) (a : Nat) : State :=
  let c := s.cpu t
  let go (p : Option Nat) (f : Front) : Front := { f with next := f.turn.getD (a + 4), turn := p }
  match t.side with
  | none => s.modFront t (go none)
  | some m =>
    if c.btbOff then s.modFront t (go none)
    else if s.wrong (.btb m a) ≠ 0 then (s.clearSite (.btb m a)).modFront t fun f => go none (f.btbDel a)
    else s.modFront t fun f => go (f.predicted a) (match f.btbAt a with | some e => f.btbPut e | none => f)

/-- The queue takes the words of a block from `va` on, `pa` in memory, until F turns to a predicted target; both instruction
words of a tagged word come from one read of it (R384, R399). [log 18 DESIGN CHOICE, 19 DEDUCED] -/
def takeBlock (t : Tandem) : Nat → Option FqEnt → Nat → Nat → State → State
  | 0, _, _, _, s => s
  | n + 1, half, va, pa, s =>
    if (s.cpu t).front.next ≠ va then s
    else
      let r : State × FqEnt := match half with
        | some e => (s, { e with va := va, fix := false })
        | none =>
          let x := s.fetchTagged t (pa / 8)
          (x.1, ⟨va, x.2.1, x.2.2.1, x.2.2.2⟩)
      takeBlock t n (if (pa + 4) / 8 = pa / 8 then some r.2 else none) (va + 4) (pa + 4)
        ((r.1.modFront t fun f => { f with fq := f.fq ++ [r.2] }).fStep t va)

/-- F reads the block of `a`, as far as it lies at and after `a`: its translation, its lines and its words (R384, R388, R513,
R525). [log 18 DESIGN CHOICE, 19 DEDUCED, 130 DESIGN CHOICE] -/
def fetchBlock (t : Tandem) (k : AKind) (a : Nat) : Cm Unit := do
  let ring := ((← get).cpu t).ring
  let (ph, _) ← translate t k .none ring a 4
  aheadFill t k a
  modify fun s => takeBlock t ((blockBytes t - ph.lo % blockBytes t + 3) / 4) none a ph.lo s

/-- F fetches up to so many blocks ahead, along the predicted path; what it drops leaves its reports and fills nothing (R384,
R387, R525, R535). [log 18 DESIGN CHOICE] -/
def aheadN (t : Tandem) : Nat → State → State
  | 0, s => s
  | n + 1, s =>
    let f := (s.cpu t).front
    if fqFull t f.fq.length ∨ 2 ^ 44 ≤ f.next then s
    else match (fetchBlock t .ahead f.next).run s with
      | .ok _ s' => aheadN t n s'
      | .error _ s' => s'

/-- F goes to the word to execute, where it has gone another way: what it holds is discarded (R387). [log 18 DESIGN CHOICE] -/
def State.redirect (s : State) (t : Tandem) : State :=
  let a := (s.cpu t).lk.pcc.cursor
  let f := (s.cpu t).front
  let at_ := match f.cur, f.fq with
    | some e, _ => e.va
    | none, e :: _ => e.va
    | none, [] => f.next
  if at_ = a then s else (s.flushFetch t).modFront t fun f => { f with next := a, turn := none }

/-- Between words F runs ahead of the next one by a number of blocks that timing decides and the model leaves free, as long
as the tandem runs. [log 18 DESIGN CHOICE] -/
def fetchAhead (t : Tandem) (s : State) : State :=
  if (s.cpu t).run == .running && !(s.cpu t).pcOver then s.hw (aheadN t (s.freeVal.toNat % 4) (s.freeNext.redirect t)) else s

/-- A fetch for execution where the queue is empty. [log 18 DESIGN CHOICE] -/
def fetchNow (t : Tandem) (a : Nat) : Cm Unit := do
  let s ← get
  if (s.cpu t).front.fq.isEmpty then fetchBlock t .fetch a else pure ()

/-- The word to execute: the one that is in execution already, the queue's, or a fetch of its own where F has none yet. [log
18 DESIGN CHOICE] -/
def takeWord (t : Tandem) (a : Nat) : Cm FqEnt := do
  modify fun s => s.redirect t
  match ((← get).cpu t).front.cur with
  | some e => pure e
  | none => do
    fetchNow t a
    match ((← get).cpu t).front.fq with
    | e :: r => do
      modify fun s => (s.modFront t fun f => { f with fq := r, cur := some e }).event t 0x0E (b2n e.fix)
      pure e
    | [] => throw Exc.waits

/-- An uncorrectable error in the fetched word at `a` is met by its execution, and by no later discard of the word's other half
(R319, R415). -/
def wordErr (t : Tandem) (a : Nat) (e : FqEnt) : Cm Unit :=
  match e.err with
  | some g => do
    modify fun s => s.modFront t fun f =>
      { f with fq := f.fq.map fun x => if x.va / 8 = a / 8 then { x with err := none } else x }
    eccAt g a
  | none => pure ()

/-- The order-1 checks of the word at PCC (Table 6-11, R220, R388, R424): bounds, the tag as the word was last written, an
uncorrectable error. An address that is no multiple of 4 is not checked. [log 18 DESIGN CHOICE, 130 DESIGN CHOICE] -/
def fetchCheck (t : Tandem) : Cm Unit := do
  let c := (← get).cpu t
  let p := c.lk.pcc
  let a := p.cursor
  if c.pcOver || !(p.base ≤ a && a + 4 ≤ p.top) then raiseAt 1 dBOUNDS a
  else do
    let e ← takeWord t a
    match e.word.tag with
    | .insn => wordErr t a e
    | .unwritten => raiseAt 0 dUNWRITTEN a
    | .poison => raiseAt 0 dPOISON a
    | .reserved _ => corrupt a
    | _ => raiseAt 0 dNOTINSN a

end Sys2Proof.Machine
end

