-- ==== Sys2Proof/Machine/Except.lean ====
section
/-! DEFINITION. How a word of a tandem retires, and how a tandem takes an exception: the vector shadow, exception entry,
double and third faults (chapter 9), with the stack reserve of R471. -/

namespace Sys2Proof.Machine

/-! Completion of a word. -/

/-- After the word at a slot, control goes on at the resolved address (R299). [log 35 DEDUCED] -/
def Cpu.leaveSlot (c : Cpu) (sl : Slot) : Cpu :=
  let p := (sl.pcc.getD c.lk.pcc).setCursor sl.next.toNat
  { c.setLk { c.lk with pcc := p } with pcOver := sl.past, slot := none }

/-- No exception is being entered any more, and no word is in execution. -/
def Cpu.wordDone (c : Cpu) : Cpu := { c with entering := none, front := { c.front with cur := none } }

/-- The word retires; `old` is the core as the word found it. -/
def retire (t : Tandem) (old : Cpu) (p : PmWord) (r : Ret) (s : State) : State :=
  let done (s : State) : State :=
    (pmTick t old p s).modCpu t Cpu.wordDone
  match r with
  | .stay => s
  | .moved => done s
  | .next => (done s).modCpu t fun c =>
      match c.slot with
      | some sl => c.leaveSlot sl
      | none => c.advance
  | .cti k tgt taken pcc =>
      let a := old.lk.pcc.cursor
      (done (s.learn t fun f => f.resolve old.btbOff k a (wrap 44 tgt) taken)).modCpu t fun c =>
        let nx : Int := if taken then tgt else (a : Int) + 8
        { c.advance with slot := some ⟨BitVec.ofInt 44 nx, decide (nx < 0 ∨ 2 ^ 44 ≤ nx), pcc⟩ }

/-! The vector shadow (R427 to R429). -/

def Cpu.vtabOn (c : Cpu) : Bool := bitOf c.vtab.toNat 0
def Cpu.vtabBase (c : Cpu) : Nat := wf c.vtab 6 34 * 64

/-- The first block of a handler, read through HANDLER and the translation as it stands, for ring 0 and as a fetch (R428, R524).
Whatever stops it raises nothing. [log 38 DEDUCED] -/
def readBlock (t : Tandem) (h : Cap) : Cm (TWord × TWord) := do
  let a := h.cursor
  if h.st = .valid ∧ h.sealed = false ∧ h.has pEX = true ∧ a % 16 = 0 ∧ h.base ≤ a ∧ a + 16 ≤ h.top then do
    let (ph, _) ← translate t .ahead .none 0 a 16
    aheadFill t .ahead a
    let one (w : Nat) : Cm TWord := do
      let s ← get
      let fix := match t.side with
        | some m => (s.cpu t).front.has true (w / 4) && s.wrong (.l1i m w) == 1
        | none => false
      let r := s.readWord t true w
      modify fun s => (s.hw r.1).event t 0x0E (b2n fix)
      match r.2 with
      | some g => eccMet .ahead g a
      | none => pure (r.1.codeWord t w)
    let x ← one (ph.lo / 8)
    let y ← one (ph.lo / 8 + 1)
    pure (x, y)
  else throw Exc.waits

/-- The entry's words are read; the answer says whether one of them is uncorrectable. [log 38 DEDUCED] -/
def State.readEntry (s : State) (t : Tandem) (a : Nat) : State × Bool :=
  (List.range 5).foldl (fun r k => let x := r.1.readWord t false (a / 8 + k); (r.1.hw x.1, r.2 || x.2.isSome)) (s, false)

/-- The copy of one entry (R428). `bad` says that an uncorrectable error was met in the entry itself, beside the errors that its
words hold. [log 38 DEDUCED, 136 DESIGN CHOICE] -/
def State.copyEntry (s : State) (t : Tandem) (base i : Nat) (bad : Bool) : State :=
  let a := base + 64 * i
  let rd := s.readEntry t a
  let s := rd.1.clearSite (.shadow t i)
  let w (k : Nat) : TWord := s.viewWord t (a / 8 + k)
  let ctl := w 4
  let isRes (x : TWord) : Bool := match x.tag with | .reserved _ => true | _ => false
  let put (e : VecEnt) (s : State) : State := s.modCpu t fun c => { c with shadow := tset none c.shadow i (some e) }
  let broken : VecEnt := { bad := true, handler := .unwritten, stack := .unwritten, ctl := .unwritten, held := none }
  if bad || rd.2 then put broken ((if bad then s.eccUnc (s.memGroup (a / 8)) else s).mchk 0x12)
  else
    match isRes ctl, capOfPair (w 0) (w 1), capOfPair (w 2) (w 3) with
    | false, some h, some k =>
      let e : VecEnt := { bad := false, handler := h, stack := k, ctl := ctl, held := none }
      match (readBlock t h).run s with
      | .ok b s' => put { e with held := some b } (s.hw s')
      | .error _ s' => put e (s.hw s')
    | _, _, _ => put broken (s.mchk 0x12)

/-! Entry (R426, R430, R439, Table 9-6). -/

def vINVALID : Nat := 0x78
def vHANDLER : Nat := 0x79
def vLOCKER : Nat := 0x7A
def vBUSY : Nat := 0x7B
def vRESERVE : Nat := 0x7C

def VecEnt.reserve (v : VecEnt) : Nat := wf v.ctl.bits 24 16
def VecEnt.stk (v : VecEnt) : Bool := bitOf v.ctl.bits.toNat 20
def VecEnt.lockerField (v : VecEnt) : Nat := wf v.ctl.bits 16 4
/-- The glide of an entry: values above 4,096 act as 4,096 (R445). -/
def VecEnt.glideLen (v : VecEnt) : Nat := min 4096 (wf v.ctl.bits 0 13)

def isDataTag : Tag → Bool
  | .int | .bytes | .flt | .fixq | .insn => true
  | _ => false

/-- The must-be-0 fields of Table 9-4. -/
def ctlClean (b : W64) : Bool := wf b 40 23 == 0 && wf b 21 3 == 0 && wf b 13 3 == 0

/-- The scheduler of a main tandem runs contexts in locker `n` (R479). -/
def State.schedLocker (s : State) (t : Tandem) (n : Nat) : Bool :=
  match t.side with
  | some m => (s.sch m).en && (s.sch m).lkmask.getLsbD n
  | none => false

/-- The stack-reserve check of R471. -/
def reserveOk (c14 : Cap) (r : Nat) : Bool :=
  c14.st == .valid && !c14.sealed && c14.has (pLD + pST + pLDC + pSTC) && c14.cursor % 16 == 0 &&
    decide (c14.base + r * 16 ≤ c14.cursor ∧ c14.cursor ≤ c14.top) && decide (4 ≤ r)

/-- The checks of Table 9-6 in order; the handler's locker on success, the entry fault otherwise. `dbl`: double-fault entry
(R440). [log 38 DEDUCED] -/
def entryCheck (s : State) (t : Tandem) (vec : Nat) (dbl : Bool) : Except Nat (VecEnt × Nat) :=
  let c := s.cpu t
  match tget none c.shadow vec with
  | none => .error vINVALID
  | some v =>
    if !c.vtabOn || v.bad || !isDataTag v.ctl.tag || !bitOf v.ctl.bits.toNat 63 || !ctlClean v.ctl.bits then .error vINVALID
    else if v.handler.st ≠ .valid || v.handler.sealed || !v.handler.has pEX || v.handler.cursor % 16 != 0 then .error vHANDLER
    else
      let f := v.lockerField
      let stay := f == 0xF
      let n := if stay then c.cur.val else f
      if (!stay && decide (t.lockers ≤ f)) || (stay && v.stk) || (v.stk && v.stack.st != .valid)
          || (!stay && s.schedLocker t f) || (dbl && (stay || !v.stk)) then .error vLOCKER
      else if !dbl && bitOf (c.locker n).estat.bits.toNat 63 then .error vBUSY
      else if v.reserve != 0 && !reserveOk (if v.stk then v.stack else (c.locker n).getC 14) v.reserve then .error vRESERVE
      else .ok (v, n)

/-- The fault is TLB_MISS or an XLATE fault. [log 37 DEDUCED] -/
def isMiss (cls : Nat) : Bool := cls == 5 || cls == 6

/-- What the entry of TLB_MISS or an XLATE fault writes besides EADDR: XMISS, and for TLB_MISS TLBHI (R520). [log 37 DEDUCED] -/
def Cpu.noteMiss (c : Cpu) (e : Exc) : Cpu :=
  if isMiss e.cls then
    { c with xmiss := w64 (pack [(8, c.asid), (3, b2n (!c.xOn)), (0, e.num)]),
             tlbhi := if e.cls = 5 then .int (w64 (pack [(56, c.asid), (55, 1), (44, 12), (12, e.addr / 2 ^ 12)])) else c.tlbhi }
  else c

/-- The resumption capability: PCC at the saved address, sealed with type 0x3F (Table 9-2, R437). [log 35 DEDUCED] -/
def resumption (pcc : Cap) (a : Nat) : Cap := (pcc.setCursor a).sealWith 0x3F

/-- The held first block in the fetch queue, its words at and after the handler's address (Table 9-5, cycle 22). [log 38
DEDUCED] -/
def Front.place (f : Front) (a : Nat) (b : Option (TWord × TWord)) : Front :=
  match b with
  | some (x, y) => { f with fq := [⟨a, x, none, false⟩, ⟨a + 4, x, none, false⟩, ⟨a + 8, y, none, false⟩, ⟨a + 12, y, none, false⟩], next := a + 16, turn := none }
  | none => f

/-- The entry itself, once its checks have passed (R430, Table 9-5). [log 27 DEDUCED, 35 DEDUCED] -/
def enterAt (t : Tandem) (vec : Nat) (e : Exc) (cpl : Option Nat) (orig : Option (Nat × Nat)) (v : VecEnt) (n : Nat)
    (s : State) : State :=
  let c := s.cpu t
  let old := c.lk
  let h := c.locker n
  let c14 := if v.stk then v.stack else h.getC 14
  let slotNext := match c.slot with
    | some sl => sl.next.toNat
    | none => 0
  let ecause := pack [(36, (orig.getD (0, 0)).2), (32, (orig.getD (0, 0)).1), (21, vec), (19, b2n e.half), (17, e.kind), (12, if isMiss e.cls then 0 else e.num),
    (8, e.cls), (0, e.det)]
  let estat := pack [(63, 1), (62, b2n orig.isSome), (61, b2n c.slot.isSome), (16, c.cur.val), (8, c.cpl.toNat), (0, old.pcc.ring)]
  let h := { (h.setC 15 (resumption old.pcc old.pcc.cursor)).setC 14 c14 with
    ecause := .int (w64 ecause), eaddr := .int (w64 e.addr), enext := .int (w64 slotNext),
    estat := .int (w64 estat),
    lkrsv := if v.reserve = 0 then h.lkrsv else .int (w64 ((c14.cursor - v.reserve * 16) / 16 * 16 + 1)),
    pcc := v.handler }
  let c := { (c.noteMiss e).setLocker n h with
    cur := ⟨n % 8, by omega⟩, pcOver := false, slot := none, wait := .none, resv := none,
    entering := some (BitVec.ofNat 4 e.cls, BitVec.ofNat 8 e.det),
    cpl := match cpl with | some l => BitVec.ofNat 4 l | none => c.cpl,
    dfActive := c.dfActive || orig.isSome, glide := v.glideLen, glideVec := vec,
    front := c.front.place v.handler.cursor v.held }
  pmTick t (s.cpu t) { ring := old.pcc.ring, entered := true } ((s.clearSite (.saved t n)).setCpu t c)

/-- A third fault: the tandem stops and THIRD is detected (R441). [log 37 DEDUCED, 47 DEDUCED] -/
def thirdFault (t : Tandem) (s : State) : State :=
  (s.modCpu t fun c => { c with run := .stopped, entering := none }).detect 15 t.idx

/-- MC_ECC found in the tandem's own saved state or shadow (R457). -/
def shadowExc : Exc := ⟨9, 0x70, 3, 0, false, 0⟩

/-- ECCU with the tandem's own memory group (R425, R897). -/
def State.ownEcc (s : State) (t : Tandem) : State := (s.detect 4 (ownGroup t)).eccUnc (ownGroup t)

/-- The reads of an entry: its element of the vector shadow and, where it looks at ESTAT.VALID, the handler's locker; the answer
says whether one holds an uncorrectable error (R439, R457). -/
def State.entryRead (s : State) (t : Tandem) (vec : Nat) (dbl : Bool) : State × Bool :=
  let a := s.check (.shadow t vec)
  let n := match tget none (s.cpu t).shadow vec with
    | some v => if v.lockerField = 0xF then (s.cpu t).cur.val else v.lockerField
    | none => (s.cpu t).cur.val
  if dbl || a.2 then (s.hw a.1, a.2)
  else
    let b := a.1.check (.saved t n)
    (s.hw b.1, b.2)

/-- Entry to the double-fault vector for a new fault `e`, met while `orig` was being entered (R439, R440). -/
def doubleFault (t : Tandem) (e : Exc) (orig : Nat × Nat) (s : State) : State :=
  let r := (s.flushFetch t).entryRead t 0x10 true
  if r.2 then thirdFault t (r.1.ownEcc t)
  else match entryCheck r.1 t 0x10 true with
    | .error _ => thirdFault t r.1
    | .ok (v, n) => (enterAt t 0x10 e (some 15) (some orig) v n r.1).mchk 0x11

/-- A fault met by an entry itself (R439, R441). -/
def entryFault (t : Tandem) (e : Exc) (orig : Nat × Nat) (s : State) : State :=
  if (s.cpu t).dfActive then thirdFault t s else doubleFault t e orig s

/-- An exception enters its vector; the queue empties (Table 9-5), and a failed check or an uncorrectable error is a fault
during entry (R439). -/
def enterVector (t : Tandem) (vec : Nat) (e : Exc) (cpl : Option Nat) (s : State) : State :=
  let r := (s.flushFetch t).entryRead t vec false
  if r.2 then entryFault t shadowExc (e.cls, e.det) (r.1.ownEcc t)
  else match entryCheck r.1 t vec false with
    | .error d => entryFault t ⟨0xA, d, 3, 0, false, 0⟩ (e.cls, e.det) r.1
    | .ok (v, n) => enterAt t vec e cpl none v n r.1

/-- A fault of the word at PCC is taken (R422 to R441). -/
def takeFault (t : Tandem) (e : Exc) (s : State) : State :=
  let c := s.cpu t
  if c.dfActive then thirdFault t s
  else
    match c.entering with
    | some (k, d) => doubleFault t e (k.toNat, d.toNat) s
    | none => enterVector t (if e.cls = 0xA then 0x10 else e.cls) e none s

/-! A word. -/

/-- How a word behaves in a delay slot (R315, R332), and whether the branch-target buffer knows it for a control transfer of
majors 0x20 to 0x25 (R385). -/
inductive Kind where
  | plain
  /-- A control transfer of majors 0x20 to 0x25; of J and JAL the displacement, in words. -/
  | cti (jump : Option Int)
  /-- A ring transfer: no such transfer to the buffer. -/
  | ring
  | long
  deriving DecidableEq, Repr

/-- A delay slot takes no control transfer and no long-running word (R315, R332). [log 18 DESIGN CHOICE, 33 DEDUCED] -/
def slotCheck (t : Tandem) (k : Kind) : Cm Unit := do
  let c := (← get).cpu t
  match c.slot, k with
  | none, _ => pure ()
  | some _, .plain => pure ()
  | some _, .long => raise 2 0x31
  | some _, _ => raise 2 0x21

/-- D decodes a word: a J or JAL allocates its entry, and one that is no control transfer removes the entry it hits (R385).
[log 18 DESIGN CHOICE] -/
def decodeStage (t : Tandem) (k : Kind) : Cm Unit := modify fun s =>
  let a := (s.cpu t).lk.pcc.cursor
  match k with
  | .cti (some d) => s.learn t fun f => f.jumpInD (s.cpu t).btbOff a (wrap 44 ((a : Int) + 4 * d))
  | .cti none => s
  | _ => s.decoded t a

/-- The registers of the word are read: a single-bit error is corrected, two wrong bits are met (R412, Table 2-2). -/
def regCheck (t : Tandem) : Cm Unit := do
  let s ← get
  let r := s.checkOnce (.reg t)
  set (s.hw r.1)
  if r.2 then eccAt (ownGroup t) 0 else pure ()

/-- What comes before a word's own effect: fetch, decode, the place it stands in, and its registers. -/
def issue (t : Tandem) (k : Kind) : Cm Unit := do
  fetchCheck t
  decodeStage t k
  slotCheck t k
  regCheck t

/-- The tandem issues words: it and the root clock run, and no load, fence or WAIT holds it. [log 2 DEDUCED, 3 DESIGN
CHOICE, 18 DESIGN CHOICE] -/
def State.ready (s : State) (t : Tandem) : Bool := (s.cpu t).run == .running && (s.cpu t).wait == .none && s.clk.crystal

/-- A word of the tandem reaches execution: the order-1 checks, the delay-slot checks, and its own effect; it retires, or its
fault is taken. A tandem that issues no word executes none. `pair`: a pair word; `wrote`: the performance counter it writes.
[log 2 DEDUCED, 18 DESIGN CHOICE] -/
def runWordPm (t : Tandem) (k : Kind) (pair : Bool) (wrote : Option Nat) (body : Cm Ret) (s : State) : State :=
  if s.ready t then
    match (do issue t k; body : Cm Ret).run s with
    | .ok r s' => fetchAhead t (retire t (s.cpu t) { ring := (s.cpu t).ring, retired := true, pair := pair, wrote := wrote } r s')
    | .error e s' => if e = Exc.waits then s else fetchAhead t (takeFault t e s')
  else s

def runWord (t : Tandem) (k : Kind) (pair : Bool) (body : Cm Ret) (s : State) : State := runWordPm t k pair none body s

/-- A plain word whose effect always completes. -/
def plainWord (t : Tandem) (body : Cm Unit) (s : State) : State := runWord t .plain false (do body; pure .next) s

/-! The emulation trap (R304). -/

/-- The emulation trap for a word of a kind; `half` names the half of a pair word at fault. -/
def emuTrap {α : Type} (t : Tandem) (word kind : Nat) (half : Bool) : Cm α := do
  modify fun s => s.modCpu t fun c =>
    { c with emuword := .int (w64 (pack [(34, kind), (33, b2n half), (32, b2n c.slot.isSome), (0, word)])) }
  throw ⟨4, 0x48, 3, 0, half, 0⟩

end Sys2Proof.Machine
end

