-- ==== Sys2Proof/Machine/Alu.lean ====
section
/-! DEFINITION. The integer, logical, shift, multiply and bit instructions of majors 0x01 to 0x0A and 0x31, but for the CRC
(Table 6-5, R283, R285, R286, R338). -/

namespace Sys2Proof.Machine

/-- The high 64 bits of the 128-bit product of two exact values (Table 6-5). -/
def mulHi (x y : Int) : W64 := BitVec.ofInt 64 (x * y / 2 ^ 64)

/-- The position above the highest set bit. -/
def bitLen (x : Nat) : Nat := if x = 0 then 0 else Nat.log2 x + 1

/-- Trailing zeros of the low `n` bits: `n` for zero. -/
def trailing : Nat → Nat → Nat
  | 0, _ => 0
  | n + 1, x => if x % 2 = 1 then 0 else 1 + trailing n (x / 2)

/-- Set bits among the low `n`. -/
def ones : Nat → Nat → Nat
  | 0, _ => 0
  | n + 1, x => x % 2 + ones n (x / 2)

/-- A two-source integer instruction: data tags on both sources, left to right, and an INT result (R283). -/
def alu2 (t : Tandem) (gd gs1 gs2 : Reg) (f : W64 → W64 → W64) (s : State) : State :=
  plainWord t (do
    let a ← srcG t gs1
    let b ← srcG t gs2
    putInt t gd (f a b)) s

/-- A one-source integer instruction (R283). -/
def alu1 (t : Tandem) (gd gs : Reg) (f : W64 → W64) (s : State) : State :=
  plainWord t (do
    let a ← srcG t gs
    putInt t gd (f a)) s

/-- ADD (Table 6-5). -/
def opAdd (a b : W64) : W64 := a + b

/-- SUB (Table 6-5). -/
def opSub (a b : W64) : W64 := a - b

/-- AND (Table 6-5). -/
def opAnd (a b : W64) : W64 := a &&& b

/-- OR (Table 6-5). -/
def opOr (a b : W64) : W64 := a ||| b

/-- XOR (Table 6-5). -/
def opXor (a b : W64) : W64 := a ^^^ b

/-- ANDN (Table 6-5). -/
def opAndn (a b : W64) : W64 := a &&& ~~~b

/-- ORN (Table 6-5). -/
def opOrn (a b : W64) : W64 := a ||| ~~~b

/-- XNOR (Table 6-5). -/
def opXnor (a b : W64) : W64 := ~~~(a ^^^ b)

/-- SLL (Table 6-5). [log 50 DEDUCED] -/
def opSll (a b : W64) : W64 := a <<< (b.toNat % 64)

/-- SRL (Table 6-5). -/
def opSrl (a b : W64) : W64 := a >>> (b.toNat % 64)

/-- SRA (Table 6-5). -/
def opSra (a b : W64) : W64 := a.sshiftRight (b.toNat % 64)

/-- ROR (Table 6-5). -/
def opRor (a b : W64) : W64 := a.rotateRight (b.toNat % 64)

/-- SLT (Table 6-5). -/
def opSlt (a b : W64) : W64 := w64 (b2n (a.slt b))

/-- SLTU (Table 6-5). -/
def opSltu (a b : W64) : W64 := w64 (b2n (a.ult b))

/-- MIN (Table 6-5). -/
def opMin (a b : W64) : W64 := if a.slt b then a else b

/-- MAX (Table 6-5). -/
def opMax (a b : W64) : W64 := if a.slt b then b else a

/-- MINU (Table 6-5). -/
def opMinu (a b : W64) : W64 := if a.ult b then a else b

/-- MAXU (Table 6-5). -/
def opMaxu (a b : W64) : W64 := if a.ult b then b else a

/-- MUL (Table 6-5). -/
def opMul (a b : W64) : W64 := a * b

/-- MULHS (Table 6-5). -/
def opMulhs (a b : W64) : W64 := mulHi a.toInt b.toInt

/-- MULHU (Table 6-5). -/
def opMulhu (a b : W64) : W64 := mulHi a.toNat b.toNat

/-- MULHSU (Table 6-5). -/
def opMulhsu (a b : W64) : W64 := mulHi a.toInt b.toNat

/-- CLZ (Table 6-5). -/
def opClz (a : W64) : W64 := w64 (64 - bitLen a.toNat)

/-- CTZ (Table 6-5). -/
def opCtz (a : W64) : W64 := w64 (trailing 64 a.toNat)

/-- POPC (Table 6-5). -/
def opPopc (a : W64) : W64 := w64 (ones 64 a.toNat)

/-- SEXTB (Table 6-5). -/
def opSextb (a : W64) : W64 := (a.setWidth 8).signExtend 64

/-- SEXTH (Table 6-5). -/
def opSexth (a : W64) : W64 := (a.setWidth 16).signExtend 64

/-- SEXTW (Table 6-5). -/
def opSextw (a : W64) : W64 := (a.setWidth 32).signExtend 64

/-- ZEXTW (Table 6-5). -/
def opZextw (a : W64) : W64 := (a.setWidth 32).setWidth 64

/-- PAR (Table 7-3). -/
def opPar (a : W64) : W64 := w64 (ones 64 a.toNat % 2)

/-- BREV (Table 7-3). -/
def opBrev (a : W64) : W64 := w64 (revBits 64 a.toNat)

/-- BREVB (Table 7-3). -/
def opBrevb (a : W64) : W64 := w64 (ofBytes ((bytesOf 8 a.toNat).map fun x => BitVec.ofNat 8 (revBits 8 x.toNat)))

/-- BSWAP (Table 7-3). -/
def opBswap (a : W64) : W64 := w64 (ofBytes (bytesOf 8 a.toNat).reverse)

/-- ADDI: IMM15 sign-extended (R285). -/
def opAddi (i : BitVec 15) (a : W64) : W64 := a + i.signExtend 64

/-- ANDI: IMM15 zero-extended (R285). -/
def opAndi (i : BitVec 15) (a : W64) : W64 := a &&& i.setWidth 64

/-- ORI: IMM15 zero-extended (R285). -/
def opOri (i : BitVec 15) (a : W64) : W64 := a ||| i.setWidth 64

/-- XORI: IMM15 zero-extended (R285). -/
def opXori (i : BitVec 15) (a : W64) : W64 := a ^^^ i.setWidth 64

/-- SLTI: IMM15 sign-extended (R285). -/
def opSlti (i : BitVec 15) (a : W64) : W64 := w64 (b2n (a.slt (i.signExtend 64)))

/-- SLTIU: IMM15 sign-extended (R285). -/
def opSltiu (i : BitVec 15) (a : W64) : W64 := w64 (b2n (a.ult (i.signExtend 64)))

/-- SLLI (R285). -/
def opSlli (sh : BitVec 6) (a : W64) : W64 := a <<< sh.toNat

/-- SRLI (R285). -/
def opSrli (sh : BitVec 6) (a : W64) : W64 := a >>> sh.toNat

/-- SRAI (R285). -/
def opSrai (sh : BitVec 6) (a : W64) : W64 := a.sshiftRight sh.toNat

/-- RORI (R285). -/
def opRori (sh : BitVec 6) (a : W64) : W64 := a.rotateRight sh.toNat

def execAdd (t : Tandem) (gd gs1 gs2 : Reg) (s : State) : Out := .next (alu2 t gd gs1 gs2 opAdd s)

def execSub (t : Tandem) (gd gs1 gs2 : Reg) (s : State) : Out := .next (alu2 t gd gs1 gs2 opSub s)

def execAnd (t : Tandem) (gd gs1 gs2 : Reg) (s : State) : Out := .next (alu2 t gd gs1 gs2 opAnd s)

def execOr (t : Tandem) (gd gs1 gs2 : Reg) (s : State) : Out := .next (alu2 t gd gs1 gs2 opOr s)

def execXor (t : Tandem) (gd gs1 gs2 : Reg) (s : State) : Out := .next (alu2 t gd gs1 gs2 opXor s)

def execAndn (t : Tandem) (gd gs1 gs2 : Reg) (s : State) : Out := .next (alu2 t gd gs1 gs2 opAndn s)

def execOrn (t : Tandem) (gd gs1 gs2 : Reg) (s : State) : Out := .next (alu2 t gd gs1 gs2 opOrn s)

def execXnor (t : Tandem) (gd gs1 gs2 : Reg) (s : State) : Out := .next (alu2 t gd gs1 gs2 opXnor s)

def execSll (t : Tandem) (gd gs1 gs2 : Reg) (s : State) : Out := .next (alu2 t gd gs1 gs2 opSll s)

def execSrl (t : Tandem) (gd gs1 gs2 : Reg) (s : State) : Out := .next (alu2 t gd gs1 gs2 opSrl s)

def execSra (t : Tandem) (gd gs1 gs2 : Reg) (s : State) : Out := .next (alu2 t gd gs1 gs2 opSra s)

def execRor (t : Tandem) (gd gs1 gs2 : Reg) (s : State) : Out := .next (alu2 t gd gs1 gs2 opRor s)

def execSlt (t : Tandem) (gd gs1 gs2 : Reg) (s : State) : Out := .next (alu2 t gd gs1 gs2 opSlt s)

def execSltu (t : Tandem) (gd gs1 gs2 : Reg) (s : State) : Out := .next (alu2 t gd gs1 gs2 opSltu s)

def execMin (t : Tandem) (gd gs1 gs2 : Reg) (s : State) : Out := .next (alu2 t gd gs1 gs2 opMin s)

def execMax (t : Tandem) (gd gs1 gs2 : Reg) (s : State) : Out := .next (alu2 t gd gs1 gs2 opMax s)

def execMinu (t : Tandem) (gd gs1 gs2 : Reg) (s : State) : Out := .next (alu2 t gd gs1 gs2 opMinu s)

def execMaxu (t : Tandem) (gd gs1 gs2 : Reg) (s : State) : Out := .next (alu2 t gd gs1 gs2 opMaxu s)

def execMul (t : Tandem) (gd gs1 gs2 : Reg) (s : State) : Out := .next (alu2 t gd gs1 gs2 opMul s)

def execMulhs (t : Tandem) (gd gs1 gs2 : Reg) (s : State) : Out := .next (alu2 t gd gs1 gs2 opMulhs s)

def execMulhu (t : Tandem) (gd gs1 gs2 : Reg) (s : State) : Out := .next (alu2 t gd gs1 gs2 opMulhu s)

def execMulhsu (t : Tandem) (gd gs1 gs2 : Reg) (s : State) : Out := .next (alu2 t gd gs1 gs2 opMulhsu s)

def execClz (t : Tandem) (gd gs : Reg) (s : State) : Out := .next (alu1 t gd gs opClz s)

def execCtz (t : Tandem) (gd gs : Reg) (s : State) : Out := .next (alu1 t gd gs opCtz s)

def execPopc (t : Tandem) (gd gs : Reg) (s : State) : Out := .next (alu1 t gd gs opPopc s)

def execSextb (t : Tandem) (gd gs : Reg) (s : State) : Out := .next (alu1 t gd gs opSextb s)

def execSexth (t : Tandem) (gd gs : Reg) (s : State) : Out := .next (alu1 t gd gs opSexth s)

def execSextw (t : Tandem) (gd gs : Reg) (s : State) : Out := .next (alu1 t gd gs opSextw s)

def execZextw (t : Tandem) (gd gs : Reg) (s : State) : Out := .next (alu1 t gd gs opZextw s)

def execPar (t : Tandem) (gd gs : Reg) (s : State) : Out := .next (alu1 t gd gs opPar s)

def execBrev (t : Tandem) (gd gs : Reg) (s : State) : Out := .next (alu1 t gd gs opBrev s)

def execBrevb (t : Tandem) (gd gs : Reg) (s : State) : Out := .next (alu1 t gd gs opBrevb s)

def execBswap (t : Tandem) (gd gs : Reg) (s : State) : Out := .next (alu1 t gd gs opBswap s)

def execAddi (t : Tandem) (gd gs : Reg) (imm : BitVec 15) (s : State) : Out := .next (alu1 t gd gs (opAddi imm) s)

def execAndi (t : Tandem) (gd gs : Reg) (imm : BitVec 15) (s : State) : Out := .next (alu1 t gd gs (opAndi imm) s)

def execOri (t : Tandem) (gd gs : Reg) (imm : BitVec 15) (s : State) : Out := .next (alu1 t gd gs (opOri imm) s)

def execXori (t : Tandem) (gd gs : Reg) (imm : BitVec 15) (s : State) : Out := .next (alu1 t gd gs (opXori imm) s)

def execSlti (t : Tandem) (gd gs : Reg) (imm : BitVec 15) (s : State) : Out := .next (alu1 t gd gs (opSlti imm) s)

def execSltiu (t : Tandem) (gd gs : Reg) (imm : BitVec 15) (s : State) : Out := .next (alu1 t gd gs (opSltiu imm) s)

def execSlli (t : Tandem) (gd gs : Reg) (sh : BitVec 6) (s : State) : Out := .next (alu1 t gd gs (opSlli sh) s)

def execSrli (t : Tandem) (gd gs : Reg) (sh : BitVec 6) (s : State) : Out := .next (alu1 t gd gs (opSrli sh) s)

def execSrai (t : Tandem) (gd gs : Reg) (sh : BitVec 6) (s : State) : Out := .next (alu1 t gd gs (opSrai sh) s)

def execRori (t : Tandem) (gd gs : Reg) (sh : BitVec 6) (s : State) : Out := .next (alu1 t gd gs (opRori sh) s)

/-- The tag codes of Table 5-1. -/
def tagCode : Tag → Nat
  | .unwritten => 0 | .int => 1 | .bytes => 2 | .flt => 3 | .fixq => 4 | .insn => 5 | .capa => 6 | .capb => 7 | .poison => 8
  | .reserved k => 9 + k.val

/-- The data tag of a code (R215, R218). -/
def dataTagOf (n : Nat) : Option Tag :=
  match n with
  | 1 => some .int | 2 => some .bytes | 3 => some .flt | 4 => some .fixq | 5 => some .insn
  | _ => none

/-- GTAG never faults (R218). -/
def execGtag (t : Tandem) (gd gs : Reg) (s : State) : Out :=
  .next (plainWord t (do
    let v ← rawG t gs
    putInt t gd (w64 (tagCode v.tag))) s)

/-- STAG: the source's tag, then the new tag, then SYS for INSN (R218, Table 6-11). -/
def execStag (t : Tandem) (gd gs : Reg) (tag : BitVec 4) (s : State) : Out :=
  .next (plainWord t (do
    let a ← srcG t gs
    match dataTagOf tag.toNat with
    | none => raise 0 dTAGSET
    | some .insn => do
      needSys t
      putG t gd ⟨.insn, a⟩
    | some g => putG t gd ⟨g, a⟩) s)

/-- MOV carries the tag (R215, Table 5-2). -/
def execMov (t : Tandem) (gd gs : Reg) (s : State) : Out :=
  .next (plainWord t (do
    let v ← rawG t gs
    putG t gd v) s)

/-- MOVI: IMM20 sign-extended (R286). -/
def execMovi (t : Tandem) (gd : Reg) (imm : BitVec 20) (s : State) : Out :=
  .next (plainWord t (putInt t gd (imm.signExtend 64)) s)

/-- INSH: bits [16K + 15 : 16K] replaced (R286). -/
def execInsh (t : Tandem) (gd : Reg) (k : BitVec 2) (imm : BitVec 16) (s : State) : Out :=
  .next (alu1 t gd gd (fun a => putBits a (16 * k.toNat) 16 imm.toNat) s)

end Sys2Proof.Machine
end

