-- ==== Sys2Proof/Machine/Mem.lean ====
section
/-! DEFINITION. Data and capability loads and stores, SPOIS and CLRP (R287 to R294). -/

namespace Sys2Proof.Machine

/-- The offset of an operand: OFF13, or gi × 2^SC with gi signed and holding a data tag (R287, step 1 of Table 5-8). -/
def offsetOf (t : Tandem) : MemAddr → Cm Int
  | .imm off => pure off.toInt
  | .idx gi sc => do
    let v ← srcG t gi
    pure (v.toInt * 2 ^ sc.toNat)

/-- A data load of `n` bytes into gd (R287, R216). -/
def loadG (t : Tandem) (gd : Reg) (cs : CReg) (addr : MemAddr) (n : Nat) (sgn : Bool) (s : State) : State :=
  runWord t .plain false (do
    let off ← offsetOf t addr
    let ea ← access t cs ⟨pLD, false, n, 1⟩ off
    doLoad t .load .data ea n (.g gd sgn)) s

/-- A partial store treats its data register as an integer source (R289). -/
def storeSource (n : Nat) (ea : Int) (v : TWord) (kind num : Nat) : Cm Unit := do
  if n < 8 ∨ ea % 8 ≠ 0 then
    let _ ← needData v kind num
    pure ()
  else pure ()

/-- A data store of the low `n` bytes of gs (R287, R217, R289, R291). An 8-byte store through an index register without a
data tag is judged by the bits the register holds, 0 for UNWRITTEN. [log 129 DESIGN CHOICE] -/
def storeG (t : Tandem) (gs : Reg) (cs : CReg) (addr : MemAddr) (n : Nat) (s : State) : State :=
  plainWord t (do
    let v ← rawG t gs
    -- sources from left to right in the syntax: gs, then the index register
    let cur ← rawC t cs
    let idx : TWord ← match addr with
      | .imm _ => pure (TWord.int 0)
      | .idx gi _ => rawG t gi
    let guess : Int := match addr with
      | .imm off => (cur.cursor : Int) + off.toInt
      | .idx _ sc => (cur.cursor : Int) + idx.bits.toInt * 2 ^ sc.toNat
    storeSource n guess v 0 gs.val
    let off ← offsetOf t addr
    let ea ← access t cs ⟨pST, false, n, 1⟩ off
    dataStore t .data ea n v 0 gs.val) s

def execLbu (t : Tandem) (gd : Reg) (cs : CReg) (addr : MemAddr) (s : State) : Out := .next (loadG t gd cs addr 1 false s)
def execLhu (t : Tandem) (gd : Reg) (cs : CReg) (addr : MemAddr) (s : State) : Out := .next (loadG t gd cs addr 2 false s)
def execLwu (t : Tandem) (gd : Reg) (cs : CReg) (addr : MemAddr) (s : State) : Out := .next (loadG t gd cs addr 4 false s)
def execLd (t : Tandem) (gd : Reg) (cs : CReg) (addr : MemAddr) (s : State) : Out := .next (loadG t gd cs addr 8 false s)
def execLb (t : Tandem) (gd : Reg) (cs : CReg) (addr : MemAddr) (s : State) : Out := .next (loadG t gd cs addr 1 true s)
def execLh (t : Tandem) (gd : Reg) (cs : CReg) (addr : MemAddr) (s : State) : Out := .next (loadG t gd cs addr 2 true s)
def execLw (t : Tandem) (gd : Reg) (cs : CReg) (addr : MemAddr) (s : State) : Out := .next (loadG t gd cs addr 4 true s)

def execSb (t : Tandem) (gs : Reg) (cs : CReg) (addr : MemAddr) (s : State) : Out := .next (storeG t gs cs addr 1 s)
def execSh (t : Tandem) (gs : Reg) (cs : CReg) (addr : MemAddr) (s : State) : Out := .next (storeG t gs cs addr 2 s)
def execSw (t : Tandem) (gs : Reg) (cs : CReg) (addr : MemAddr) (s : State) : Out := .next (storeG t gs cs addr 4 s)
def execSd (t : Tandem) (gs : Reg) (cs : CReg) (addr : MemAddr) (s : State) : Out := .next (storeG t gs cs addr 8 s)

/-- CLC cd, [cs + OFF12 × 16] (R293). -/
def execClc (t : Tandem) (cd cs : CReg) (off : BitVec 12) (s : State) : Out :=
  .next (runWord t .plain false (do
    let ea ← access t cs ⟨pLD + pLDC, false, 16, 16⟩ (off.toInt * 16)
    doLoad t .capLoad .noDev ea 16 (.c cd)) s)

/-- The pair that a capability store writes: its tags and bits (R228). -/
def capTags (c : Cap) : Tag × Tag :=
  match c.st with
  | .valid => (.capa, .capb)
  | .unwritten => (.unwritten, .unwritten)
  | _ => (.bytes, .bytes)

def capBits (c : Cap) : W64 × W64 := if c.st = .unwritten then (0, 0) else (c.a, c.b)

/-- The register is a VALID tethered capability (R234). -/
def Cap.tethered (c : Cap) : Bool := c.st == .valid && c.tether

/-- Step 10: DUR for the Spenik store, and the working SRAM for a tethered capability (R234, R238, R255). [log 29 DEDUCED] -/
def durCheck (c : Cap) (r : Region) (ea : Nat) : Cm Unit :=
  if c.st ≠ .valid then pure ()
  else if r = .spenik ∧ c.has pDUR = false then raiseAt 1 dDUR ea
  else if c.tether ∧ r ≠ .sram then raiseAt 1 dTETHER ea
  else pure ()

/-- The buffer entry of a capability store (R228). -/
def capEntry (pa : Nat) (c : Cap) : SbEnt :=
  ⟨pa, bytesOf 8 (capBits c).1.toNat ++ bytesOf 8 (capBits c).2.toNat, .pair (capTags c).1 (capTags c).2⟩

/-- A capability store after steps 1 to 8 (R293). -/
def capStore (t : Tandem) (ea : Nat) (c : Cap) : Cm Unit := do
  let ring := ((← get).cpu t).ring
  let (ph, r) ← translate t .capStore .noDev ring ea 16
  durCheck c r ea
  targetTag t (ph.lo / 8) true ea
  targetTag t (ph.lo / 8 + 1) true ea
  ledgerAdmit t ea [ph.lo / 8, ph.lo / 8 + 1]
  pushStore t (capEntry ph.lo c)

/-- CSC c, [cs + OFF12 × 16] (R293). -/
def execCsc (t : Tandem) (c cs : CReg) (off : BitVec 12) (s : State) : Out :=
  .next (plainWord t (do
    let v ← rawC t c
    let ea ← access t cs ⟨pST + pSTC, v.tethered, 16, 16⟩ (off.toInt * 16)
    capStore t ea v) s)

/-- SPOIS writes POISON over one word and never raises TAG_POISON (R241, R294). -/
def execSpois (t : Tandem) (cs : CReg) (off : BitVec 13) (s : State) : Out :=
  .next (plainWord t (do
    let ea ← access t cs ⟨pST, false, 8, 8⟩ off.toInt
    let ring := ((← get).cpu t).ring
    let (ph, _) ← translate t .store .noDev ring ea 8
    storeLine t (ph.lo / 8) ea
    ledgerAdmit t ea [ph.lo / 8]
    pushStore t ⟨ph.lo, bytesOf 8 0, .whole .poison⟩) s)

/-- CLRP writes UNWRITTEN over one word; SYS and ring 0 are checked after every step of Table 5-8 (R242, R294). -/
def execClrp (t : Tandem) (cs : CReg) (off : BitVec 13) (s : State) : Out :=
  .next (plainWord t (do
    let ea ← access t cs ⟨pST, false, 8, 8⟩ off.toInt
    let ring := ((← get).cpu t).ring
    let (ph, _) ← translate t .store .noDev ring ea 8
    storeLine t (ph.lo / 8) ea
    needSys0At t ea
    ledgerAdmit t ea [ph.lo / 8]
    pushStore t ⟨ph.lo, bytesOf 8 0, .whole .unwritten⟩) s)

end Sys2Proof.Machine
end

