-- ==== Sys2Proof/Machine/Atom.lean ====
section
/-! DEFINITION. LR, SC and TAS, the divider, fixed point, modulo and bit-reversed addressing, and the fences (R339 to R346,
R350 to R354, R357 to R361). -/

namespace Sys2Proof.Machine

/-! LR, SC and TAS. -/

/-- LR loads like LD and sets the reservation (R340). -/
def execLr (t : Tandem) (gd : Reg) (cs : CReg) (off : BitVec 8) (s : State) : Out :=
  .next (runWord t .plain false (do
    let ea ← access t cs ⟨pLD, false, 8, 8⟩ (off.toInt * 8)
    doLoad t .load .lrsc ea 8 (.lr gd)) s)

/-- Whether the reservation is held on a line; its loss with the line's eviction is `Cpu.lose` (R340, R343). [log 24 DEDUCED] -/
def resvHeld (t : Tandem) (line : Nat) : Cm Bool := do
  pure (((← get).cpu t).resv == some line)

/-- SC: every check, then the store and 0, or no store and 1; the reservation goes either way (R341). [log 24 DEDUCED, 25
DEDUCED] -/
def execSc (t : Tandem) (gd gs : Reg) (cs : CReg) (off : BitVec 8) (s : State) : Out :=
  .next (plainWord t (do
    let v ← rawG t gs
    let ea ← access t cs ⟨pST, false, 8, 8⟩ (off.toInt * 8)
    let ring := ((← get).cpu t).ring
    let (ph, _) ← translate t .store .lrsc ring ea 8
    targetTag t (ph.lo / 8) true ea
    let held ← resvHeld t (ph.lo / 64)
    modify fun s => s.modCpu t fun c => { c with resv := none }
    if held then pushStore t ⟨ph.lo, bytesOf 8 v.bits.toNat, .whole v.tag⟩
    putInt t gd (if held then 0 else 1)) s)

/-- A TAS that cannot end yet holds the tandem: no interrupt and no switch comes before it ends, and its word alone goes on
(R342, R435). [log 44 DEDUCED] -/
def tasWord (t : Tandem) (body : Cm Unit) (s : State) : State :=
  let s := if (s.cpu t).wait = .tas then s.modCpu t fun c => { c with wait := .none } else s
  if s.ready t then
    match (do issue t .plain; body : Cm Unit).run s with
    | .error e _ => if e = Exc.waits then s.modCpu t fun c => { c with wait := .tas } else plainWord t body s
    | .ok _ _ => plainWord t body s
  else s

/-- TAS: after the buffer has emptied, one indivisible read and write back with bit 0 set (R342). -/
def execTas (t : Tandem) (gd : Reg) (cs : CReg) (off : BitVec 8) (s : State) : Out :=
  .next (tasWord t (do
    let ea ← access t cs ⟨pLD + pST, false, 8, 8⟩ (off.toInt * 8)
    let ring := ((← get).cpu t).ring
    let (ph, r) ← translate t .store .tas ring ea 8
    emptyBuffer t
    let s ← get
    match r with
    | .dev b => if s.devBusy b then throw Exc.waits else do
      let (v, s') := devRead s t b (ph.lo % 0x10000)
      set (devStore s' t ph.lo 8 (v ||| 1))
      putInt t gd (w64 v)
    | _ => do
      readOne t r false (ph.lo / 8) ea
      let w := (← get).memWord (ph.lo / 8)
      let got ← loadedWord w ea
      match got.tag with
      | .unwritten => raiseAt 0 dUNWRITTEN ea
      | .poison => raiseAt 0 dPOISON ea
      | _ => do
        ledgerAdmit t ea [ph.lo / 8]
        modify fun s => s.writeWords t [(ph.lo / 8, .int (w.bits ||| 1))]
        putG t gd got) s)

/-- L2_RESERVATION_HOLD_END: the hold for this tandem's LR ends (R343). [log 23 DESIGN CHOICE] -/
def execL2ReservationHoldEnd (t : Tandem) (s : State) : Out := .next (s.rooted fun s => s.modCpu t fun c => { c with hold := none })

/-! The divider (R344): no value ever faults. -/

/-- DIV truncates toward zero (R344). [log 50 DEDUCED] -/
def divS (a b : W64) : W64 := if b = 0 then BitVec.allOnes 64 else BitVec.ofInt 64 (a.toInt.tdiv b.toInt)
/-- DIVU (R344). [log 50 DEDUCED] -/
def divU (a b : W64) : W64 := if b = 0 then BitVec.allOnes 64 else w64 (a.toNat / b.toNat)
/-- REM: the remainder takes the dividend's sign (R344). [log 50 DEDUCED] -/
def remS (a b : W64) : W64 := if b = 0 then a else BitVec.ofInt 64 (a.toInt.tmod b.toInt)
/-- REMU (R344). [log 50 DEDUCED] -/
def remU (a b : W64) : W64 := if b = 0 then a else w64 (a.toNat % b.toNat)

/-- A divide is long-running (R332). -/
def divWord (t : Tandem) (gd gs1 gs2 : Reg) (f : W64 → W64 → W64) (s : State) : State :=
  runWord t .long false (do
    let a ← srcG t gs1
    let b ← srcG t gs2
    modify fun s => s.event t 0x0D 1
    putInt t gd (f a b)
    pure .next) s

def execDiv (t : Tandem) (gd gs1 gs2 : Reg) (s : State) : Out := .next (divWord t gd gs1 gs2 divS s)
def execDivu (t : Tandem) (gd gs1 gs2 : Reg) (s : State) : Out := .next (divWord t gd gs1 gs2 divU s)
def execRem (t : Tandem) (gd gs1 gs2 : Reg) (s : State) : Out := .next (divWord t gd gs1 gs2 remS s)
def execRemu (t : Tandem) (gd gs1 gs2 : Reg) (s : State) : Out := .next (divWord t gd gs1 gs2 remU s)

/-! Fixed point (R350, Table 7-5). -/

/-- A value saturated to a signed 64-bit value, and whether it saturated. -/
def satS (x : Int) : W64 × Bool :=
  if 2 ^ 63 - 1 < x then (BitVec.ofInt 64 (2 ^ 63 - 1), true)
  else if x < -(2 ^ 63) then (BitVec.ofInt 64 (-(2 ^ 63)), true)
  else (BitVec.ofInt 64 x, false)

/-- QSTAT is read; the result is tagged FIXQ; a saturation sets QSTAT.SAT. [log 28 DEDUCED] -/
def putFix (t : Tandem) (gd : Reg) (x : Int) : Cm Unit := do
  let q := ((← get).cpu t).lk.qstat
  if q.tag = .unwritten then raise 0 dUNWRITTEN
  else do
    let (v, sat) := satS x
    if sat then modLk t fun l => { l with qstat := .int (q.bits ||| 1) }
    putG t gd ⟨.fixq, v⟩

def fix2 (t : Tandem) (gd gs1 gs2 : Reg) (f : Int → Int → Int) (s : State) : State :=
  plainWord t (do
    let a ← srcG t gs1
    let b ← srcG t gs2
    putFix t gd (f a.toInt b.toInt)) s

def fix1 (t : Tandem) (gd gs : Reg) (f : Int → Int) (s : State) : State :=
  plainWord t (do
    let a ← srcG t gs
    putFix t gd (f a.toInt)) s

def qadd (a b : Int) : Int := a + b
def qsub (a b : Int) : Int := a - b
/-- The product, rounded half up at bit FRAC (Table 7-5). -/
def qmul (frac : Nat) (a b : Int) : Int := if frac = 0 then a * b else (a * b + 2 ^ (frac - 1)) / 2 ^ frac
def qshl (frac : Nat) (a : Int) : Int := a * 2 ^ frac
def qabs (a : Int) : Int := if a < 0 then -a else a
def qneg (a : Int) : Int := -a

def execQadd (t : Tandem) (gd gs1 gs2 : Reg) (s : State) : Out := .next (fix2 t gd gs1 gs2 qadd s)
def execQsub (t : Tandem) (gd gs1 gs2 : Reg) (s : State) : Out := .next (fix2 t gd gs1 gs2 qsub s)
def execQmul (t : Tandem) (gd gs1 gs2 : Reg) (frac : BitVec 6) (s : State) : Out :=
  .next (fix2 t gd gs1 gs2 (qmul frac.toNat) s)
def execQshl (t : Tandem) (gd gs : Reg) (frac : BitVec 6) (s : State) : Out := .next (fix1 t gd gs (qshl frac.toNat) s)
def execQabs (t : Tandem) (gd gs : Reg) (s : State) : Out := .next (fix1 t gd gs qabs s)
def execQneg (t : Tandem) (gd gs : Reg) (s : State) : Out := .next (fix1 t gd gs qneg s)

/-! Modulo and bit-reversed addressing (R351, R352). -/

/-- A descriptor: BUF, MODE, LEN and STEP. -/
structure ModDesc where
  buf : Nat
  mode : Nat
  len : Nat
  step : Int
  deriving DecidableEq, Repr

/-- The descriptor of M; an UNWRITTEN or POISON one faults as a source. On tandem G both read as UNWRITTEN (R352, R370). -/
def modDesc (t : Tandem) (md : Fin 2) : Cm ModDesc := do
  let l := ((← get).cpu t).lk
  let (b, c) := if md = 0 then (l.mod0Base, l.mod0Ctl) else (l.mod1Base, l.mod1Ctl)
  let (b, c) := if t.isG then (TWord.unwritten, TWord.unwritten) else (b, c)
  let bb ← needData b 3 0
  let cc ← needData c 3 0
  pure ⟨wf bb 0 44, wf cc 62 2, wf cc 32 24, signed 24 (wf cc 0 24)⟩

/-- The step of R351: the new cursor, or none for MOD_RANGE. `sh` is the element size's exponent. -/
def modStep (d : ModDesc) (cursor sh : Nat) : Option Nat :=
  let o : Int := (cursor : Int) - d.buf
  if (d.mode ≠ 1 ∧ d.mode ≠ 2) ∨ o < 0 ∨ (d.len : Int) ≤ o then none
  else if d.mode = 1 then some (d.buf + ((o + d.step) % (d.len : Int)).toNat)
  else
    let k := Nat.log2 d.len
    if d.len ≠ 2 ^ k ∨ k < sh ∨ o.toNat % 2 ^ sh ≠ 0 then none
    else
      let n := k - sh
      let i := o.toNat / 2 ^ sh
      let j := ((d.step / (2 ^ sh : Int)) % (2 ^ n : Int)).toNat
      some (d.buf + 2 ^ sh * revBits n ((revBits n i + revBits n j) % 2 ^ n))

/-- The size exponent of an SZ code of Table 6-6. -/
def szExp (sz : Nat) : Nat := if sz = 4 then 0 else if sz = 5 then 1 else if sz = 6 then 2 else sz

def execMld (t : Tandem) (gd : Reg) (cs : CReg) (md : Fin 2) (sz : Fin 7) (s : State) : Out :=
  .next (runWord t .plain false (do
    let d ← modDesc t md
    let sh := szExp sz.val
    let ea ← access t cs ⟨pLD, false, 2 ^ sh, 1⟩ 0
    match modStep d ea sh with
    | none => raiseAt 3 0x30 ea
    | some c => doLoad t .load .data ea (2 ^ sh) (.modLoad gd (decide (4 ≤ sz.val)) cs (BitVec.ofNat 44 c))) s)

def execMst (t : Tandem) (gs : Reg) (cs : CReg) (md : Fin 2) (sz : Fin 4) (s : State) : Out :=
  .next (plainWord t (do
    let v ← rawG t gs
    let c ← rawC t cs
    storeSource (2 ^ sz.val) c.cursor v 0 gs.val
    let d ← modDesc t md
    let ea ← access t cs ⟨pST, false, 2 ^ sz.val, 1⟩ 0
    match modStep d ea sz.val with
    | none => raiseAt 3 0x30 ea
    | some x => do
      dataStore t .data ea (2 ^ sz.val) v 0 gs.val
      putC t cs (c.setCursor x)) s)

/-- MSTEP: steps 2 to 4 and MOD_RANGE only (R352). -/
def execMstep (t : Tandem) (cs : CReg) (md : Fin 2) (sz : Fin 4) (s : State) : Out :=
  .next (plainWord t (do
    let d ← modDesc t md
    let c ← rawC t cs
    if c.st = .unwritten then raiseSrc 0 dUNWRITTEN 1 cs.val
    else if c.st ≠ .valid then raiseSrc 1 dINVALID 1 cs.val
    else if c.sealed then raiseSrc 1 dSEALED 1 cs.val
    else
      match modStep d c.cursor sz.val with
      | none => raise 3 0x30
      | some x => putC t cs (c.setCursor x)) s)

/-! Fences (R353, R611). -/

/-- FENCE: the store buffer is empty and every older store has reached its target. -/
def execFence (t : Tandem) (s : State) : Out := .next (plainWord t (emptyBuffer t) s)

/-- The L1 instruction cache and the branch-target buffer are empty, and what they held cannot be met (R353). -/
def State.dropCode (s : State) (t : Tandem) : State :=
  (s.heal fun x => match x with
    | .l1i m _ | .btb m _ => m.tandem == t
    | _ => false).modFront t fun f => { f with l1i := [], btb := [] }

/-- IFLUSH: a fence, then an empty instruction cache and branch-target buffer, and every younger word is fetched again (R353,
R389). [log 19 DEDUCED] -/
def execIflush (t : Tandem) (s : State) : Out :=
  .next (plainWord t (do
    emptyBuffer t
    modify fun s => s.hw ((s.flushFetch t).dropCode t)) s)

/-- TBAR: a fence, then empty micro-TLBs, and every younger word is fetched again (R353). -/
def execTbar (t : Tandem) (s : State) : Out :=
  .next (plainWord t (do
    emptyBuffer t
    modify fun s => s.hw (((s.flushFetch t).heal fun x => match x with
      | .itlb m _ | .dtlb m _ => m.tandem == t
      | _ => false).modCpu t fun c => { c with itlb := [], dtlb := [] })) s)

/-- PFENCE: a fence, the close of the epoch, and a wait for the commit of every epoch closed so far (R611, R354, R361). [log
44 DEDUCED] -/
def execPfence (t : Tandem) (s : State) : Out :=
  .next (runWord t .long false (do
    emptyBuffer t
    modify fun s => if s.spk.uncommitted t then s else { s with spk := s.spk.close t }
    let s ← get
    if s.spk.uncommitted t then do
      set (s.modCpu t fun c => { c with wait := .pfence })
      pure .stay
    else pure .next) s)

end Sys2Proof.Machine
end

