-- ==== Sys2Proof/Machine/Branch.lean ====
section
/-! DEFINITION. Compare-and-branch, the jumps and the delay slot; ILL, pair words and the emulation trap (R276 to R281,
R297 to R304). -/

namespace Sys2Proof.Machine

/-- A transfer to a + 4 × disp (R298, R299). -/
def branchTo (t : Tandem) (k : CtiKind) (taken : Bool) (disp : Int) : Cm Ret := do
  let a ← pcNow t
  pure (.cti k ((a : Int) + 4 * disp) taken none)

/-- Format B. -/
def branchR (t : Tandem) (gs1 gs2 : Reg) (disp : BitVec 12) (f : W64 → W64 → Bool) (s : State) : State :=
  runWord t (.cti none) false (do
    let x ← srcG t gs1
    let y ← srcG t gs2
    branchTo t .cond (f x y) disp.toInt) s

/-- Format BI with IMM8 extended to `y`. -/
def branchI (t : Tandem) (gs : Reg) (y : W64) (disp : BitVec 9) (f : W64 → W64 → Bool) (s : State) : State :=
  runWord t (.cti none) false (do
    let x ← srcG t gs
    branchTo t .cond (f x y) disp.toInt) s

def condEq (x y : W64) : Bool := x == y
def condNe (x y : W64) : Bool := x != y
def condLt (x y : W64) : Bool := x.slt y
def condGe (x y : W64) : Bool := !x.slt y
def condLtu (x y : W64) : Bool := x.ult y
def condGeu (x y : W64) : Bool := !x.ult y
def condSet (x y : W64) : Bool := x &&& y != 0
def condClr (x y : W64) : Bool := x &&& y == 0

def execBeq (t : Tandem) (gs1 gs2 : Reg) (disp : BitVec 12) (s : State) : Out := .next (branchR t gs1 gs2 disp condEq s)
def execBne (t : Tandem) (gs1 gs2 : Reg) (disp : BitVec 12) (s : State) : Out := .next (branchR t gs1 gs2 disp condNe s)
def execBlt (t : Tandem) (gs1 gs2 : Reg) (disp : BitVec 12) (s : State) : Out := .next (branchR t gs1 gs2 disp condLt s)
def execBge (t : Tandem) (gs1 gs2 : Reg) (disp : BitVec 12) (s : State) : Out := .next (branchR t gs1 gs2 disp condGe s)
def execBltu (t : Tandem) (gs1 gs2 : Reg) (disp : BitVec 12) (s : State) : Out := .next (branchR t gs1 gs2 disp condLtu s)
def execBgeu (t : Tandem) (gs1 gs2 : Reg) (disp : BitVec 12) (s : State) : Out := .next (branchR t gs1 gs2 disp condGeu s)
def execBset (t : Tandem) (gs1 gs2 : Reg) (disp : BitVec 12) (s : State) : Out := .next (branchR t gs1 gs2 disp condSet s)
def execBclr (t : Tandem) (gs1 gs2 : Reg) (disp : BitVec 12) (s : State) : Out := .next (branchR t gs1 gs2 disp condClr s)

/-- IMM8 is sign-extended for conditions 0 to 5 and zero-extended for 6 and 7 (R298). -/
def execBeqi (t : Tandem) (gs : Reg) (imm : BitVec 8) (disp : BitVec 9) (s : State) : Out :=
  .next (branchI t gs (imm.signExtend 64) disp condEq s)
def execBnei (t : Tandem) (gs : Reg) (imm : BitVec 8) (disp : BitVec 9) (s : State) : Out :=
  .next (branchI t gs (imm.signExtend 64) disp condNe s)
def execBlti (t : Tandem) (gs : Reg) (imm : BitVec 8) (disp : BitVec 9) (s : State) : Out :=
  .next (branchI t gs (imm.signExtend 64) disp condLt s)
def execBgei (t : Tandem) (gs : Reg) (imm : BitVec 8) (disp : BitVec 9) (s : State) : Out :=
  .next (branchI t gs (imm.signExtend 64) disp condGe s)
def execBltui (t : Tandem) (gs : Reg) (imm : BitVec 8) (disp : BitVec 9) (s : State) : Out :=
  .next (branchI t gs (imm.signExtend 64) disp condLtu s)
def execBgeui (t : Tandem) (gs : Reg) (imm : BitVec 8) (disp : BitVec 9) (s : State) : Out :=
  .next (branchI t gs (imm.signExtend 64) disp condGeu s)
def execBseti (t : Tandem) (gs : Reg) (imm : BitVec 8) (disp : BitVec 9) (s : State) : Out :=
  .next (branchI t gs (imm.setWidth 64) disp condSet s)
def execBclri (t : Tandem) (gs : Reg) (imm : BitVec 8) (disp : BitVec 9) (s : State) : Out :=
  .next (branchI t gs (imm.setWidth 64) disp condClr s)

/-- J (R299). -/
def execJ (t : Tandem) (disp : BitVec 25) (s : State) : Out := .next (runWord t (.cti (some disp.toInt)) false (branchTo t .jump true disp.toInt) s)

/-- JAL writes a + 8, tagged INT, into g31 (R299). -/
def execJal (t : Tandem) (disp : BitVec 25) (s : State) : Out :=
  .next (runWord t (.cti (some disp.toInt)) false (do
    let a ← pcNow t
    putInt t 31 (w64 (a + 8))
    branchTo t .jump true disp.toInt) s)

/-- JALR: the target is what gs held before (R300). -/
def execJalr (t : Tandem) (gd gs : Reg) (s : State) : Out :=
  .next (runWord t (.cti none) false (do
    let x ← srcG t gs
    let tgt := wf x 0 44
    if tgt % 4 ≠ 0 then raise 1 dALIGN
    else do
      let a ← pcNow t
      putInt t gd (w64 (a + 8))
      pure (.cti .reg (tgt : Int) true none)) s)

/-- JALC: the checks of R244 at the jump, the link in cd, cs the PCC after the slot (R301). -/
def execJalc (t : Tandem) (cd cs : CReg) (s : State) : Out :=
  .next (runWord t (.cti none) false (do
    let raw ← rawC t cs
    let cur := raw.cursor
    let c ← checkCap t cs 0 false cur
    let cpu := (← get).cpu t
    if !c.has pEX then raiseCapAt dPERM cs.val cur
    else if c.ring ≠ cpu.ring then raiseCapAt dRING cs.val cur
    else if cur % 4 ≠ 0 then raiseCapAt dALIGN cs.val cur
    else do
      let a ← pcNow t
      putC t cd (cpu.lk.pcc.setCursor (a + 8))
      pure (.cti .reg (cur : Int) true (some c))) s)

/-- ILL: the permanent illegal opcode (R276). -/
def execIll (t : Tandem) (s : State) : Out := .next (runWord t .plain false (raise 2 0x20) s)

/-! Pair words. -/

/-- The write that a half of a pair word makes (R279). -/
inductive HalfRes where
  | none
  | g (gd : Reg) (v : TWord)
  | c (cd : CReg) (v : Cap)
  deriving DecidableEq, Repr

/-- A half of a pair word reads the registers as they stand before the word (R279); its sources and faults are those of its
long counterpart (R278). -/
def halfEval (t : Tandem) (o : ShortOp) : Cm HalfRes :=
  let two (gd gs : Reg) (f : W64 → W64 → W64) : Cm HalfRes := do
    let a ← srcG t gd
    let b ← srcG t gs
    pure (.g gd (.int (f a b)))
  let one (gd : Reg) (f : W64 → W64) : Cm HalfRes := do
    let a ← srcG t gd
    pure (.g gd (.int (f a)))
  match o with
  | .nop => pure .none
  | .mov gd gs => do
    let v ← rawG t gs
    pure (.g gd v)
  | .add gd gs => two gd gs fun a b => a + b
  | .sub gd gs => two gd gs fun a b => a - b
  | .and gd gs => two gd gs fun a b => a &&& b
  | .or gd gs => two gd gs fun a b => a ||| b
  | .xor gd gs => two gd gs fun a b => a ^^^ b
  | .sll gd gs => two gd gs fun a b => a <<< (b.toNat % 64)
  | .addi gd imm => one gd fun a => a + imm.signExtend 64
  | .movi gd imm => pure (.g gd (.int (imm.signExtend 64)))
  | .slli gd sh => one gd fun a => a <<< sh.toNat
  | .srli gd sh => one gd fun a => a >>> sh.toNat
  | .srai gd sh => one gd fun a => a.sshiftRight sh.toNat
  | .cmov cd cs => do
    let v ← rawC t cs
    pure (.c cd v)
  | .cinci cd imm => do
    let v ← rawC t cd
    if v.st = .unwritten then raiseSrc 0 dUNWRITTEN 1 cd.val
    else if v.st ≠ .valid then raiseSrc 1 dINVALID 1 cd.val
    else if v.sealed then raiseSrc 1 dSEALED 1 cd.val
    else pure (.c cd (v.setCursor (wrap 44 ((v.cursor : Int) + 8 * imm.toInt))))

def putHalf (t : Tandem) : HalfRes → Cm Unit
  | .none => pure ()
  | .g gd v => putG t gd v
  | .c cd v => putC t cd v

/-- The second half's fault names its half (R280). -/
def secondHalf {α : Type} (x : Cm α) : Cm α := fun s =>
  match x s with
  | .ok a s' => .ok a s'
  | .error e s' => .error { e with half := true } s'

/-- A pair word: both halves read, then the first result and the second are written (R279, R280). -/
def execPairWord (t : Tandem) (h1 h2 : ShortOp) (s : State) : Out :=
  .next (runWord t .plain true (do
    let r1 ← halfEval t h1
    let r2 ← secondHalf (halfEval t h2)
    putHalf t r1
    putHalf t r2
    pure .next) s)

end Sys2Proof.Machine
end

