-- ==== Sys2Proof/Machine/Caps.lean ====
section
/-! DEFINITION. The capability derivations and getters of Table 5-7 (R235 to R240, R246 to R252, R295, R296, R962). -/

namespace Sys2Proof.Machine

/-- A derivation's source: VALID and unsealed (R235). -/
def derive (t : Tandem) (r : CReg) : Cm Cap := do
  let c ← rawC t r
  if c.st = .unwritten then raiseSrc 0 dUNWRITTEN 1 r.val
  else if c.st ≠ .valid then raiseSrc 1 dINVALID 1 r.val
  else if c.sealed then raiseSrc 1 dSEALED 1 r.val
  else pure c

/-- A derivation with a g operand: its tag first, then the capability source (R222, R235). -/
def deriveG (t : Tandem) (cd cs : CReg) (gs : Reg) (f : Cap → W64 → Cm Cap) (s : State) : State :=
  plainWord t (do
    let g ← srcG t gs
    let c ← derive t cs
    let r ← f c g
    putC t cd r) s

/-- CMOV: a copy in any state; with P = 1 a copy of PCC with CURSOR at the word's address (R295). -/
def execCmov (t : Tandem) (cd : CReg) (src : Option CReg) (s : State) : Out :=
  .next (plainWord t (do
    match src with
    | some cs => do
      let c ← rawC t cs
      putC t cd c
    | none => do
      let cpu := (← get).cpu t
      putC t cd cpu.lk.pcc) s)

/-- CURSOR := (CURSOR + d) mod 2^44 (Table 5-7, R248). -/
def addCursor (c : Cap) (d : Int) : Cap := c.setCursor (wrap 44 ((c.cursor : Int) + d))

def execCinc (t : Tandem) (cd cs : CReg) (gs : Reg) (s : State) : Out :=
  .next (deriveG t cd cs gs (fun c g => pure (addCursor c g.toInt)) s)

def execCinci (t : Tandem) (cd cs : CReg) (imm : BitVec 17) (s : State) : Out :=
  .next (plainWord t (do
    let c ← derive t cs
    putC t cd (addCursor c imm.toInt)) s)

def execCsetcur (t : Tandem) (cd cs : CReg) (gs : Reg) (s : State) : Out :=
  .next (deriveG t cd cs gs (fun c g => pure (c.setCursor g.toNat)) s)

/-- KNARROW of a length (R236, R237, Table 5-7): `exact` is KNARROW.X. -/
def narrow (exact : Bool) (c : Cap) (len : Nat) : Cm Cap :=
  let b := c.cursor
  let tp := b + len
  if 2 ^ 44 < tp then raise 1 dMONO
  else
    let e := fitExp b tp
    let base := b / 2 ^ e * 2 ^ e
    let l := ceilDiv tp (2 ^ e) - b / 2 ^ e
    if exact && (base != b || base + l * 2 ^ e != tp) then raise 1 dINEXACT
    else if ¬ (c.base ≤ base ∧ base + l * 2 ^ e ≤ c.top) then raise 1 dMONO
    else pure (c.setBounds e l base)

def execKnarrow (t : Tandem) (cd cs : CReg) (gs : Reg) (s : State) : Out :=
  .next (deriveG t cd cs gs (fun c g => narrow false c g.toNat) s)

def execKnarrowX (t : Tandem) (cd cs : CReg) (gs : Reg) (s : State) : Out :=
  .next (deriveG t cd cs gs (fun c g => narrow true c g.toNat) s)

/-- KNARROWI: IMM17 zero-extended (R296). -/
def execKnarrowi (t : Tandem) (cd cs : CReg) (imm : BitVec 17) (s : State) : Out :=
  .next (plainWord t (do
    let c ← derive t cs
    let r ← narrow false c imm.toNat
    putC t cd r) s)

def execCandperm (t : Tandem) (cd cs : CReg) (gs : Reg) (s : State) : Out :=
  .next (deriveG t cd cs gs (fun c g => pure (c.setPerms (c.perms &&& g.toNat % 1024))) s)

def execCsetring (t : Tandem) (cd cs : CReg) (gs : Reg) (s : State) : Out :=
  .next (deriveG t cd cs gs (fun c g => if g.toNat % 4 < c.ring then raise 1 dMONO else pure (c.setRing (g.toNat % 4))) s)

def execKtether (t : Tandem) (cd cs : CReg) (s : State) : Out :=
  .next (plainWord t (do
    let c ← derive t cs
    putC t cd c.setTether) s)

/-- The conditions of R232 on an authority that carries permission `p`. -/
def authOk (ca : Cap) (ring p : Nat) : Bool :=
  ca.st == .valid && !ca.sealed && ca.has p && decide (ring ≤ ca.ring) &&
    decide (ca.base ≤ ca.cursor ∧ ca.cursor < ca.top ∧ ca.cursor < 64)

/-- The protected object types (R233). -/
def protectedType (n : Nat) : Bool := decide (0x38 ≤ n)

/-- CSEAL: the checks of R962 in order. -/
def execCseal (t : Tandem) (cd cs ca : CReg) (s : State) : Out :=
  .next (plainWord t (do
    let c ← derive t cs
    let a ← rawC t ca
    let ring := ((← get).cpu t).ring
    if a.st = .unwritten then raiseSrc 0 dUNWRITTEN 1 ca.val
    else if !authOk a ring pSEAL then raise 1 dTYPE
    else if protectedType a.cursor && ring != 0 then raise 1 dWICKET
    else putC t cd (c.sealWith a.cursor)) s)

/-- CUNSEAL: the checks of R962 in order. -/
def execCunseal (t : Tandem) (cd cs ca : CReg) (s : State) : Out :=
  .next (plainWord t (do
    let c ← rawC t cs
    let a ← rawC t ca
    let ring := ((← get).cpu t).ring
    if c.st = .unwritten then raiseSrc 0 dUNWRITTEN 1 cs.val
    else if c.st ≠ .valid then raiseSrc 1 dINVALID 1 cs.val
    else if !c.sealed then raise 1 dTYPE
    else if protectedType c.otype then raise 1 dWICKET
    else if a.st = .unwritten then raiseSrc 0 dUNWRITTEN 1 ca.val
    else if !(authOk a ring pUNSEAL && a.cursor == c.otype) then raise 1 dTYPE
    else putC t cd c.unseal) s)

/-- The bounds lie wholly within a window of 4 KiB pages (R239, R252). [log 29 DEDUCED] -/
def inWindow (w : W64) (c : Cap) : Bool :=
  decide (wf w 0 32 * 4096 ≤ c.base ∧ c.top ≤ wf w 32 32 * 4096)

/-- A code capability (R239). -/
def isCode (c : Cap) : Bool := c.has pEX && c.perms &&& (pST + pSTC + pTTH + pSEAL + pUNSEAL) == 0

/-- CDUR: the source, then SYS and ring 0 (order 6 of Table 6-11), then the windows (R239). -/
def execCdur (t : Tandem) (cd cs : CReg) (s : State) : Out :=
  .next (plainWord t (do
    let c ← derive t cs
    let cpu := (← get).cpu t
    let fits := !t.isG && (inWindow cpu.dwinP c || (isCode c && inWindow cpu.dwinX c))
    needSys0 t
    if !fits then raise 1 dDUR else putC t cd (c.setPerms (c.perms ||| pDUR))) s)

/-- A getter: cs not UNWRITTEN (Table 5-7). -/
def getter (t : Tandem) (gd : Reg) (cs : CReg) (f : Cap → Nat) (s : State) : State :=
  plainWord t (do
    let c ← rawC t cs
    if c.st = .unwritten then raiseSrc 0 dUNWRITTEN 1 cs.val
    else putInt t gd (w64 (f c))) s

def execCgetbase (t : Tandem) (gd : Reg) (cs : CReg) (s : State) : Out := .next (getter t gd cs Cap.base s)
def execCgetlen (t : Tandem) (gd : Reg) (cs : CReg) (s : State) : Out := .next (getter t gd cs Cap.len s)
def execCgettop (t : Tandem) (gd : Reg) (cs : CReg) (s : State) : Out := .next (getter t gd cs Cap.top s)
def execCgetperm (t : Tandem) (gd : Reg) (cs : CReg) (s : State) : Out := .next (getter t gd cs Cap.perms s)
def execCgettype (t : Tandem) (gd : Reg) (cs : CReg) (s : State) : Out := .next (getter t gd cs Cap.otype s)
def execCgetcur (t : Tandem) (gd : Reg) (cs : CReg) (s : State) : Out := .next (getter t gd cs Cap.cursor s)

/-- The state codes of Table 5-6. -/
def capCode : CapState → Nat
  | .valid => 0 | .unwritten => 1 | .notcap => 2 | .poison => 3 | .malformed => 4 | .null => 5

/-- CGETSTATE never faults (R226). -/
def execCgetstate (t : Tandem) (gd : Reg) (cs : CReg) (s : State) : Out :=
  .next (plainWord t (do
    let c ← rawC t cs
    putInt t gd (w64 (capCode c.st))) s)

/-- CSUBSET: both VALID and unsealed (R235, Table 5-7). -/
def execCsubset (t : Tandem) (gd : Reg) (ca cb : CReg) (s : State) : Out :=
  .next (plainWord t (do
    let a ← derive t ca
    let b ← derive t cb
    putInt t gd (w64 (b2n (decide (a.base ≤ b.base ∧ b.top ≤ a.top) && a.has b.perms)))) s)

/-- KFITLEN and KFITMASK: E of R236 for b = 0 and t = gs, taken unsigned (Table 5-7). -/
def fitG (t : Tandem) (gd gs : Reg) (f : Nat → Nat → W64) (s : State) : State :=
  plainWord t (do
    let g ← srcG t gs
    let n := g.toNat
    if 2 ^ 44 < n then raise 1 dMONO
    else putInt t gd (f (fitExp 0 n) n)) s

def execKfitlen (t : Tandem) (gd gs : Reg) (s : State) : Out :=
  .next (fitG t gd gs (fun e n => w64 (ceilDiv n (2 ^ e) * 2 ^ e)) s)

def execKfitmask (t : Tandem) (gd gs : Reg) (s : State) : Out :=
  .next (fitG t gd gs (fun e _ => w64 (2 ^ 64 - 2 ^ e)) s)

end Sys2Proof.Machine
end

