-- ==== Sys2Proof/Machine/Emu.lean ====
section
/-! DEFINITION. The emulation trap of reserved encodings (R304). -/

namespace Sys2Proof.Machine

/-- The trap of a reserved word, as part of a word's meaning. [log 33 DEDUCED, 34 DEDUCED] -/
def emulate {α : Type} (t : Tandem) (w : Nat) : Cm α :=
  match reservedKind t w with
  | some (k, h) => emuTrap t w k h
  | none => emuTrap t w 0 false

/-- EMULATION_TRAP: a reserved encoding would execute (R304). A word that is no reserved encoding raises nothing. -/
def execEmulationTrap (t : Tandem) (word : BitVec 32) (s : State) : Out :=
  .next (match reservedKind t word.toNat with
    | some _ =>
      let m := fld word.toNat 25 6
      runWord t (if bitOf word.toNat 31 then .plain else if 0x20 ≤ m && m ≤ 0x25 then .cti none else if m = 0x26 then .ring else .plain) false (emulate t word.toNat) s
    | none => s)

end Sys2Proof.Machine
end

