-- ==== Sys2Proof/Machine/Flags.lean ====
section
/-! DEFINITION. Floating-point values, their rounding, and the exception flags of FCSR (R347, R348, Table 7-4): IEEE 754-2019
binary64 and binary32, computed exactly and rounded once. -/

namespace Sys2Proof.Machine

/-- A format: exponent bits and fraction bits. -/
structure FFmt where
  eb : Nat
  mb : Nat
  deriving DecidableEq, Repr

def fmtOf : FPrec → FFmt
  | .f64 => ⟨11, 52⟩
  | .f32 => ⟨8, 23⟩

def FFmt.bias (f : FFmt) : Int := 2 ^ (f.eb - 1) - 1

/-- What an operand is: a NaN (signalling or not), an infinity, or the finite value (-1)^neg × m × 2^e. -/
inductive FVal where
  | nan (sig : Bool)
  | inf (neg : Bool)
  | fin (neg : Bool) (m : Nat) (e : Int)
  deriving DecidableEq, Repr

/-- The value that bits of a format spell. -/
def fdecode (f : FFmt) (v : Nat) : FVal :=
  let neg := bitOf v (f.eb + f.mb)
  let ex := fld v f.mb f.eb
  let mt := fld v 0 f.mb
  if ex = 2 ^ f.eb - 1 then (if mt = 0 then .inf neg else .nan (!bitOf v (f.mb - 1)))
  else if ex = 0 then .fin neg mt (1 - f.bias - f.mb)
  else .fin neg (mt + 2 ^ f.mb) (ex - f.bias - f.mb)

/-- The flags of FCSR [4:0]. -/
def fNV : Nat := 16
def fDZ : Nat := 8
def fOF : Nat := 4
def fUF : Nat := 2
def fNX : Nat := 1

def signBit (f : FFmt) (neg : Bool) : Nat := b2n neg * 2 ^ (f.eb + f.mb)

/-- The canonical quiet NaN (R348). -/
def fNan (f : FFmt) : Nat := (2 ^ f.eb - 1) * 2 ^ f.mb + 2 ^ (f.mb - 1)

def fInf (f : FFmt) (neg : Bool) : Nat := signBit f neg + (2 ^ f.eb - 1) * 2 ^ f.mb

/-- The largest finite value. -/
def fMax (f : FFmt) (neg : Bool) : Nat := signBit f neg + (2 ^ f.eb - 1) * 2 ^ f.mb - 1

/-- Rounding modes that round: RM 0 to 4 (R348). -/
inductive RMode where
  | rne | rtz | rdn | rup | rmm
  deriving DecidableEq, Repr

/-- Whether a magnitude `q` + rem / 2^sh rounds up to `q` + 1; `half` compares the remainder with a half. -/
def roundsUp (rm : RMode) (neg : Bool) (q rem half : Nat) : Bool :=
  match rm with
  | .rne => decide (half < rem ∨ (rem = half ∧ q % 2 = 1))
  | .rtz => false
  | .rdn => neg && decide (rem ≠ 0)
  | .rup => !neg && decide (rem ≠ 0)
  | .rmm => decide (half ≤ rem ∧ rem ≠ 0)

/-- The magnitude m × 2^e rounded to a multiple of 2^q: the multiple, and whether it is inexact. -/
def roundAt (rm : RMode) (neg : Bool) (m : Nat) (e q : Int) : Nat × Bool :=
  if q ≤ e then (m * 2 ^ (e - q).toNat, false)
  else
    let sh := (q - e).toNat
    let rem := m % 2 ^ sh
    let lo := m / 2 ^ sh
    (if roundsUp rm neg lo rem (2 ^ (sh - 1)) then lo + 1 else lo, decide (rem ≠ 0))

/-- (-1)^neg × m × 2^e rounded to a format: bits and flags. [log 30 DESIGN CHOICE] -/
def fround (f : FFmt) (rm : RMode) (neg : Bool) (m : Nat) (e : Int) : Nat × Nat :=
  if m = 0 then (signBit f neg, 0)
  else
    let top : Int := e + Nat.log2 m
    let emin : Int := 1 - f.bias
    let q : Int := (if top < emin then emin else top) - f.mb
    let (n, nx) := roundAt rm neg m e q
    let tinyB := decide (top < emin)
    -- tiny after rounding with an unbounded exponent
    let tinyA := tinyB && decide ((roundAt rm neg m e (top - f.mb)).1 < 2 ^ (f.mb + 1) ∨ top + 1 < emin)
    let tiny := if Config.tinyAfter then tinyA else tinyB
    -- n × 2^q with 0 ≤ n ≤ 2^(mb + 1)
    let (n, q) := if n = 2 ^ (f.mb + 1) then (2 ^ f.mb, q + 1) else (n, q)
    let ex : Int := if n < 2 ^ f.mb then 0 else q + f.mb + f.bias
    if (2 ^ f.eb - 1 : Int) ≤ ex then
      let toInf := match rm with
        | .rne | .rmm => true
        | .rtz => false
        | .rdn => neg
        | .rup => !neg
      (if toInf then fInf f neg else fMax f neg, fOF + fNX)
    else (signBit f neg + ex.toNat * 2 ^ f.mb + n % 2 ^ f.mb, if nx then fNX + (if tiny then fUF else 0) else 0)

/-- An exact integer multiple of 2^e, rounded; `zneg` is the sign of an exact zero. -/
def froundInt (f : FFmt) (rm : RMode) (x : Int) (e : Int) (zneg : Bool) : Nat × Nat :=
  if x = 0 then (signBit f zneg, 0) else fround f rm (decide (x < 0)) x.natAbs e

/-- A signed mantissa. -/
def smant (neg : Bool) (m : Nat) : Int := if neg then -(m : Int) else m

/-- The exact sum of two finite values: mantissa and exponent. -/
def addExact (a : Int) (ea : Int) (b : Int) (eb : Int) : Int × Int :=
  let e := if ea ≤ eb then ea else eb
  (a * 2 ^ (ea - e).toNat + b * 2 ^ (eb - e).toNat, e)

def FVal.isSig : FVal → Bool
  | .nan s => s | _ => false
def FVal.isNan : FVal → Bool
  | .nan _ => true | _ => false
def FVal.negate : FVal → FVal
  | .nan s => .nan s | .inf n => .inf !n | .fin n m e => .fin (!n) m e

def nvIf (b : Bool) : Nat := if b then fNV else 0

/-- The sign of an exact zero sum (IEEE 754-2019, 6.3). -/
def zeroSign (rm : RMode) (a b : Bool) : Bool := if a = b then a else rm == .rdn

def faddV (f : FFmt) (rm : RMode) (x y : FVal) : Nat × Nat :=
  match x, y with
  | .nan _, _ | _, .nan _ => (fNan f, nvIf (x.isSig || y.isSig))
  | .inf a, .inf b => if a = b then (fInf f a, 0) else (fNan f, fNV)
  | .inf a, _ => (fInf f a, 0)
  | _, .inf b => (fInf f b, 0)
  | .fin a m e, .fin b n g =>
    let (s, h) := addExact (smant a m) e (smant b n) g
    froundInt f rm s h (zeroSign rm a b)

def fmulV (f : FFmt) (rm : RMode) (x y : FVal) : Nat × Nat :=
  match x, y with
  | .nan _, _ | _, .nan _ => (fNan f, nvIf (x.isSig || y.isSig))
  | .inf a, .inf b => (fInf f (a != b), 0)
  | .inf a, .fin b n _ => if n = 0 then (fNan f, fNV) else (fInf f (a != b), 0)
  | .fin a m _, .inf b => if m = 0 then (fNan f, fNV) else (fInf f (a != b), 0)
  | .fin a m e, .fin b n g => fround f rm (a != b) (m * n) (e + g)

def fdivV (f : FFmt) (rm : RMode) (x y : FVal) : Nat × Nat :=
  match x, y with
  | .nan _, _ | _, .nan _ => (fNan f, nvIf (x.isSig || y.isSig))
  | .inf _, .inf _ => (fNan f, fNV)
  | .inf a, .fin b _ _ => (fInf f (a != b), 0)
  | .fin a _ _, .inf b => (signBit f (a != b), 0)
  | .fin a m e, .fin b n g =>
    if n = 0 then (if m = 0 then (fNan f, fNV) else (fInf f (a != b), fDZ))
    else
      -- more quotient bits than any rounding needs, then a sticky bit
      let k : Nat := 130
      let q := m * 2 ^ k / n
      let st := if m * 2 ^ k % n = 0 then 0 else 1
      fround f rm (a != b) (2 * q + st) (e - g - k - 1)

/-- The integer square root, by bits from the highest. -/
def isqrtFrom (n : Nat) : Nat → Nat → Nat
  | 0, r => r
  | b + 1, r => if (r + 2 ^ b) * (r + 2 ^ b) ≤ n then isqrtFrom n b (r + 2 ^ b) else isqrtFrom n b r

def fsqrtV (f : FFmt) (rm : RMode) (x : FVal) : Nat × Nat :=
  match x with
  | .nan s => (fNan f, nvIf s)
  | .inf neg => if neg then (fNan f, fNV) else (fInf f false, 0)
  | .fin neg m e =>
    if m = 0 then (signBit f neg, 0)
    else if neg then (fNan f, fNV)
    else
      let odd := decide (e % 2 ≠ 0)
      let m1 := if odd then 2 * m else m
      let e1 := if odd then e - 1 else e
      let n := m1 * 2 ^ 140
      let r := isqrtFrom n 100 0
      let st := if r * r = n then 0 else 1
      fround f rm false (2 * r + st) ((e1 - 140) / 2 - 1)

/-- x × y + z rounded once. [log 30 DESIGN CHOICE] -/
def ffmaV (f : FFmt) (rm : RMode) (x y z : FVal) : Nat × Nat :=
  let sig := x.isSig || y.isSig || z.isSig
  let zeroInf := match x, y with
    | .inf _, .fin _ n _ => decide (n = 0)
    | .fin _ m _, .inf _ => decide (m = 0)
    | _, _ => false
  if x.isNan || y.isNan then (fNan f, nvIf sig)
  else if z.isNan then (fNan f, nvIf (sig || (zeroInf && Config.fmaNanInvalid)))
  else if zeroInf then (fNan f, fNV)
  else
    match x, y, z with
    | .fin a m e, .fin b n g, .fin c k h =>
      let (s, q) := addExact (smant (a != b) (m * n)) (e + g) (smant c k) h
      froundInt f rm s q (zeroSign rm (a != b) c)
    | .fin _ _ _, .fin _ _ _, .inf c => (fInf f c, 0)
    | _, _, _ =>
      let neg := match x, y with
        | .inf a, .inf b => a != b
        | .inf a, .fin b _ _ => a != b
        | .fin a _ _, .inf b => a != b
        | _, _ => false
      match z with
      | .inf c => if c = neg then (fInf f neg, 0) else (fNan f, fNV)
      | _ => (fInf f neg, 0)

/-- x < y for values that are not NaN. -/
def fltV (x y : FVal) : Bool :=
  match x, y with
  | .inf a, .inf b => a && !b
  | .inf a, .fin _ _ _ => a
  | .fin _ _ _, .inf b => !b
  | .fin a m e, .fin b n g =>
    let (s, _) := addExact (smant a m) e (-(smant b n)) g
    decide (s < 0)
  | _, _ => false

/-- x = y for values that are not NaN. -/
def feqV (x y : FVal) : Bool :=
  match x, y with
  | .inf a, .inf b => a == b
  | .fin a m e, .fin b n g => (addExact (smant a m) e (-(smant b n)) g).1 == 0
  | _, _ => false

def FVal.isNeg : FVal → Bool
  | .inf n => n | .fin n _ _ => n | .nan _ => false

/-- minimumNumber, or maximumNumber: -0 is less than +0 (IEEE 754-2019, 9.6). [log 32 DEDUCED] -/
def fminmaxV (f : FFmt) (mx : Bool) (vx vy : Nat) : Nat × Nat :=
  let x := fdecode f vx
  let y := fdecode f vy
  let nv := nvIf (x.isSig || y.isSig)
  if x.isNan && y.isNan then (fNan f, nv)
  else if x.isNan then (vy, nv)
  else if y.isNan then (vx, nv)
  else
    let less := fltV x y || (feqV x y && x.isNeg && !y.isNeg)
    (if less != mx then vx else vy, nv)

/-- A value rounded to a signed 64-bit integer (R348): saturated with NV out of range, 0 with NV for a NaN. [log 50 DEDUCED] -/
def ftointV (rm : RMode) (x : FVal) : Int × Nat :=
  match x with
  | .nan _ => (0, fNV)
  | .inf neg => (if neg then -(2 ^ 63) else 2 ^ 63 - 1, fNV)
  | .fin neg m e =>
    let (n, nx) := roundAt rm neg m e 0
    let v := smant neg n
    if v < -(2 ^ 63) then (-(2 ^ 63), fNV)
    else if 2 ^ 63 - 1 < v then (2 ^ 63 - 1, fNV)
    else (v, if nx then fNX else 0)

/-- A value of one format in another (FCVTP). [log 50 DEDUCED] -/
def fcvtV (f : FFmt) (rm : RMode) (x : FVal) : Nat × Nat :=
  match x with
  | .nan s => (fNan f, nvIf s)
  | .inf neg => (fInf f neg, 0)
  | .fin neg m e => fround f rm neg m e

/-- FCLASS: one bit among [9:0], in the order of Table 7-4 from bit 0. [log 31 DEDUCED] -/
def fclassV (f : FFmt) (v : Nat) : Nat :=
  match fdecode f v with
  | .inf n => if n then 0 else 7
  | .nan s => if s then 8 else 9
  | .fin n m _ =>
    let sub := decide (fld v f.mb f.eb = 0)
    if m = 0 then (if n then 3 else 4) else if sub then (if n then 2 else 5) else (if n then 1 else 6)

end Sys2Proof.Machine
end

