-- ==== Sys2Proof/Machine/Fp.lean ====
section
/-! DEFINITION. The floating-point instructions of main tandems (R284, R292, R347 to R349, R487 to R490). -/

namespace Sys2Proof.Machine

/-- Floating point is available in the current locker: OFF raises FP_UNAVAIL, DEFERRED makes the swap of R490 first. -/
def fpAvail (m : Side) : Cm Unit := do
  let s ← get
  let c := s.cpu m.tandem
  let l := (s.sch m).getLk c.cur.val
  match l.fpst with
  | .live => pure ()
  | .off => raise 7 0x60
  | .deferred =>
    match l.occ with
    | some k => set (s.fpSwap m k)
    | none => pure ()

/-- A move, load or store of an f register: floating point available, then the body. -/
def fpMove (m : Side) (body : Cm Ret) (s : State) : State :=
  runWord m.tandem .plain false (do
    fpAvail m
    body) s

/-- MOVFG carries FLT, UNWRITTEN or POISON (R219). -/
def execMovfg (m : Side) (gd : Reg) (fs : FReg) (s : State) : Out :=
  .next (fpMove m (do
    let s ← get
    putG m.tandem gd ((s.cpu m.tandem).lk.getF fs)
    pure .next) s)

/-- MOVGF: FLT for a data tag; UNWRITTEN and POISON unchanged (R284). -/
def execMovgf (m : Side) (fd : FReg) (gs : Reg) (s : State) : Out :=
  .next (fpMove m (do
    let v ← rawG m.tandem gs
    putF m.tandem fd (if isDataTag v.tag then ⟨.flt, v.bits⟩ else v)
    pure .next) s)

/-- FLD (R292, R219). -/
def execFld (m : Side) (fd : FReg) (cs : CReg) (off : BitVec 13) (s : State) : Out :=
  .next (fpMove m (do
    let ea ← access m.tandem cs ⟨pLD, false, 8, 1⟩ off.toInt
    doLoad m.tandem .load .fp ea 8 (.f fd)) s)

/-- FST (R292, R219, R289). -/
def execFst (m : Side) (fs : FReg) (cs : CReg) (off : BitVec 13) (s : State) : Out :=
  .next (fpMove m (do
    let v := ((← get).cpu m.tandem).lk.getF fs
    let raw ← rawC m.tandem cs
    storeSource 8 ((raw.cursor : Int) + off.toInt) v 2 fs.val
    let ea ← access m.tandem cs ⟨pST, false, 8, 1⟩ off.toInt
    dataStore m.tandem .fp ea 8 v 2 fs.val
    pure .next) s)

/-- The bits of an f source of precision `p`: binary32 reads bits [31:0] (R347). -/
def fbits (p : FPrec) (v : W64) : Nat := match p with
  | .f64 => v.toNat
  | .f32 => v.toNat % 2 ^ 32

/-- FCSR, which every instruction of major 0x34 reads (R349). -/
def fcsrNow (m : Side) : Cm W64 := do
  let q := ((← get).cpu m.tandem).lk.fcsr
  if q.tag = .unwritten then raise 0 dUNWRITTEN else pure q.bits

/-- The rounding mode of an RM code (R348). -/
def rmode (rm : RM) (fcsr : W64) : RMode :=
  match rm with
  | .rne => .rne | .rtz => .rtz | .rdn => .rdn | .rup => .rup | .rmm => .rmm
  | .dyn => match wf fcsr 5 3 with
    | 1 => .rtz | 2 => .rdn | 3 => .rup | 4 => .rmm | _ => .rne

/-- Set sticky flags (R348). -/
def setFlags (m : Side) (fl : Nat) : Cm Unit :=
  modLk m.tandem fun l => { l with fcsr := if fl = 0 then l.fcsr else .int (l.fcsr.bits ||| w64 fl) }

/-- An instruction of major 0x34 with an f result: availability, sources, FCSR, result and flags (R349). [log 28 DEDUCED] -/
def fpWord (m : Side) (long : Bool) (fd : FReg) (srcs : List FReg) (f : W64 → List W64 → Nat × Nat) (s : State) : State :=
  runWord m.tandem (if long then .long else .plain) false (do
    fpAvail m
    let vs ← srcs.mapM (srcF m)
    let q ← fcsrNow m
    let (v, fl) := f q vs
    modify fun s => s.event m.tandem 0x0D (b2n long)
    putF m.tandem fd ⟨.flt, w64 v⟩
    setFlags m fl
    pure .next) s

/-- As `fpWord`, with a g result tagged INT. -/
def fpCmp (m : Side) (gd : Reg) (srcs : List FReg) (f : List W64 → Nat × Nat) (s : State) : State :=
  runWord m.tandem .plain false (do
    fpAvail m
    let vs ← srcs.mapM (srcF m)
    let _ ← fcsrNow m
    let (v, fl) := f vs
    putInt m.tandem gd (w64 v)
    setFlags m fl
    pure .next) s

/-- The value of source `i`. -/
def fval (p : FPrec) (vs : List W64) (i : Nat) : FVal := fdecode (fmtOf p) (fbits p (vs.getD i 0))

def execFadd (m : Side) (p : FPrec) (rm : RM) (fd fs1 fs2 : FReg) (s : State) : Out :=
  .next (fpWord m false fd [fs1, fs2] (fun q v => faddV (fmtOf p) (rmode rm q) (fval p v 0) (fval p v 1)) s)
def execFsub (m : Side) (p : FPrec) (rm : RM) (fd fs1 fs2 : FReg) (s : State) : Out :=
  .next (fpWord m false fd [fs1, fs2] (fun q v => faddV (fmtOf p) (rmode rm q) (fval p v 0) (fval p v 1).negate) s)
def execFmul (m : Side) (p : FPrec) (rm : RM) (fd fs1 fs2 : FReg) (s : State) : Out :=
  .next (fpWord m false fd [fs1, fs2] (fun q v => fmulV (fmtOf p) (rmode rm q) (fval p v 0) (fval p v 1)) s)
def execFdiv (m : Side) (p : FPrec) (rm : RM) (fd fs1 fs2 : FReg) (s : State) : Out :=
  .next (fpWord m true fd [fs1, fs2] (fun q v => fdivV (fmtOf p) (rmode rm q) (fval p v 0) (fval p v 1)) s)
def execFsqrt (m : Side) (p : FPrec) (rm : RM) (fd fs : FReg) (s : State) : Out :=
  .next (fpWord m true fd [fs] (fun q v => fsqrtV (fmtOf p) (rmode rm q) (fval p v 0)) s)

/-- fs1 × fs2 + fs3 (Table 7-4). -/
def execFmadd (m : Side) (p : FPrec) (rm : RM) (fd fs1 fs2 fs3 : FReg) (s : State) : Out :=
  .next (fpWord m false fd [fs1, fs2, fs3]
    (fun q v => ffmaV (fmtOf p) (rmode rm q) (fval p v 0) (fval p v 1) (fval p v 2)) s)
/-- fs1 × fs2 − fs3. -/
def execFmsub (m : Side) (p : FPrec) (rm : RM) (fd fs1 fs2 fs3 : FReg) (s : State) : Out :=
  .next (fpWord m false fd [fs1, fs2, fs3]
    (fun q v => ffmaV (fmtOf p) (rmode rm q) (fval p v 0) (fval p v 1) (fval p v 2).negate) s)
/-- −(fs1 × fs2) + fs3. -/
def execFnmadd (m : Side) (p : FPrec) (rm : RM) (fd fs1 fs2 fs3 : FReg) (s : State) : Out :=
  .next (fpWord m false fd [fs1, fs2, fs3]
    (fun q v => ffmaV (fmtOf p) (rmode rm q) (fval p v 0).negate (fval p v 1) (fval p v 2)) s)

def execFmin (m : Side) (p : FPrec) (fd fs1 fs2 : FReg) (s : State) : Out :=
  .next (fpWord m false fd [fs1, fs2] (fun _ v => fminmaxV (fmtOf p) false (fbits p (v.getD 0 0)) (fbits p (v.getD 1 0))) s)
def execFmax (m : Side) (p : FPrec) (fd fs1 fs2 : FReg) (s : State) : Out :=
  .next (fpWord m false fd [fs1, fs2] (fun _ v => fminmaxV (fmtOf p) true (fbits p (v.getD 0 0)) (fbits p (v.getD 1 0))) s)

/-- The sign replaced; every NaN result is the canonical NaN (R348); no flag is raised. [log 31 DEDUCED] -/
def fsignV (f : FFmt) (v : Nat) (neg : Bool) : Nat :=
  if (fdecode f v).isNan then fNan f else signBit f neg + v % 2 ^ (f.eb + f.mb)

def execFabs (m : Side) (p : FPrec) (fd fs : FReg) (s : State) : Out :=
  .next (fpWord m false fd [fs] (fun _ v => (fsignV (fmtOf p) (fbits p (v.getD 0 0)) false, 0)) s)
def execFneg (m : Side) (p : FPrec) (fd fs : FReg) (s : State) : Out :=
  .next (fpWord m false fd [fs]
    (fun _ v => (fsignV (fmtOf p) (fbits p (v.getD 0 0)) (!bitOf (fbits p (v.getD 0 0)) ((fmtOf p).eb + (fmtOf p).mb)), 0)) s)

/-- FCVTP: P = 0 from binary32 to binary64, P = 1 from binary64 to binary32 (Table 7-4). -/
def execFcvtp (m : Side) (p : FPrec) (rm : RM) (fd fs : FReg) (s : State) : Out :=
  .next (fpWord m false fd [fs] (fun q v => match p with
    | .f64 => fcvtV (fmtOf .f64) (rmode rm q) (fval .f32 v 0)
    | .f32 => fcvtV (fmtOf .f32) (rmode rm q) (fval .f64 v 0)) s)

/-- FCVTFI: the 64 bits as a signed integer, converted to precision P. -/
def execFcvtfi (m : Side) (p : FPrec) (rm : RM) (fd fs : FReg) (s : State) : Out :=
  .next (fpWord m false fd [fs] (fun q v => froundInt (fmtOf p) (rmode rm q) (v.getD 0 0).toInt 0 false) s)

/-- FCVTIF: to a signed 64-bit integer, held in fd. -/
def execFcvtif (m : Side) (p : FPrec) (rm : RM) (fd fs : FReg) (s : State) : Out :=
  .next (fpWord m false fd [fs] (fun q v =>
    let r := ftointV (rmode rm q) (fval p v 0)
    (wrap 64 r.1, r.2)) s)

/-- FEQ is quiet: only a signalling NaN sets NV. -/
def execFeq (m : Side) (p : FPrec) (gd : Reg) (fs1 fs2 : FReg) (s : State) : Out :=
  .next (fpCmp m gd [fs1, fs2] (fun v =>
    let x := fval p v 0
    let y := fval p v 1
    (b2n (feqV x y), nvIf (x.isSig || y.isSig))) s)

/-- FLT and FLE signal NV on any NaN. -/
def execFlt (m : Side) (p : FPrec) (gd : Reg) (fs1 fs2 : FReg) (s : State) : Out :=
  .next (fpCmp m gd [fs1, fs2] (fun v =>
    let x := fval p v 0
    let y := fval p v 1
    (b2n (fltV x y), nvIf (x.isNan || y.isNan))) s)

def execFle (m : Side) (p : FPrec) (gd : Reg) (fs1 fs2 : FReg) (s : State) : Out :=
  .next (fpCmp m gd [fs1, fs2] (fun v =>
    let x := fval p v 0
    let y := fval p v 1
    (b2n (fltV x y || feqV x y), nvIf (x.isNan || y.isNan))) s)

def execFclass (m : Side) (p : FPrec) (gd : Reg) (fs : FReg) (s : State) : Out :=
  .next (fpCmp m gd [fs] (fun v => (2 ^ fclassV (fmtOf p) (fbits p (v.getD 0 0)), 0)) s)

end Sys2Proof.Machine
end

