-- ==== Sys2Proof/Machine/Regs.lean ====
section
/-! DEFINITION. Register accesses as commands: a write or a read of a register by a tandem, past the checks of its own load or
store (R9 to R13), the commands that stand for such a write, and the flash command that ends without a data strobe (R589). -/

namespace Sys2Proof.Machine

/-- An access at an offset reaches a register: 4-byte alignment, and no half of a 64-bit register (R290). [log 15 DESIGN
CHOICE] -/
def regAligned (b : Fin 17) (off : Nat) : Bool := off % 4 == 0 && (off % 8 == 0 || !devWide b (off / 8 * 8))

/-- A register access that a unit reset or an older stalled store keeps waiting (R186, R190): a write joins the store buffer,
whose room it needs, and a read keeps its tandem waiting. [log 16 DEDUCED] -/
def State.accessWaits (s : State) (who : Tandem) (b : Fin 17) (off : Nat) (val : Option Nat) : State :=
  let c := s.cpu who
  if !regAligned b off then s
  else match val with
  | some v =>
    if c.sb.length < sbCap who then
      let e : SbEnt := ⟨devBase + 0x10000 * b.val + off, bytesOf (if devWide b off then 8 else 4) v, .dev⟩
      s.setCpu who { c with sb := c.sb ++ [e] }
    else s
  | none => if c.wait == .none then s.setCpu who { c with wait := .read b off } else s

/-- A register access of an initiator that executes and reaches the block: its older buffered stores come first (Table
12-3), and a unit reset of the block that CLK_URST started ends before it (R190). It does `f`; one that must wait is a write
of `val` at the offset, or a read. [log 16 DEDUCED] -/
def State.access (s : State) (who : Tandem) (b : Fin 17) (off : Nat) (val : Option Nat) (f : State → State) : State :=
  if s.acc who b then
    let s := (blkUnits b).foldl State.urstEnd (s.drainAll who)
    if !s.acc who b then s
    else if (s.cpu who).sb.isEmpty && !s.unitGated b then f s
    else s.accessWaits who b off val
  else s

/-- A write of a register by an initiator: 64 bits where the register is so wide, else bits [31:0] (R290). [log 15 DESIGN
CHOICE] -/
def State.regWrite (s : State) (who : Tandem) (b : Fin 17) (off v : Nat) : State :=
  s.access who b off (some v) fun s =>
    if regAligned b off then devWrite s who b off (if devWide b off then v else v % 2 ^ 32) else s

/-- The read itself: the value goes to the model's output. [log 7 DESIGN CHOICE] -/
def State.regValue (s : State) (who : Tandem) (b : Fin 17) (off : Nat) : State :=
  let (v, s') := devRead s who b off
  { s' with rdata := w64 v }

/-- A read of a register by an initiator. [log 7 DESIGN CHOICE, 15 DESIGN CHOICE] -/
def State.regRead (s : State) (who : Tandem) (b : Fin 17) (off : Nat) : State :=
  s.access who b off none fun s => if regAligned b off then s.regValue who b off else s

/-- A read that waited takes place once its block can be reached. [log 16 DEDUCED] -/
def State.readResume (s : State) (who : Tandem) (b : Fin 17) (off : Nat) : State :=
  (s.modCpu who fun c => { c with wait := .none }).regRead who b off

/-- REGISTER_WRITE (R9, R11, R12). -/
def execRegisterWrite (who : Tandem) (blk : Fin 17) (off : BitVec 16) (val : W64) (s : State) : Out :=
  .next (s.regWrite who blk off.toNat val.toNat)

/-- REGISTER_READ_CLEAR (R9, R13). -/
def execRegisterReadClear (who : Tandem) (blk : Fin 17) (off : BitVec 16) (s : State) : Out :=
  .next (s.regRead who blk off.toNat)

/-! xSPI. -/

def execXspCommand (who : Tandem) (val : BitVec 32) (s : State) : Out := .next (s.regWrite who blkXSP 0x18 val.toNat)

/-- The port where a window miss of word `w` can end without a data strobe: one in 8D-8D-8D that serves it now, not one busy
with an earlier command (R577, R586, R589). -/
def State.strobePort (s : State) (t : Tandem) (r : Region) (turn : Bool) (w : Nat) : Bool :=
  match s.windowMiss t r w with
  | some q => (s.xsp.port q).mode == 2 && !(s.xsp.port q).winoff && (turn || !(s.xsp.busy && cmdPort s.xsp.run.toNat == q))
  | none => false

/-- A load's window miss at `va` ends without a data strobe (R589). Any other access is none. [log 89 DEDUCED] -/
def strobeMiss (t : Tandem) (va : Nat) : Cm Ret := do
  let (ph, r) ← translate t .load .none ((← get).cpu t).ring va 1
  if (← get).strobePort t r false (ph.lo / 8) then raiseAt 3 0x40 va else throw Exc.waits

/-- XSP_STROBE_TIMEOUT: the command under way ends with TIMEOUT, or the load that missed a window raises BUS_ERROR, one that
waited for its port too (R577, R589). [log 26 DEDUCED, 89 DEDUCED] -/
def execXspStrobeTimeout (miss : Option (Tandem × BitVec 44)) (s : State) : Out :=
  .next (
    match miss with
    | none => s.timeoutEnd
    | some (t, va) =>
      match (s.cpu t).wait with
      | .load q =>
        let live := (s.cpu t).run == .running && s.clk.crystal && q.va == va.toNat
        match s.regionOf t q.phys.lo q.phys.n with
        | some r =>
          if live && s.strobePort t r q.turn (q.phys.lo / 8) then
            takeFault t ⟨3, 0x40, 3, 0, false, q.va⟩ (s.modCpu t fun c => { c with wait := .none })
          else s
        | none => s
      | _ => runWord t .plain false (strobeMiss t va.toNat) s)

/-! The groomer. -/

def execGrmEvalWrite (who : Tandem) (val : BitVec 32) (s : State) : Out := .next (s.regWrite who blkGRM 0x48 val.toNat)
def execGrmDateWrite (who : Tandem) (val : W64) (s : State) : Out := .next (s.regWrite who blkGRM 0x28 val.toNat)
def execGrmFlashWrite (who : Tandem) (port : Side) (val : W64) (s : State) : Out :=
  .next (s.regWrite who blkGRM (0x38 + 8 * port.idx) val.toNat)

/-! The counter array. -/

/-- The offset of a channel's register. -/
def chanOff (n : Fin 32) (r : Nat) : Nat := 0x100 + 0x40 * n.val + r

def chanRegOff : ChanReg → Nat
  | .load => 0x0C | .reload => 0x10 | .cmp => 0x14

/-- The write reaches the array in this cycle: nothing older waits before it, and its channel takes it. -/
def State.writesNow (s : State) (w : ChanWrite) : Bool :=
  s.acc w.who blkCTA && (s.cpu w.who).sb.isEmpty && !s.unitGated blkCTA && !s.devBusy blkCTA && !s.chanHeld w.n.val

/-- COUNT_EVENT: one cycle of the array, with the write that it accepts in it (R687, R693, R718); a write that cannot reach it
yet follows the cycle. [log 93 DEDUCED] -/
def execCountEvent (cycle : CountCycle) (s : State) : Out :=
  .next (match cycle.write with
    | none => s.chanCycle (s.ownEvents cycle)
    | some w =>
      if s.writesNow w then s.chanCycleWith (s.ownEvents cycle) w
      else (s.chanCycle (s.ownEvents cycle)).regWrite w.who blkCTA (chanOff w.n (chanRegOff w.reg)) w.val.toNat)

def execChnCtlWrite (who : Tandem) (n : Fin 32) (val : BitVec 32) (s : State) : Out :=
  .next (s.regWrite who blkCTA (chanOff n 0x00) val.toNat)
def execChnLoad (who : Tandem) (n : Fin 32) (val : BitVec 32) (s : State) : Out :=
  .next (s.regWrite who blkCTA (chanOff n 0x0C) val.toNat)
def execChnReload (who : Tandem) (n : Fin 32) (val : BitVec 32) (s : State) : Out :=
  .next (s.regWrite who blkCTA (chanOff n 0x10) val.toNat)
def execChnCmp (who : Tandem) (n : Fin 32) (val : BitVec 32) (s : State) : Out :=
  .next (s.regWrite who blkCTA (chanOff n 0x14) val.toNat)
def execChnCntRead (who : Tandem) (n : Fin 32) (s : State) : Out := .next (s.regRead who blkCTA (chanOff n 0x08))
def execCtaGstart (who : Tandem) (chs : BitVec 32) (s : State) : Out := .next (s.regWrite who blkCTA 0x8 chs.toNat)
def execCtaGstop (who : Tandem) (chs : BitVec 32) (s : State) : Out := .next (s.regWrite who blkCTA 0xC chs.toNat)
def execCtaSnap (who : Tandem) (chs : BitVec 32) (s : State) : Out := .next (s.regWrite who blkCTA 0x10 chs.toNat)

/-! Panel I/O. -/

/-- The offset of a bank's register. -/
def pioBankOff (k : Fin 16) (r : Nat) : Nat := 0x100 + 0x40 * k.val + r

def execPioOutWrite (who : Tandem) (bank : Fin 16) (val : BitVec 32) (s : State) : Out :=
  .next (s.regWrite who blkPIO (pioBankOff bank 0x08) val.toNat)
def execPioSet (who : Tandem) (bank : Fin 16) (val : BitVec 32) (s : State) : Out :=
  .next (s.regWrite who blkPIO (pioBankOff bank 0x0C) val.toNat)
def execPioClr (who : Tandem) (bank : Fin 16) (val : BitVec 32) (s : State) : Out :=
  .next (s.regWrite who blkPIO (pioBankOff bank 0x10) val.toNat)
def execPioBcfgWrite (who : Tandem) (val : BitVec 32) (s : State) : Out := .next (s.regWrite who blkPIO 0x8 val.toNat)
def execPioScfgWrite (who : Tandem) (val : W64) (s : State) : Out := .next (s.regWrite who blkPIO 0x2000 val.toNat)
def execPioSfifoRead (who : Tandem) (s : State) : Out := .next (s.regRead who blkPIO 0x2010)
def execPwmWrite (who : Tandem) (gen : Fin 64) (val : W64) (s : State) : Out :=
  .next (s.regWrite who blkPIO (0x3000 + 8 * gen.val) val.toNat)

/-! USB. -/

def execUsbAttenWrite (who : Tandem) (val : BitVec 32) (s : State) : Out := .next (s.regWrite who blkUSB 0x8 val.toNat)
def execUsbEpgo (who : Tandem) (e : Fin 5) (val : BitVec 32) (s : State) : Out :=
  .next (s.regWrite who blkUSB (0x104 + 0x10 * e.val) val.toNat)

/-! The warden (chapter 2). -/
def execSwstop (who : Tandem) (s : State) : Out := .next (s.access who blkWRD 0x80 (some 0x100) fun s => s.safeWrite 0x100)
def execRearm (who : Tandem) (s : State) : Out := .next (s.access who blkWRD 0x80 (some 0x200) fun s => s.safeWrite 0x200)
def execWatchdogService (who t : Tandem) (val : BitVec 32) (s : State) : Out :=
  .next (s.access who blkWRD (0x48 + 16 * t.idx) (some val.toNat) fun s => s.wdService who t val.toNat)
def execWatchdogConfigWrite (who t : Tandem) (val : BitVec 32) (s : State) : Out :=
  .next (s.access who blkWRD (0x40 + 16 * t.idx) (some val.toNat) fun s => s.wdConfig who t val.toNat)

/-- WATCHDOG_LOCK: a write of WRD_WDCFG_n that sets LOCK. -/
def execWatchdogLock (who t : Tandem) (val : BitVec 32) (s : State) : Out :=
  let v := (val ||| 0x80000000#32).toNat
  .next (s.access who blkWRD (0x40 + 16 * t.idx) (some v) fun s => s.wdConfig who t v)
def execPatrolPauseWrite (who : Tandem) (val : BitVec 32) (s : State) : Out :=
  .next (s.access who blkWRD 0xC0 (some val.toNat) fun s => s.pctlWrite val.toNat)
def execPatrolInjectWrite (who : Tandem) (val : BitVec 32) (s : State) : Out :=
  .next (s.access who blkWRD 0xD0 (some val.toNat) fun s => s.pinjWrite val.toNat)

/-! Clocks and resets (chapter 4). -/
def execUnitReset (who : Tandem) (val : BitVec 32) (s : State) : Out :=
  .next (s.access who blkCLK 0x48 (some val.toNat) fun s => s.urstWrite who val.toNat)
def execClkGateSetWrite (who : Tandem) (val : W64) (s : State) : Out :=
  .next (s.access who blkCLK 0x28 (some val.toNat) fun s => s.gateWrite who true val.toNat)
def execClkGateClrWrite (who : Tandem) (val : W64) (s : State) : Out :=
  .next (s.access who blkCLK 0x30 (some val.toNat) fun s => s.gateWrite who false val.toNat)

/-- HOLD_COMMAND: a write of CLK_RSTCMD; CMD = 2 reaches the warden. -/
def execHoldCommand (who : Tandem) (val : BitVec 32) (s : State) : Out :=
  .next (s.access who blkCLK 0x40 (some val.toNat) fun s => s.rstcmd who val.toNat)

/-- WARM_RESET_COMMAND: a write of CLK_RSTCMD; CMD = 1 requests a warm reset. -/
def execWarmResetCommand (who : Tandem) (val : BitVec 32) (s : State) : Out :=
  .next (s.access who blkCLK 0x40 (some val.toNat) fun s => s.rstcmd who val.toNat)

/-! The NFC host side (chapter 18) and the USB link (chapter 16). -/

/-- NFC_HOST_COMMAND: a write of NFC_HCMD (R834). [log 108 DESIGN CHOICE] -/
def execNfcHostCommand (who : Tandem) (val : BitVec 32) (s : State) : Out :=
  .next (s.access who blkNFC 0x20 (some val.toNat) fun s => if s.nfcOn then s.nfcHostWrite who val.toNat else s)
def execNfcLockWrite (who : Tandem) (val : BitVec 32) (s : State) : Out :=
  .next (s.access who blkNFC 0x18 (some val.toNat) fun s => if s.nfcOn then s.nfcLockWrite val.toNat else s)

/-- USB_REMOTE_WAKEUP: the write of WAKE (R763). [log 100 DESIGN CHOICE] -/
def execUsbRemoteWakeup (who : Tandem) (idle : Bool) (s : State) : Out :=
  .next (s.access who blkUSB 0x8 (some (s.usb.ctlWord + 4)) fun s => s.usbWake idle)

/-! The scheduler (chapter 10). -/

/-- SCHEDULER_ENABLE: a write of SCH_CTL by an initiator (R478, R501). -/
def execSchedulerEnable (who : Tandem) (m : Side) (val : BitVec 32) (s : State) : Out :=
  .next (s.access who (match m with | .a => blkSCHA | .b => blkSCHB) 0x8 (some val.toNat) fun s => schWrite m who 0x8 val.toNat s)

/-! The CAN controllers (chapter 17): tandems A and B alone write their blocks. -/

/-- A command of a main tandem to a controller, `h` its half: a write of `v` at `off`. -/
def canCmd (who : Tandem) (c : Side) (off v : Nat) (f : Side → State → State) (s : State) : State :=
  match who.side with
  | some h => s.access who (canBlk c) off (some v) fun s => s.onCan c (f h)
  | none => s

/-- A command that changes the controller alone. -/
def canBy (who : Tandem) (c : Side) (off v : Nat) (f : Can → Can) (s : State) : State :=
  canCmd who c off v (fun _ s => s.modCan c f) s

/-- The offset of CAN_MBCFG_m; CAN_MBGO_m lies 0x10 above. -/
def mbOff (m : Fin 32) : Nat := 0x1000 + 0x80 * m.val

/-- A write of CAN_CTL that changes OP alone, or sets RECOVER alone. -/
def Can.ctlOp (k : Can) (n : Nat) : Nat := k.ctlWord / 4 * 4 + n

def execCanMbcfgWrite (who : Tandem) (c : Side) (m : Fin 32) (val : W64) (s : State) : Out :=
  .next (canCmd who c (mbOff m) val.toNat (fun h => mbcfgWrite h c m.val val.toNat) s)
def execCanMbSubmit (who : Tandem) (c : Side) (m : Fin 32) (s : State) : Out :=
  .next (canCmd who c (mbOff m + 0x10) 1 (fun h => canSubmit h c m.val) s)
def execCanMbRelease (who : Tandem) (c : Side) (m : Fin 32) (s : State) : Out :=
  .next (canCmd who c (mbOff m + 0x10) 4 (fun h => canRelease h c m.val) s)
def execCanMbAbort (who : Tandem) (c : Side) (m : Fin 32) (s : State) : Out :=
  .next (canCmd who c (mbOff m + 0x10) 2 (fun h => canAbort h c m.val) s)
def execCanMbSetseq (who : Tandem) (c : Side) (m : Fin 32) (seq : BitVec 16) (s : State) : Out :=
  .next (canCmd who c (mbOff m + 0x10) (seq.toNat * 2 ^ 16 + 8) (fun h => canSetSeq h c m.val seq) s)
def execCanOpOff (who : Tandem) (c : Side) (s : State) : Out :=
  .next (canBy who c 0x8 ((s.can c).ctlOp 0) (fun k => k.request 0) s)
def execCanOpMonitor (who : Tandem) (c : Side) (s : State) : Out :=
  .next (canBy who c 0x8 ((s.can c).ctlOp 1) (fun k => k.request 1) s)
def execCanOpActive (who : Tandem) (c : Side) (s : State) : Out :=
  .next (canBy who c 0x8 ((s.can c).ctlOp 2) (fun k => k.request 2) s)
def execCanRecover (who : Tandem) (c : Side) (s : State) : Out :=
  .next (canBy who c 0x8 ((s.can c).ctlWord + 0x20) (fun k => k.recover true) s)
def execCanRxpop (who : Tandem) (c : Side) (s : State) : Out := .next (canBy who c 0x38 1 Can.pop s)
def execCanRxcOpen (who : Tandem) (c : Side) (ch : Fin 32) (s : State) : Out :=
  .next (canBy who c (0x4000 + 16 * ch.val) (2 ^ 63) (fun k => k.open_ ch.val) s)
def execCanRxcClose (who : Tandem) (c : Side) (ch : Fin 32) (s : State) : Out :=
  .next (canBy who c (0x4000 + 16 * ch.val) (2 ^ 62) (fun k => k.close ch.val) s)

/-! The interrupt router (chapter 20). -/

/-- A register command of the IRT block. -/
def irtCmd (who : Tandem) (off : Nat) (v : BitVec 32) (s : State) : State :=
  s.access who blkIRT off (some v.toNat) fun s => irtWrite who off v.toNat s

def execIrtDbWrite (who : Tandem) (val : BitVec 32) (s : State) : Out := .next (irtCmd who 0x20 val s)
def execIrtDbclrWrite (who : Tandem) (val : BitVec 32) (s : State) : Out := .next (irtCmd who 0x24 val s)
def execIrtSwWrite (who : Tandem) (val : BitVec 32) (s : State) : Out := .next (irtCmd who 0x30 val s)
def execIrtSwclrWrite (who : Tandem) (val : BitVec 32) (s : State) : Out := .next (irtCmd who 0x34 val s)
def execIrtRouteWrite (who : Tandem) (k : Fin 256) (val : BitVec 32) (s : State) : Out :=
  .next (irtCmd who (0x1000 + 4 * k.val) val s)
def execIrtVcclrWrite (who : Tandem) (val : BitVec 32) (s : State) : Out := .next (irtCmd who 0x208 val s)

end Sys2Proof.Machine
end

