-- ==== Sys2Proof/Machine/Ring.lean ====
section
/-! DEFINITION. Ring transfers and returns, the system registers, the frame fill, and the entries that no word of its own
carries (chapter 9; R302, R303; R468 to R474). -/

namespace Sys2Proof.Machine

/-! Ring transfers (R432 to R438). -/

/-- A sealed target: VALID (step 2 of R433), object type, ring, EX, alignment, in that order. [log 135 DESIGN CHOICE] -/
def targetCap (t : Tandem) (cs : CReg) (typeOk : Nat → Bool) (ringOk : Nat → Nat → Bool) : Cm Cap := do
  let s ← get
  let c := (s.cpu t).lk.getC cs
  let cur := c.cursor
  if c.st = .unwritten then raiseSrc 0 dUNWRITTEN 1 cs.val
  else if c.st ≠ .valid then raiseCapAt dINVALID cs.val cur
  else if !(c.sealed && typeOk c.otype) then raiseCapAt dWICKET cs.val cur
  else if !ringOk c.ring (s.cpu t).ring then raiseCapAt dRING cs.val cur
  else if !c.has pEX then raiseCapAt dPERM cs.val cur
  else if cur % 4 ≠ 0 then raiseCapAt dALIGN cs.val cur
  else pure c

def isResume (n : Nat) : Bool := n == 0x3F
def isWicket (n : Nat) : Bool := 0x38 ≤ n && n ≤ 0x3E

/-- WCALL: the resumption capability in c15, then PCC := cs unsealed (R437). -/
def execWcall (t : Tandem) (cs : CReg) (s : State) : Out :=
  .next (runWord t .ring false (do
    let c ← targetCap t cs isWicket fun r cur => decide (r < cur)
    modLk t fun l => { l.setC 15 (resumption l.pcc (l.pcc.cursor + 4)) with pcc := c.unseal }
    modify fun s => s.flushFetch t
    pure .moved) s)

/-- WRET: steps 2 to 6 of R433 (R438). -/
def execWret (t : Tandem) (cs : CReg) (s : State) : Out :=
  .next (runWord t .ring false (do
    let c ← targetCap t cs isResume fun r cur => decide (cur ≤ r)
    modLk t fun l => { l with pcc := c.unseal }
    modify fun s => s.flushFetch t
    pure .moved) s)

/-- The locker that a PLOCK field names; a number beyond the tandem's lockers keeps its low bits. [log 36 DESIGN CHOICE] -/
def lockerOf (t : Tandem) (n : Nat) : Fin 8 := if t.isG then ⟨n % 2, by omega⟩ else ⟨n % 8, by omega⟩

/-- Where a return goes on (the table of R433): CURSOR, the address that follows the slot word if one is to execute, and
whether CURSOR lies outside the 44-bit space. -/
def returnTo (skip slot : Bool) (cursor enext : Nat) : Nat × Option Nat × Bool :=
  match skip, slot with
  | false, false => (cursor, none, false)
  | true, false => (cursor + 4, none, decide (2 ^ 44 ≤ cursor + 4))
  | false, true => (cursor, some enext, false)
  | true, true => (enext, none, false)

/-- ERET and ERET.S (R433, R434). [log 36 DESIGN CHOICE] -/
def eret (t : Tandem) (cs : CReg) (skip : Bool) (s : State) : State :=
  runWord t .ring false (do
    let raw ← rawC t cs
    checkSite .load (.saved t ((← get).cpu t).cur.val) raw.cursor
    let c0 := (← get).cpu t
    let l := c0.lk
    let es := l.estat.bits.toNat
    if !bitOf es 63 then raiseAt 2 0x23 raw.cursor
    else do
      let c ← targetCap t cs isResume fun r cur => decide (cur ≤ r)
      let (at_, after, past) := returnTo skip (bitOf es 61) c.cursor (wf l.enext.bits 0 44)
      modify fun s => s.modCpu t fun k =>
        let l' := { l with estat := ⟨l.estat.tag, putBits l.estat.bits 63 1 0⟩, lkrsv := ⟨l.lkrsv.tag, putBits l.lkrsv.bits 0 1 0⟩ }
        let k := k.setLk l'
        let n := lockerOf t (fld es 16 4)
        let k := { k with cur := n, glide := 0, resv := none, cpl := BitVec.ofNat 4 (fld es 8 4),
                          dfActive := k.dfActive && !bitOf es 62, pcOver := past,
                          slot := after.map fun a => ⟨BitVec.ofNat 44 a, false, none⟩ }
        k.setLk { k.lk with pcc := c.unseal.setCursor at_ }
      modify fun s => s.flushFetch t
      pure .moved) s

def execEret (t : Tandem) (cs : CReg) (s : State) : Out := .next (eret t cs false s)
def execEretS (t : Tandem) (cs : CReg) (s : State) : Out := .next (eret t cs true s)

/-! The frame fill and its read (R472 to R474). -/

/-- One 8-byte item of the frame, stored as by SD: its address is translated and its word judged (R472). -/
def fillItem (t : Tandem) (ea : Nat) (v : TWord) : Cm SbEnt := do
  let ring := ((← get).cpu t).ring
  let (ph, r) ← translate t .fill .data ring ea 8
  match r with
  | .dev _ => do
    let b ← needData v 3 0
    pure ⟨ph.lo, bytesOf 8 b.toNat, .dev⟩
  | _ => do
    targetTag t (ph.lo / 8) true ea
    pure ⟨ph.lo, bytesOf 8 v.bits.toNat, .whole v.tag⟩

/-- The frame fill (R472, Table 10-1): every check before any write. -/
def frameFill (t : Tandem) : Cm Unit := do
  let s ← get
  let l := (s.cpu t).lk
  let ring := (s.cpu t).ring
  let pa := wf l.lkrsv.bits 4 40 * 16
  let c15 := l.getC 15
  let chk (perms : Nat) (teth : Bool) (off n al : Nat) : Cm Nat := do
    let c ← checkCap t 14 perms teth (pa + off)
    if ¬ (c.base ≤ pa + off ∧ pa + off + n ≤ c.top) then raiseAt 1 dBOUNDS (pa + off)
    else if (pa + off) % al ≠ 0 then raiseAt 1 dALIGN (pa + off)
    else pure (pa + off)
  let ea ← chk (pST + pSTC) c15.tethered 0 16 16
  let (ph, r) ← translate t .fill .noDev ring ea 16
  durCheck c15 r ea
  targetTag t (ph.lo / 8) true ea
  targetTag t (ph.lo / 8 + 1) true ea
  let items : List (Nat × TWord) := [(0x10, l.ecause), (0x18, l.eaddr), (0x20, l.enext), (0x28, l.estat),
    (0x30, .int l.lkfrm.bits), (0x38, .int 0)]
  let es ← items.mapM fun p => do
    let a ← chk pST false p.1 8 1
    fillItem t a p.2
  ledgerAdmit t pa ([ph.lo / 8, ph.lo / 8 + 1] ++ es.map fun e => e.addr / 8)
  pushStore t (capEntry ph.lo c15)
  es.forM (pushStore t)
  modLk t fun l => { l with
    lkfrm := .int (w64 (pa + 1)), lkrsv := ⟨l.lkrsv.tag, putBits l.lkrsv.bits 0 1 0⟩,
    estat := ⟨l.estat.tag, putBits l.estat.bits 63 1 0⟩ }

/-- A fill happens only while LKRSV.PEND is 1 (R473). -/
def fillIfPending (t : Tandem) : Cm Unit := do
  let l := ((← get).cpu t).lk
  if bitOf l.lkrsv.bits.toNat 0 then frameFill t else pure ()

/-- FRSV (R473). -/
def execFrsv (m : Side) (s : State) : Out := .next (plainWord m.tandem (fillIfPending m.tandem) s)

/-- The bits of `v` in the mask (R9: a write of an RO field is ignored). -/
def masked (v : W64) (m : Nat) : W64 := v &&& w64 m

/-- The fields of ECAUSE, of EADDR and ENEXT, of ESTAT, and of LKFRM and LKRSV (their cards, R11). -/
def mECAUSE : Nat := 0x00000FFF3FEFFFFF
def mVA : Nat := 0x00000FFFFFFFFFFF
def mESTAT : Nat := 0xE0000000000F0F03
def mLKFRM : Nat := 0x00000FFFFFFFFFF1

/-- FRLD (R474): the frame at LKFRM.ADDR through c14; reserved bits of the registers it restores stay 0 (R11). -/
def frameLoad (t : Tandem) : Cm Unit := do
  let s ← get
  let l := (s.cpu t).lk
  let ring := (s.cpu t).ring
  if !bitOf l.lkfrm.bits.toNat 0 then pure ()
  else do
    let pa := wf l.lkfrm.bits 4 40 * 16
    let chk (perms off n : Nat) : Cm Nat := do
      let c ← checkCap t 14 perms false (pa + off)
      if ¬ (c.base ≤ pa + off ∧ pa + off + n ≤ c.top) then raiseAt 1 dBOUNDS (pa + off) else pure (pa + off)
    let ea ← chk (pLD + pLDC) 0 16
    let (ph, r) ← translate t .capLoad .noDev ring ea 16
    waitOverlap t ph 16
    readMem t r false ph 16 ea
    let s ← get
    let p := s.pairAt t ph.lo
    match capOfPair p.1 p.2 with
    | none => corrupt ea
    | some c15 => do
      if c15.st = .malformed then modify fun s => s.mchk 0x12
      let item (off m : Nat) : Cm TWord := do
        let a ← chk pLD off 8
        let (ph, r) ← translate t .load .data ring a 8
        waitOverlap t ph 8
        let v ← loadValue t ph r false 8 a false
        pure ⟨v.tag, masked v.bits m⟩
      let a ← item 0x10 mECAUSE
      let b ← item 0x18 mVA
      let c ← item 0x20 mVA
      let d ← item 0x28 mESTAT
      let k ← item 0x30 mLKFRM
      modLk t fun l => { l.setC 15 c15 with ecause := a, eaddr := b, enext := c, estat := d, lkfrm := k }

def execFrld (m : Side) (s : State) : Out := .next (plainWord m.tandem (frameLoad m.tandem) s)

/-! System registers (R302, R303). -/

def sINT (n : Nat) : TWord := .int (w64 n)

/-- VSTAT: entries marked bad, entries whose first block is not held (R428, R459). -/
def Cpu.vstat (c : Cpu) : Nat :=
  let es := c.shadow.filterMap fun p => p.2
  pack [(16, (es.filter fun e => e.bad).length), (0, (es.filter fun e => e.held.isNone).length)]

/-- LKCUR. -/
def State.lkcur (s : State) (t : Tandem) : Nat :=
  let c := s.cpu t
  match t.side with
  | some m =>
    let h := s.sch m
    pack [(8, match h.running with | some k => k.val | none => 0), (7, b2n (h.en && c.cur == h.runlk)), (0, c.cur.val)]
  | none => c.cur.val

/-- COREID. -/
def coreId : Tandem → Nat
  | .a => 0x01010800 | .b => 0x01010801 | .g => 0x01000202

/-- What SYSRD of a number that the tandem has reads, and the state it leaves: RC fields clear (R9). The remaining glide is a
free value up to the declared length. [log 39 DESIGN CHOICE, 41 DEDUCED] -/
def sysRead (s : State) (t : Tandem) (n : Nat) : TWord × State :=
  let c := s.cpu t
  let l := c.lk
  match n with
  | 0x000 => (sINT (coreId t), s)
  | 0x020 => (c.emuword, s)
  | 0x040 => (.int l.ecause.bits, s)
  | 0x041 => (.int l.eaddr.bits, s)
  | 0x042 => (.int l.enext.bits, s)
  | 0x043 => (.int l.estat.bits, s)
  | 0x048 =>
    let rem := if c.glide = 0 then 0 else s.freeVal.toNat % (c.glide + 1)
    (sINT (pack [(16, rem), (10, b2n c.dfActive), (8, b2n (c.glide != 0)), (0, c.cpl.toNat)]),
      if c.glide = 0 then s else s.freeNext)
  | 0x049 => (.int c.vtab, s)
  | 0x04A => (sINT 0, s)
  | 0x04B => (sINT c.vstat, s)
  | 0x04C => (sINT (pack [(32, c.govLast), (0, c.govCount)]), s.setCpu t { c with govCount := 0 })
  | 0x080 => (.int l.lkfrm.bits, s)
  | 0x081 => (.int l.lkrsv.bits, s)
  | 0x082 => (sINT (s.lkcur t), s)
  | 0x0C0 => (.int c.dwinP, s)
  | 0x0C1 => (.int c.dwinX, s)
  | 0x100 => (c.tlbhi, s)
  | 0x101 => (c.tlblo, s)
  | 0x102 => (.int c.xctl, s)
  | 0x103 => (.int c.xmiss, s)
  | 0x104 => (sINT (pack [(16, c.xmulti), (0, c.xrej)]), s.setCpu t { c with xmulti := 0, xrej := 0 })
  | 0x105 => (sINT c.xwptr, s)
  | 0x140 => (l.mod0Base, s)
  | 0x141 => (l.mod0Ctl, s)
  | 0x142 => (l.mod1Base, s)
  | 0x143 => (l.mod1Ctl, s)
  | 0x144 => (l.crcp0, s)
  | 0x145 => (l.crcp1, s)
  | 0x146 => (l.crcp2, s)
  | 0x148 => (l.fcsr, s)
  | 0x149 => (l.qstat, s)
  | 0x180 => (.int c.pmctl, s)
  | 0x181 => (.int c.pmsel, s)
  | 0x182 => (.int c.pmcyc, s)
  | 0x183 => (.int c.pmret, s)
  | 0x184 => (sINT (tget 0 c.pmev 0).toNat, s)
  | 0x185 => (sINT (tget 0 c.pmev 1).toNat, s)
  | 0x186 => (sINT (tget 0 c.pmev 2).toNat, s)
  | 0x187 => (sINT (tget 0 c.pmev 3).toNat, s)
  | 0x188 => (.int c.timctl, s)
  | _ => (sINT 0, s)

/-- The word of SYSRD or SYSWR. [log 41 DEDUCED] -/
def sysWord (g : Reg) (dir sreg : Nat) : Nat := pack [(25, 0x27), (20, g.val), (19, dir), (0, sreg)]

/-- SYSRD and SYSWR of FCSR need floating point (R349). -/
def fpReg (t : Tandem) (n : Nat) : Cm Unit :=
  match t.side with
  | some m => if n = 0x148 then fpAvail m else pure ()
  | none => pure ()

/-- The saved-state registers (R457). -/
def isSaved (n : Nat) : Bool := 0x040 ≤ n && n ≤ 0x043

def execSysrd (t : Tandem) (gd : Reg) (sreg : BitVec 12) (s : State) : Out :=
  .next (plainWord t (do
    if !sregOn t sreg.toNat then emulate t (sysWord gd 0 sreg.toNat)
    else do
      fpReg t sreg.toNat
      needSys t
      if isSaved sreg.toNat then checkSite .load (.saved t ((← get).cpu t).cur.val) 0
      let (v, s') := sysRead (← get) t sreg.toNat
      set s'
      putG t gd v) s)

/-- The numbers whose SYSWR needs ring 0 besides SYS (the cards of chapters 5, 8, 9, 10 and 11). -/
def ring0Reg (n : Nat) : Bool :=
  (0x040 ≤ n && n ≤ 0x04C) || n == 0x080 || n == 0x081 || n == 0x0C0 || n == 0x0C1 || (0x100 ≤ n && n ≤ 0x105) ||
    (0x180 ≤ n && n ≤ 0x188)

/-- The table of VTAB lies wholly within the working SRAM or the Spenik store (R448). -/
def vtabPlaceOk (base : Nat) : Bool :=
  decide (0x20000000 ≤ base ∧ base + 18432 ≤ 0x20400000) || decide (0x40000000 ≤ base ∧ base + 18432 ≤ 0x44000000)

/-- Copy entries from 0 on, `n` of them (R428). [log 38 DEDUCED] -/
def copyEntries (t : Tandem) (base : Nat) (bad : List Nat) (n : Nat) (s : State) : State :=
  (List.range n).foldl (fun s i => s.copyEntry t base i (bad.contains i)) s

/-- An access to the Spenik store: the address lies there (Table 1-2). -/
def inSpenik (a : Nat) : Bool := spkBase ≤ a && a < 0x44000000

/-- Tandem G's copy of an entry waits for ledger recovery: the entry or its handler's first block is persistent (R630). -/
def State.copyWaits (s : State) (t : Tandem) (base i : Nat) : Bool :=
  t.isG && !s.spk.recovered && (inSpenik base ||
    match capOfPair (s.viewWord t ((base + 64 * i) / 8)) (s.viewWord t ((base + 64 * i) / 8 + 1)) with
    | some h => inSpenik h.cursor
    | none => false)

/-- The effect of a SYSWR of VTAB (R428, R429, R448). `limit`: an interrupt abandons the copy after that many entries. [log
38 DEDUCED] -/
def vtabWrite (t : Tandem) (v : W64) (limit : Option Nat) (bad : List Nat) : Cm Ret := do
  let base := wf v 6 34 * 64
  if wf v 1 5 ≠ 0 ∨ vtabPlaceOk base = false then pure .next
  else if !bitOf v.toNat 0 then do
    modify fun s => (s.heal fun x => match x with
      | .shadow u _ => u == t
      | _ => false).modCpu t fun c => { c with vtab := masked v 0xFFFFFFFFC1, shadow := [] }
    pure .next
  else if ← (do pure ((List.range (limit.getD 0x120)).any ((← get).copyWaits t base))) then throw Exc.waits
  else
    match limit with
    | some n =>
      if n < 0x120 then do
        modify (copyEntries t base bad n)
        pure .stay
      else do
        modify fun s => (copyEntries t base bad 0x120 s).modCpu t fun c => { c with vtab := masked v 0xFFFFFFFFC1 }
        pure .next
    | none => do
      modify fun s => (copyEntries t base bad 0x120 s).modCpu t fun c => { c with vtab := masked v 0xFFFFFFFFC1 }
      pure .next

/-- The effect of a SYSWR of VRLD (R428, R448). [log 38 DEDUCED] -/
def vrldWrite (t : Tandem) (v : W64) (bad : Bool) : Cm Ret := do
  let i := wf v 0 9
  let s ← get
  if i ≤ 0x11F then
    if s.copyWaits t (s.cpu t).vtabBase i then throw Exc.waits
    else set (s.copyEntry t (s.cpu t).vtabBase i bad)
  pure .next

/-- The effect of a SYSWR of IECTL (R442, R446). -/
def iectlWrite (t : Tandem) (v : W64) : Cm Ret := do
  if wf v 0 4 = 15 then pure .next
  else do
    modify fun s => s.modCpu t fun c =>
      { c with cpl := BitVec.ofNat 4 (wf v 0 4), glide := if bitOf v.toNat 9 then 0 else c.glide }
    pure .next

/-- The effect of a SYSWR of ESTAT: VALID = 0 while a fill is pending makes the fill first (R473). [log 36 DESIGN CHOICE] -/
def estatWrite (t : Tandem) (v : W64) : Cm Ret := do
  if !bitOf v.toNat 63 then fillIfPending t
  modLk t fun l => { l with estat := .int (masked v 0xE0000000000F0F00 ||| masked l.estat.bits 3) }
  pure .next

/-- The effect of a SYSWR of XCTL: both micro-TLBs are invalidated (R519), and the next word is fetched under the new value
(R317). -/
def xctlWrite (t : Tandem) (v : W64) : Cm Ret := do
  modify fun s => (s.flushFetch t).modCpu t fun c => { c with xctl := masked v 0xFF01, itlb := [], dtlb := [] }
  pure .next

/-- A CRCP value that its card rejects. -/
def crcpBad (v : W64) : Bool :=
  match wf v 62 2 with
  | 0 => wf v 0 32 / 2 ^ 8 != 0
  | 1 => wf v 0 32 / 2 ^ 16 != 0
  | 2 => false
  | _ => true

/-- A PMSEL value with a reserved event code (R404). -/
def pmselBad (v : W64) : Bool := [0, 8, 16, 24].any fun i => decide (0x0F < wf v i 8)

/-- The effect of SYSWR on a number that the tandem has (the cards). -/
def sysWrite (t : Tandem) (n : Nat) (v : W64) : Cm Ret := do
  let cpu (f : Cpu → Cpu) : Cm Ret := do
    modify fun s => s.modCpu t f
    pure .next
  let lk (f : Locker → Locker) : Cm Ret := do
    modLk t f
    pure .next
  match n with
  | 0x040 => lk fun l => { l with ecause := .int (masked v mECAUSE) }
  | 0x041 => lk fun l => { l with eaddr := .int (masked v mVA) }
  | 0x042 => lk fun l => { l with enext := .int (masked v mVA) }
  | 0x043 => estatWrite t v
  | 0x048 => iectlWrite t v
  | 0x049 => vtabWrite t v none []
  | 0x04A => vrldWrite t v false
  | 0x080 => lk fun l => { l with lkfrm := .int (masked v mLKFRM) }
  | 0x081 => lk fun l => { l with lkrsv := .int (masked v mLKFRM) }
  | 0x0C0 => cpu fun c => { c with dwinP := v }
  | 0x0C1 => cpu fun c => { c with dwinX := v }
  | 0x100 => cpu fun c => { c with tlbhi := .int v }
  | 0x101 => cpu fun c => { c with tlblo := .int v }
  | 0x102 => xctlWrite t v
  | 0x105 => cpu fun c => { c with xwptr := wf v 0 7 }
  | 0x140 => lk fun l => { l with mod0Base := .int (masked v 0x00000FFFFFFFFFFF) }
  | 0x141 => lk fun l => { l with mod0Ctl := .int (masked v 0xC0FFFFFF00FFFFFF) }
  | 0x142 => lk fun l => { l with mod1Base := .int (masked v 0x00000FFFFFFFFFFF) }
  | 0x143 => lk fun l => { l with mod1Ctl := .int (masked v 0xC0FFFFFF00FFFFFF) }
  | 0x144 => if crcpBad v then pure .next else lk fun l => { l with crcp0 := .int (masked v 0xE0000000FFFFFFFF) }
  | 0x145 => if crcpBad v then pure .next else lk fun l => { l with crcp1 := .int (masked v 0xE0000000FFFFFFFF) }
  | 0x146 => if crcpBad v then pure .next else lk fun l => { l with crcp2 := .int (masked v 0xE0000000FFFFFFFF) }
  | 0x148 => if 4 < wf v 5 3 then pure .next else lk fun l => { l with fcsr := .int (masked v 0xFF) }
  | 0x149 => lk fun l => { l with qstat := .int (masked v 1) }
  | 0x180 => cpu fun c => { c with pmctl := masked v 0x1F ||| (c.pmctl &&& w64 0x3F0000 &&& ~~~v) }
  | 0x181 => if pmselBad v then pure .next else cpu fun c => { c with pmsel := masked v 0xFFFFFFFF }
  | 0x182 => cpu fun c => { c with pmcyc := v }
  | 0x183 => cpu fun c => { c with pmret := v }
  | 0x184 => cpu fun c => { c with pmev := tset 0 c.pmev 0 (v.setWidth 32) }
  | 0x185 => cpu fun c => { c with pmev := tset 0 c.pmev 1 (v.setWidth 32) }
  | 0x186 => cpu fun c => { c with pmev := tset 0 c.pmev 2 (v.setWidth 32) }
  | 0x187 => cpu fun c => { c with pmev := tset 0 c.pmev 3 (v.setWidth 32) }
  | 0x188 => cpu fun c => { c with timctl := masked v 3 }
  | _ => pure .next

/-- The performance counter that a SYSWR writes (R411). -/
def pmWrites (t : Tandem) (n : Nat) : Option Nat := if sregOn t n ∧ 0x182 ≤ n ∧ n ≤ 0x187 then some n else none

/-- A SYSWR of number `n` with effect `f`: FP_UNAVAIL, the tag of gs, SYS, ring 0 where the card asks for it, the effect. -/
def syswr (t : Tandem) (n : Nat) (gs : Reg) (f : W64 → Cm Ret) (s : State) : State :=
  runWordPm t (if n = 0x049 ∧ sregOn t n = true then .long else .plain) false (pmWrites t n) (do
    if !sregOn t n then emulate t (sysWord gs 1 n)
    else do
      fpReg t n
      let v ← srcG t gs
      if ring0Reg n then needSys0 t else needSys t
      f v) s

def execSyswr (t : Tandem) (sreg : BitVec 12) (gs : Reg) (s : State) : Out :=
  .next (syswr t sreg.toNat gs (sysWrite t sreg.toNat) s)

def execVtabWrite (t : Tandem) (gs : Reg) (limit : Option Nat) (bad : List Nat) (s : State) : Out :=
  .next (syswr t 0x049 gs (fun v => vtabWrite t v limit bad) s)
def execVrldWrite (t : Tandem) (gs : Reg) (bad : Bool) (s : State) : Out :=
  .next (syswr t 0x04A gs (fun v => vrldWrite t v bad) s)
def execIectlWrite (t : Tandem) (gs : Reg) (s : State) : Out := .next (syswr t 0x048 gs (iectlWrite t) s)
def execEstatWrite (t : Tandem) (gs : Reg) (s : State) : Out := .next (syswr t 0x043 gs (estatWrite t) s)
def execXctlWrite (m : Side) (gs : Reg) (s : State) : Out := .next (syswr m.tandem 0x102 gs (xctlWrite m.tandem) s)

/-! Entries that no word of its own carries. -/

/-- An uncorrectable error of memory group `g` in the word at `va`: of the word's own memory, which counts it (R570, R640),
of the L2 or in transit (group 4), or of the tandem's own arrays; a word has no error of another group. -/
def eccWord (t : Tandem) (k : AKind) (g va : Nat) : Cm Ret := do
  let ring := ((← get).cpu t).ring
  let (ph, _) ← translate t k .none ring va 1
  let s ← get
  let w := ph.lo / 8
  if g = s.memGroup w then do
    set (s.hw (s.countWord w 3 true))
    eccAt g va
  else if g = 4 ∨ g = ownGroup t then eccAt g va
  else pure .stay

/-- The context whose floating-point state the word at PCC would fill from the bank: that of a DEFERRED locker, unless another
locker holds it (R490, R498). -/
def State.bankFill (s : State) (m : Side) : Option (Fin 64) :=
  let h := s.sch m
  let n := (s.cpu m.tandem).cur
  match (h.getLk n.val).fpst, (h.getLk n.val).occ with
  | .deferred, some k =>
    if h.schedLockers.any fun y => decide (y ≠ n) && (h.getLk y.val).fpown == some k then none else some k
  | _, _ => none

/-- The fault of an EXCEPTION_ENTRY, after the order-1 checks of the word at PCC. -/
def causeFault (t : Tandem) : ExcCause → Cm Ret
  | .fetch => pure .stay
  | .eccFetch g => do
    let a ← pcNow t
    eccWord t .fetch g.val a
  | .eccData va g => eccWord t .load g.val va.toNat
  | .eccSaved cs => do
    let a ← match cs with
      | some r => do
        let c ← rawC t r
        pure c.cursor
      | none => pure 0
    eccAt (ownGroup t) a
  | .eccTlb i va => do
    modify fun s => s.modCpu t fun c => { c with tlb := tmod none c.tlb i.val fun e => e.map TlbEnt.kill }
    eccAt (ownGroup t) va.toNat
  | .eccBank => do
    let s ← get
    match t.side.bind fun m => (s.bankFill m).map fun k => (m, k) with
    | some (m, k) => do
      set ((s.modSch m fun h =>
        { h.modCtx k.val fun c => { c with st := .faulted } with bankecc := satAdd 0xFF h.bankecc 1 }).bankUnc t)
      raise 7 0x60
    | none => pure .stay

/-- EXCEPTION_ENTRY: a fault that the word's own command does not carry; a load that waits meets its error too (R431). -/
def execExceptionEntry (t : Tandem) (cause : ExcCause) (s : State) : Out :=
  .next (
    let c := s.cpu t
    let waits := match c.wait with | .load _ => true | _ => false
    if c.run == .running && s.clk.crystal && waits && cause != .fetch then
      match (causeFault t cause).run s with
      | .ok _ s' => s'
      | .error e s' => takeFault t e s'
    else runWord t .plain false (causeFault t cause) s)

/-- The boundary that an interrupt or a switch needs (R312, R435): no delay slot is open, and no word of Table 9-8 is under way
(a device load, a TAS). -/
def Cpu.atBoundary (c : Cpu) : Bool :=
  c.run == .running && c.slot.isNone && (match c.wait with | .load q => !q.dev | .tas | .read _ _ => false | _ => true)

/-- A context in WAIT when an exception takes the core: a blocked one abandons its WAIT and runs again (R481); of one that a
wake has made READY the WAIT is complete. [log 42 DEDUCED, 138 DESIGN CHOICE] -/
def State.unpark (s : State) (t : Tandem) : State :=
  match t.side with
  | some m =>
    match (s.sch m).running with
    | some k =>
      if !s.parked m then s
      else if ((s.sch m).getCtx k.val).st = .blocked then s.modSch m fun h => h.modCtx k.val fun c => { c with st := .running }
      else if ((s.sch m).getCtx k.val).st = .ready then s.endWait t
      else s
    | none => s
  | none => s

/-- INTERRUPT_ENTRY: the source that the router presents, above CPL, with no glide under way (R430, R899). `shadowErr`: an
uncorrectable error in the vector shadow (R439, R457). -/
def execInterruptEntry (t : Tandem) (shadowErr : Bool) (s : State) : Out :=
  .next (
    let c := s.cpu t
    if c.atBoundary && s.clk.crystal && c.glide == 0 then
      match s.presented t with
      | none => s
      | some (k, level) =>
        if level ≤ c.cpl.toNat then s
        else
          let s := ((s.unpark t).modCpu t fun c => { c with wait := .none }).event t 0x0D 1
          if shadowErr then entryFault t shadowExc (0xF, k) (s.ownEcc t)
          else enterVector t (0x20 + k) ⟨0xF, k, 3, 0, false, 0⟩ (some level) s
    else s)

/-- GLIDE_EXPIRY: the glide ends at an allowed boundary, and the overrun is counted (R443, R450). -/
def execGlideExpiry (t : Tandem) (s : State) : Out :=
  .next (
    let c := s.cpu t
    if c.run == .running && s.clk.crystal && c.glide != 0 && c.slot.isNone then
      s.setCpu t { c with glide := 0, govCount := satAdd 0xFFFFFFFF c.govCount 1, govLast := c.glideVec }
    else s)

end Sys2Proof.Machine
end

