-- ==== Sys2Proof/Machine/Sweep.lean ====
section
/-! DEFINITION. SWEEP, the block-repeat instruction, and the CRC step (R333 to R337, R355 to R358, R362, R363, R367). -/

namespace Sys2Proof.Machine

/-- The configuration of a CRCP card. -/
def crcOfCard (v : W64) : CrcCfg :=
  ⟨match wf v 62 2 with | 0 => 8 | 1 => 16 | _ => 32, wf v 0 32, bitOf v.toNat 61⟩

/-- The configuration that K selects; an UNWRITTEN one faults (R337). [log 28 DEDUCED] -/
def crcCfg (t : Tandem) (k : Fin 4) : Cm CrcCfg := do
  let l := ((← get).cpu t).lk
  let card (v : TWord) : Cm CrcCfg := if v.tag = .unwritten then raise 0 dUNWRITTEN else pure (crcOfCard v.bits)
  match k.val with
  | 0 => card l.crcp0
  | 1 => card l.crcp1
  | 2 => card l.crcp2
  | _ => pure crc32c

/-- CRCB and CRCW: gd and gs hold data tags (R337). -/
def crcG (t : Tandem) (gd gs : Reg) (k : Fin 4) (n : Nat) (s : State) : State :=
  plainWord t (do
    let x ← srcG t gd
    let y ← srcG t gs
    let c ← crcCfg t k
    putInt t gd (w64 (crcBytes c (x.toNat % 2 ^ c.width) (bytesOf n y.toNat)))) s

def execCrcb (t : Tandem) (gd gs : Reg) (k : Fin 4) (s : State) : Out := .next (crcG t gd gs k 1 s)
def execCrcw (t : Tandem) (gd gs : Reg) (k : Fin 4) (s : State) : Out := .next (crcG t gd gs k 8 s)

/-! SWEEP. -/

/-- What an element does: it completes, or it stops the operation. -/
inductive Elem where
  | done | stop
  deriving DecidableEq, Repr

/-- The cursor of a capability advances modulo 2^44 (R334). -/
def stepCursor (t : Tandem) (r : CReg) (n : Nat) : Cm Unit := do
  let c ← rawC t r
  putC t r (c.setCursor (c.cursor + n))

/-- Run elements while gc ≠ 0, at most `fuel` of them: `fuel` elements complete before an interrupt or a switch is taken at an
element boundary (R333, R362). `cur` lists the cursors the operation uses. -/
def sweepLoop (t : Tandem) (gc : Reg) (cur : List CReg) (n : Nat) (el : Cm Elem) (fin : Cm Unit) : Nat → Cm Ret
  | 0 => pure .stay
  | fuel + 1 => do
    let c ← rawG t gc
    if c.bits = 0 then do
      fin
      pure .next
    else do
      match ← el with
      | .stop => pure .next
      | .done => do
        cur.forM fun r => stepCursor t r n
        putInt t gc (c.bits - 1)
        let c' ← rawG t gc
        if c'.bits = 0 then do
          fin
          pure .next
        else sweepLoop t gc cur n el fin fuel

/-- The number of elements the command runs: the count, or the limit at which an interrupt is taken. -/
def sweepFuel (count : Nat) (limit : Option Nat) : Nat :=
  match limit with
  | none => count + 1
  | some l => min l (count + 1)

/-- A SWEEP (R333): the tag of gc, then a count of 0, then the tag of gv where the operation reads it. -/
def sweep (t : Tandem) (word : Nat) (gc : Reg) (readsGv : Option Reg) (cur : List CReg) (n : Nat) (el : Cm Elem) (fin : Cm Unit)
    (limit : Option Nat) (s : State) : State :=
  runWord t (if (reservedKind t word).isSome then .plain else .long) false (do
    if (reservedKind t word).isSome then emulate t word
    else do
      let c ← srcG t gc
      if c = 0 then do
        fin
        pure .next
      else do
        match readsGv with
        | some gv => let _ ← srcG t gv
        | none => pure ()
        sweepLoop t gc cur n el fin (sweepFuel c.toNat limit)) s

/-- The word of a SWEEP (Table 7-1). -/
def sweepWord (op sz cd cs gc gv p : Nat) : Nat :=
  pack [(25, 0x30), (22, op), (20, sz), (16, cd), (12, cs), (7, gc), (2, gv), (1, p)]

/-- The size of an element: SZ 0, 1, 2. -/
def szBytes (sz : Nat) : Nat := match sz with | 0 => 1 | 1 => 8 | _ => 16

/-- The address of an element: the checks of Table 5-8 with offset 0 (R334). -/
def elemAt (t : Tandem) (r : CReg) (perms sz : Nat) (teth : Bool) : Cm Nat :=
  access t r ⟨perms, teth, szBytes sz, szBytes sz⟩ 0

/-- The physical range of an element that is loaded; one that partly overlaps a buffered store waits (R554, R555). -/
def elemLoad (t : Tandem) (ea sz : Nat) : Cm (Phys × Region) := do
  let ring := ((← get).cpu t).ring
  let p ← translate t (if sz = 2 then .capLoad else .load) .noDev ring ea (szBytes sz)
  waitOverlap t p.1 (szBytes sz)
  pure p

/-- The value of an element that is loaded as data (R336): UNWRITTEN and POISON fault at the element. -/
def elemValue (t : Tandem) (r : CReg) (sz : Nat) : Cm W64 := do
  let ea ← elemAt t r pLD sz false
  let (ph, rg) ← elemLoad t ea sz
  let v ← loadValue t ph rg false (szBytes sz) ea false
  match v.tag with
  | .unwritten => raiseAt 0 dUNWRITTEN ea
  | .poison => raiseAt 0 dPOISON ea
  | _ => pure v.bits

/-- Store an element of data at cd (R335, R336). `noPoison`: SWEEP.POISON never raises TAG_POISON. -/
def elemStore (t : Tandem) (ea sz : Nat) (v : TWord) (noPoison : Bool) : Cm Unit := do
  let ring := ((← get).cpu t).ring
  let (ph, _) ← translate t .store .noDev ring ea (szBytes sz)
  if noPoison then storeLine t (ph.lo / 8) ea else targetTag t (ph.lo / 8) (sz != 0) ea
  ledgerAdmit t ea [ph.lo / 8]
  pushStore t ⟨ph.lo, bytesOf (szBytes sz) v.bits.toNat, if sz = 0 then .part else .whole v.tag⟩

/-- One element of SWEEP.COPY with SZ 0 or 1 (R335). [log 134 DESIGN CHOICE] -/
def copyElem (t : Tandem) (sz : Nat) (cd cs : CReg) : Cm Elem := do
  let ea ← elemAt t cs pLD sz false
  let (ph, rg) ← elemLoad t ea sz
  let v ← loadValue t ph rg false (szBytes sz) ea false
  if sz = 0 then
    match v.tag with
    | .unwritten => raiseAt 0 dUNWRITTEN ea
    | .poison => raiseAt 0 dPOISON ea
    | _ => pure ()
  let da ← elemAt t cd pST sz false
  elemStore t da sz v false
  pure .done

/-- The tag that SWEEP.COPY gives a copied word (R335): a data load's (R216). -/
def copyTag (w : TWord) : TWord :=
  match w.tag with
  | .capa | .capb => ⟨.bytes, w.bits⟩
  | .unwritten => .unwritten
  | .poison => .poison
  | _ => w

/-- One element of SWEEP.COPY with SZ 2 (R335): a pair that a capability load makes VALID is copied as a capability, any other
pair word by word; both words are written as one unit. -/
def copyPair (t : Tandem) (cd cs : CReg) : Cm Elem := do
  let ea ← elemAt t cs (pLD + pLDC) 2 false
  let (ph, rg) ← elemLoad t ea 2
  readMem t rg false ph 16 ea
  let s ← get
  let p := s.pairAt t ph.lo
  match capOfPair p.1 p.2 with
  | none => corrupt ea
  | some c => do
    let da ← elemAt t cd (pST + pSTC) 2 c.tethered
    let ring := ((← get).cpu t).ring
    let (dh, dr) ← translate t .capStore .noDev ring da 16
    durCheck c dr da
    targetTag t (dh.lo / 8) true da
    targetTag t (dh.lo / 8 + 1) true da
    ledgerAdmit t da [dh.lo / 8, dh.lo / 8 + 1]
    let ent : SbEnt :=
      if c.st = .valid then capEntry dh.lo c
      else
        let x := copyTag p.1
        let y := copyTag p.2
        ⟨dh.lo, bytesOf 8 x.bits.toNat ++ bytesOf 8 y.bits.toNat, .pair x.tag y.tag⟩
    pushStore t ent
    pure .done

def execSweepCopy (t : Tandem) (sz : Fin 3) (cd cs : CReg) (gc : Reg) (limit : Option Nat) (s : State) : Out :=
  .next (sweep t (sweepWord 0 sz.val cd.val cs.val gc.val 0 0) gc none [cd, cs] (szBytes sz.val)
    (if sz.val = 2 then copyPair t cd cs else copyElem t sz.val cd cs) (pure ()) limit s)

/-- One element of SWEEP.FILL: gv[7:0], or gv with its tag (Table 7-2). -/
def fillElem (t : Tandem) (sz : Nat) (cd : CReg) (gv : Reg) : Cm Elem := do
  let v ← rawG t gv
  let da ← elemAt t cd pST sz false
  elemStore t da sz v false
  pure .done

def execSweepFill (t : Tandem) (sz : Fin 2) (cd : CReg) (gc gv : Reg) (limit : Option Nat) (s : State) : Out :=
  .next (sweep t (sweepWord 1 sz.val cd.val 0 gc.val gv.val 0) gc (some gv) [cd] (szBytes sz.val)
    (fillElem t sz.val cd gv) (pure ()) limit s)

/-- SWEEP.POISON needs ST and never raises TAG_POISON (R336). -/
def execSweepPoison (t : Tandem) (cd : CReg) (gc : Reg) (limit : Option Nat) (s : State) : Out :=
  .next (sweep t (sweepWord 1 1 cd.val 0 gc.val 0 1) gc none [cd] 8
    (do
      let da ← elemAt t cd pST 1 false
      elemStore t da 1 .poison true
      pure .done) (pure ()) limit s)

/-- One element of SWEEP.CMP: unsigned; a difference ends the operation with gv 1 or all ones (Table 7-2). -/
def cmpElem (t : Tandem) (sz : Nat) (cd cs : CReg) (gv : Reg) : Cm Elem := do
  let x ← elemValue t cd sz
  let y ← elemValue t cs sz
  if x = y then pure .done
  else do
    putInt t gv (if y.ult x then 1 else BitVec.allOnes 64)
    pure .stop

def execSweepCmp (t : Tandem) (sz : Fin 2) (cd cs : CReg) (gc gv : Reg) (limit : Option Nat) (s : State) : Out :=
  .next (sweep t (sweepWord 2 sz.val cd.val cs.val gc.val gv.val 0) gc none [cd, cs] (szBytes sz.val)
    (cmpElem t sz.val cd cs gv) (putInt t gv 0) limit s)

/-- One element of SWEEP.FIND and SWEEP.FINDNE: equal, or different, ends the operation (Table 7-2). -/
def findElem (t : Tandem) (sz : Nat) (cs : CReg) (gv : Reg) (ne : Bool) : Cm Elem := do
  let x ← elemValue t cs sz
  let g ← rawG t gv
  let y := if sz = 0 then w64 (g.bits.toNat % 256) else g.bits
  pure (if (x == y) != ne then .stop else .done)

def execSweepFind (t : Tandem) (sz : Fin 2) (cs : CReg) (gc gv : Reg) (limit : Option Nat) (s : State) : Out :=
  .next (sweep t (sweepWord 3 sz.val 0 cs.val gc.val gv.val 0) gc (some gv) [cs] (szBytes sz.val)
    (findElem t sz.val cs gv false) (pure ()) limit s)

def execSweepFindne (t : Tandem) (sz : Fin 2) (cs : CReg) (gc gv : Reg) (limit : Option Nat) (s : State) : Out :=
  .next (sweep t (sweepWord 3 sz.val 0 cs.val gc.val gv.val 1) gc (some gv) [cs] (szBytes sz.val)
    (findElem t sz.val cs gv true) (pure ()) limit s)

/-- One element of SWEEP.CRC: the byte, or the 8 bytes from the lowest address upward (Table 7-2). -/
def crcElem (t : Tandem) (sz : Nat) (cs : CReg) (gv : Reg) (k : Fin 4) : Cm Elem := do
  let c ← crcCfg t k
  let x ← elemValue t cs sz
  let g ← rawG t gv
  putInt t gv (w64 (crcBytes c (g.bits.toNat % 2 ^ c.width) (bytesOf (szBytes sz) x.toNat)))
  pure .done

def execSweepCrc (t : Tandem) (sz : Fin 2) (cs : CReg) (gc gv : Reg) (k : Fin 4) (limit : Option Nat) (s : State) : Out :=
  .next (sweep t (sweepWord 4 sz.val k.val cs.val gc.val gv.val 0) gc (some gv) [cs] (szBytes sz.val)
    (crcElem t sz.val cs gv k) (pure ()) limit s)

end Sys2Proof.Machine
end

