-- ==== Sys2Proof/Machine/Tlb.lean ====
section
/-! DEFINITION. The TLB instructions (R515 to R519) and the scheduler instructions and events (R478 to R486, R491 to R493). -/

namespace Sys2Proof.Machine

/-! TLB instructions. -/

/-- A staging register that holds UNWRITTEN or POISON faults with SRCKIND 3 (R515, R518). -/
def staging (v : TWord) : Cm W64 := needData v 3 0

/-- The conditions of R515 on an entry. -/
def tlbEntryOk (hi lo : W64) : Bool :=
  let sz := wf hi 44 6
  decide (12 ≤ sz ∧ sz ≤ 44) && decide (wf hi 12 32 * 2 ^ 12 % 2 ^ sz = 0) && decide (wf lo 12 28 * 2 ^ 12 % 2 ^ (min sz 40) = 0) &&
    decide (wf lo 0 3 ≤ 4) && wf hi 50 3 == 0 && wf hi 0 12 == 0 && wf lo 40 24 == 0 && wf lo 10 2 == 0 && wf lo 3 2 == 0

/-- A rejected TLB write: all ones in gd, and XSTAT.REJ (R515). -/
def tlbReject (t : Tandem) (gd : Reg) : Cm Unit := do
  modify fun s => s.modCpu t fun c => { c with xrej := satAdd 0xFFFF c.xrej 1 }
  putInt t gd (BitVec.allOnes 64)

/-- Write the staging registers into an entry, or reject (R515). -/
def tlbWrite (t : Tandem) (gd : Reg) (hi lo : W64) (idx : Option Nat) (adv : Bool) : Cm Unit := do
  match idx with
  | none => tlbReject t gd
  | some i =>
    if 127 < i ∨ tlbEntryOk hi lo = false then tlbReject t gd
    else do
      modify fun s => (s.heal fun x => match x with
        | .tlb m n => m.tandem == t && n == i
        | _ => false).modCpu t fun c =>
        { c with tlb := tset none c.tlb i (some ⟨hi, lo⟩), xwptr := if adv then (i + 1) % 128 else c.xwptr }
      putInt t gd (w64 i)

/-- XSET (R515, R516). -/
def execXset (m : Side) (gd gs : Reg) (s : State) : Out :=
  let t := m.tandem
  .next (plainWord t (do
    let v ← srcG t gs
    needSys0 t
    let c := (← get).cpu t
    let hi ← staging c.tlbhi
    let lo ← staging c.tlblo
    tlbWrite t gd hi lo (some v.toNat) false) s)

/-- The first entry whose LOCK is 0, searching upward from XWPTR (R517). -/
def Cpu.nextUnlocked (c : Cpu) : Option Nat :=
  ((List.range 128).map fun k => (c.xwptr + k) % 128).find? fun i =>
    match tget none c.tlb i with
    | some e => !e.lock
    | none => true

/-- XSETN (R517). -/
def execXsetn (m : Side) (gd : Reg) (s : State) : Out :=
  let t := m.tandem
  .next (plainWord t (do
    needSys0 t
    let c := (← get).cpu t
    let hi ← staging c.tlbhi
    let lo ← staging c.tlblo
    tlbWrite t gd hi lo c.nextUnlocked true) s)

/-- An index above 127 changes nothing but XSTAT.REJ (R516). -/
def tlbIndex (t : Tandem) (v : W64) (f : Nat → Cpu → Cpu) : Cm Unit := modify fun s => s.modCpu t fun c =>
  if 127 < v.toNat then { c with xrej := satAdd 0xFFFF c.xrej 1 } else f v.toNat c

/-- XREAD (R516, R537); it meets an error of its entry (R534). -/
def execXread (m : Side) (gs : Reg) (s : State) : Out :=
  let t := m.tandem
  .next (plainWord t (do
    let v ← srcG t gs
    needSys0 t
    if v.toNat ≤ 127 then tlbCheck m .load 0 v.toNat
    tlbIndex t v fun i c => match tget none c.tlb i with
      | some e => { c with tlbhi := .int e.hi, tlblo := .int e.lo }
      | none => { c with tlbhi := .unwritten, tlblo := .unwritten }) s)

/-- XLOOK (R518): it searches the unified TLB and meets its errors (R534). -/
def execXlook (m : Side) (gd : Reg) (s : State) : Out :=
  let t := m.tandem
  .next (plainWord t (do
    needSys0 t
    let hi ← staging ((← get).cpu t).tlbhi
    tlbScan m .load 0
    let c := (← get).cpu t
    match c.matches (wf hi 56 8) (wf hi 12 32 * 2 ^ 12) with
    | [] => putInt t gd (BitVec.allOnes 64)
    | p :: r => putInt t gd (w64 (p.1 + (if r.isEmpty then 0 else 256)))) s)

def execXkill (m : Side) (gs : Reg) (s : State) : Out :=
  let t := m.tandem
  .next (plainWord t (do
    let v ← srcG t gs
    needSys0 t
    tlbIndex t v fun i c => { c with tlb := tmod none c.tlb i fun e => e.map TlbEnt.kill }) s)

/-- Invalidate the entries of a tandem that satisfy `p`. -/
def killWhere (t : Tandem) (p : TlbEnt → Bool) : Cm Unit := modify fun s => s.modCpu t fun c =>
  { c with tlb := c.tlb.map fun q => (q.1, q.2.map fun e => if p e then e.kill else e) }

/-- XKILLA: G = 0 and ASID = gs[7:0] (R531). -/
def execXkilla (m : Side) (gs : Reg) (s : State) : Out :=
  let t := m.tandem
  .next (plainWord t (do
    let v ← srcG t gs
    needSys0 t
    killWhere t fun e => !e.g && e.asid == v.toNat % 256) s)

def execXkillall (m : Side) (s : State) : Out :=
  .next (plainWord m.tandem (do
    needSys0 m.tandem
    killWhere m.tandem fun _ => true) s)

/-! Scheduler instructions. -/

/-- An instruction without effect is counted (R491). -/
def Sch.bad (h : Sch) : Sch := { h with badop := satAdd 0xFF h.badop 1 }

/-- YIELD and WAIT act only with EN = 1, at CPL 0, in the running context's locker (R491). -/
def State.ctxCode? (s : State) (m : Side) : Option (Fin 64) :=
  let h := s.sch m
  let c := s.cpu m.tandem
  if h.en && c.cpl == 0 && c.cur == h.runlk then h.running else none

/-- YIELD: a switch becomes due while a READY context of equal or higher PRI exists (R482, R494). -/
def execYield (m : Side) (s : State) : Out :=
  .next (runWord m.tandem .long false (do
    let s ← get
    match s.ctxCode? m with
    | none => set (s.modSch m Sch.bad)
    | some k =>
      if (s.sch m).readyAt ((s.sch m).getCtx k.val).pri then set (s.modSch m fun h => { h with yielded := true })
    pure .next) s)

/-- WAIT: PEND clears and the word completes, or the context blocks at the WAIT word (R481); one that is FAULTED stays so
(R499). -/
def execWait (m : Side) (s : State) : Out :=
  .next (runWord m.tandem .long false (do
    let s ← get
    match s.ctxCode? m with
    | none => do
      set (s.modSch m Sch.bad)
      pure .next
    | some k =>
      if ((s.sch m).getCtx k.val).pend then do
        set (s.modSch m fun h => h.modCtx k.val fun c => { c with pend := false })
        pure .next
      else do
        set ((s.modSch m fun h => h.modCtx k.val fun c =>
          { c with st := if c.st = .faulted then .faulted else .blocked }).modCpu m.tandem fun c =>
          { c with wait := .parked })
        pure .stay) s)

/-- The context number in a g register: bits [5:0]. -/
def ctxOf (v : W64) : Fin 64 := ⟨v.toNat % 64, by omega⟩

/-- WAKE (R480, R491). -/
def execWake (m : Side) (g : Reg) (s : State) : Out :=
  .next (plainWord m.tandem (do
    let v ← srcG m.tandem g
    needSys m.tandem
    modify fun s => if (s.sch m).en then s.wake m (ctxOf v) else s.modSch m Sch.bad) s)

/-- CTXINIT (R492): the tag of g, the source checks and EX, then SYS and ring 0. -/
def execCtxinit (m : Side) (g : Reg) (cs ca : CReg) (s : State) : Out :=
  let t := m.tandem
  .next (plainWord t (do
    let v ← srcG t g
    let c ← rawC t cs
    if c.st = .unwritten then raiseSrc 0 dUNWRITTEN 1 cs.val
    else if c.st ≠ .valid then raiseSrc 1 dINVALID 1 cs.val
    else if c.sealed then raiseSrc 1 dSEALED 1 cs.val
    else if !c.has pEX then raise 1 dPERM
    else do
      needSys0 t
      let a ← rawC t ca
      let k := ctxOf v
      modify fun s => s.modSch m fun h =>
        let x := h.getCtx k.val
        if x.st ≠ .free then h.bad
        else h.setCtx k.val { x with
          st := .blocked, pend := false, res := none,
          slot := { Locker.blank with pcc := c, c := tset .unwritten [] 14 a, fcsr := .int 0, qstat := .int 0 } }) s)

/-- CTXKILL (R493). -/
def execCtxkill (m : Side) (g : Reg) (s : State) : Out :=
  let t := m.tandem
  .next (plainWord t (do
    let v ← srcG t g
    needSys0 t
    let k := ctxOf v
    modify fun s => s.modSch m fun h =>
      if h.isRunning k then h.bad
      else
        let h := h.schedLockers.foldl (fun h n =>
          let l := h.getLk n.val
          h.setLk n.val { l with occ := if l.occ = some k then none else l.occ,
                                 fpown := if l.fpown = some k then none else l.fpown }) h
        { h.modCtx k.val fun x =>
            { x with st := .free, pend := false, merge := 0, pin := false, res := none,
                     slot := { x.slot with f := [], fcsr := .unwritten } } with
          queue := h.queue.filter fun j => decide (j ≠ k) }) s)

/-! Scheduler events. -/

/-- SLICE_EXPIRY (R484). -/
def execSliceExpiry (m : Side) (s : State) : Out := .next (s.rooted fun s => s.sliceExpiry m)

/-- SCHEDULER_SWITCH: a due switch at an allowed boundary, at CPL 0, with no glide, in the running context's locker (R482). -/
def execSchedulerSwitch (m : Side) (bankErr : Bool) (s : State) : Out :=
  .next (
    let c := s.cpu m.tandem
    if c.atBoundary && s.clk.crystal && c.cpl == 0 && c.glide == 0 && c.cur == (s.sch m).runlk && s.switchDue m then
      let s := if c.wait == .parked then s else s.modCpu m.tandem fun c => { c with wait := .none }
      (s.event m.tandem 0x0D 1).switchTo m bankErr
    else s)

/-! Store-buffer events. -/

/-- Another tandem's hold keeps a write to its line waiting (R343). -/
def State.heldFor (s : State) (t : Tandem) (a : Nat) : Bool :=
  [Tandem.a, .b, .g].any fun u => decide (u ≠ t) && (s.cpu u).hold == some (a / 64)

/-- STORE_BUFFER_DRAIN: the head entry drains (R553); it waits while another tandem's hold covers its line. -/
def execStoreBufferDrain (t : Tandem) (s : State) : Out :=
  .next (
    let c := s.cpu t
    match c.sb with
    | [] => s
    | e :: _ =>
      if c.run == .running && s.clk.crystal && !(e.tag != .dev && s.heldFor t e.addr) then
        (s.drainHead t).event t 0x04 (b2n (decide (sbCap t ≤ c.sb.length)))
      else s)

/-- LOAD_OVERLAP_RESUME: the entries, the unit reset or the xSPI command that the load, or the read of a register, waits for
have left, and it reads (R190, R555, R556, R577). -/
def execLoadOverlapResume (t : Tandem) (s : State) : Out :=
  .next (
    let c := s.cpu t
    match c.wait with
    | .load q =>
      let go := c.run == .running && s.clk.crystal && !c.loadWaits q.dev q.phys q.size && !(q.dev && s.stalls t q.phys.lo)
      let s1 := s.modCpu t fun c => { c with wait := .none }
      match go, s.regionOf t q.phys.lo q.phys.n with
      | false, _ => s
      | true, none => takeFault t ⟨3, 0x40, 3, 0, false, q.va⟩ s1
      | true, some r =>
        if s.windowWaits t r q.phys q.size && !q.turn then s
        else match (finishLoad t q r).run s1 with
          | .ok _ s' => retire t c { ring := c.ring, retired := true } .next s'
          | .error e s' => if e = Exc.waits then s else takeFault t e s'
    | .read b off => if c.run == .running && s.clk.crystal then s.readResume t b off else s
    | _ => s)

end Sys2Proof.Machine
end

