-- ==== Sys2Proof/Machine/Dispatch.lean ====
section
/-! DEFINITION. The meaning of every command, one arm each: the command's effect on everything but the queue. -/

namespace Sys2Proof.Machine

def exec (i : Instr) (s : State) : Host.Outcome State Fault Refusal :=
  match i with
  | .powerGood => Sys2Proof.Machine.execPowerGood s
  | .powerReset => Sys2Proof.Machine.execPowerReset s
  | .fuseLoadEnd errs metaBad => Sys2Proof.Machine.execFuseLoadEnd errs metaBad s
  | .slotHeaderCheck failA failB => Sys2Proof.Machine.execSlotHeaderCheck failA failB s
  | .imageVerify readFail => Sys2Proof.Machine.execImageVerify readFail s
  | .applyRecords dramA dramB xspiA xspiB => Sys2Proof.Machine.execApplyRecords dramA dramB xspiA xspiB s
  | .loadRecords misread => Sys2Proof.Machine.execLoadRecords misread s
  | .ledgerRecoveryEnd bad us => Sys2Proof.Machine.execLedgerRecoveryEnd bad us s
  | .release => Sys2Proof.Machine.execRelease s
  | .nfcmakerMirror => Sys2Proof.Machine.execNfcmakerMirror s
  | .preReleaseCharacter uart ch => Sys2Proof.Machine.execPreReleaseCharacter uart ch s
  | .lockstepMismatch t => Sys2Proof.Machine.execLockstepMismatch t s
  | .canTxCompareMismatch c m => Sys2Proof.Machine.execCanTxCompareMismatch c m s
  | .frequencyMonitorWindow fab rc => Sys2Proof.Machine.execFrequencyMonitorWindow fab rc s
  | .clockEdgeLoss which => Sys2Proof.Machine.execClockEdgeLoss which s
  | .rcReferenceStopped => Sys2Proof.Machine.execRcReferenceStopped s
  | .supplyOutOfLimits rail => Sys2Proof.Machine.execSupplyOutOfLimits rail s
  | .overTemperature cmp => Sys2Proof.Machine.execOverTemperature cmp s
  | .laneDisagreement => Sys2Proof.Machine.execLaneDisagreement s
  | .wardenDecision => Sys2Proof.Machine.execWardenDecision s
  | .watchdogService who t val => Sys2Proof.Machine.execWatchdogService who t val s
  | .watchdogExpiry t => Sys2Proof.Machine.execWatchdogExpiry t s
  | .watchdogConfigWrite who t val => Sys2Proof.Machine.execWatchdogConfigWrite who t val s
  | .watchdogLock who t val => Sys2Proof.Machine.execWatchdogLock who t val s
  | .safeOutputHalfPeriod => Sys2Proof.Machine.execSafeOutputHalfPeriod s
  | .safeOutputReadbackMismatch out => Sys2Proof.Machine.execSafeOutputReadbackMismatch out s
  | .testPulseStart ch => Sys2Proof.Machine.execTestPulseStart ch s
  | .testPulseEnd ch => Sys2Proof.Machine.execTestPulseEnd ch s
  | .estopChannelChange ch closed => Sys2Proof.Machine.execEstopChannelChange ch closed s
  | .estopPulseError ch => Sys2Proof.Machine.execEstopPulseError ch s
  | .estopDiscrepancy => Sys2Proof.Machine.execEstopDiscrepancy s
  | .rearm who => Sys2Proof.Machine.execRearm who s
  | .swstop who => Sys2Proof.Machine.execSwstop who s
  | .patrolTest mech good => Sys2Proof.Machine.execPatrolTest mech good s
  | .patrolSweepEnd => Sys2Proof.Machine.execPatrolSweepEnd s
  | .patrolOverrun => Sys2Proof.Machine.execPatrolOverrun s
  | .patrolPauseWrite who val => Sys2Proof.Machine.execPatrolPauseWrite who val s
  | .patrolInjectWrite who val => Sys2Proof.Machine.execPatrolInjectWrite who val s
  | .holdCommand who val => Sys2Proof.Machine.execHoldCommand who val s
  | .warmResetCommand who val => Sys2Proof.Machine.execWarmResetCommand who val s
  | .warmReset => Sys2Proof.Machine.execWarmReset s
  | .drainEnd => Sys2Proof.Machine.execDrainEnd s
  | .drainTimeout => Sys2Proof.Machine.execDrainTimeout s
  | .clkGateSetWrite who val => Sys2Proof.Machine.execClkGateSetWrite who val s
  | .clkGateClrWrite who val => Sys2Proof.Machine.execClkGateClrWrite who val s
  | .gatingTakesEffect => Sys2Proof.Machine.execGatingTakesEffect s
  | .unitReset who val => Sys2Proof.Machine.execUnitReset who val s
  | .unitResetEnd unit => Sys2Proof.Machine.execUnitResetEnd unit s
  | .pllLockLoss => Sys2Proof.Machine.execPllLockLoss s
  | .pllRelock => Sys2Proof.Machine.execPllRelock s
  | .crystalStop => Sys2Proof.Machine.execCrystalStop s
  | .vinSenseTrip => Sys2Proof.Machine.execVinSenseTrip s
  | .holdokFall => Sys2Proof.Machine.execHoldokFall s
  | .runOutRecord durus => Sys2Proof.Machine.execRunOutRecord durus s
  | .runOutPowerGood => Sys2Proof.Machine.execRunOutPowerGood s
  | .ill t => Sys2Proof.Machine.execIll t s
  | .pairWord t h1 h2 => Sys2Proof.Machine.execPairWord t h1 h2 s
  | .emulationTrap t word => Sys2Proof.Machine.execEmulationTrap t word s
  | .add t gd gs1 gs2 => Sys2Proof.Machine.execAdd t gd gs1 gs2 s
  | .sub t gd gs1 gs2 => Sys2Proof.Machine.execSub t gd gs1 gs2 s
  | .and_ t gd gs1 gs2 => Sys2Proof.Machine.execAnd t gd gs1 gs2 s
  | .or_ t gd gs1 gs2 => Sys2Proof.Machine.execOr t gd gs1 gs2 s
  | .xor_ t gd gs1 gs2 => Sys2Proof.Machine.execXor t gd gs1 gs2 s
  | .andn t gd gs1 gs2 => Sys2Proof.Machine.execAndn t gd gs1 gs2 s
  | .orn t gd gs1 gs2 => Sys2Proof.Machine.execOrn t gd gs1 gs2 s
  | .xnor t gd gs1 gs2 => Sys2Proof.Machine.execXnor t gd gs1 gs2 s
  | .sll t gd gs1 gs2 => Sys2Proof.Machine.execSll t gd gs1 gs2 s
  | .srl t gd gs1 gs2 => Sys2Proof.Machine.execSrl t gd gs1 gs2 s
  | .sra t gd gs1 gs2 => Sys2Proof.Machine.execSra t gd gs1 gs2 s
  | .ror t gd gs1 gs2 => Sys2Proof.Machine.execRor t gd gs1 gs2 s
  | .slt t gd gs1 gs2 => Sys2Proof.Machine.execSlt t gd gs1 gs2 s
  | .sltu t gd gs1 gs2 => Sys2Proof.Machine.execSltu t gd gs1 gs2 s
  | .min t gd gs1 gs2 => Sys2Proof.Machine.execMin t gd gs1 gs2 s
  | .max t gd gs1 gs2 => Sys2Proof.Machine.execMax t gd gs1 gs2 s
  | .minu t gd gs1 gs2 => Sys2Proof.Machine.execMinu t gd gs1 gs2 s
  | .maxu t gd gs1 gs2 => Sys2Proof.Machine.execMaxu t gd gs1 gs2 s
  | .mul t gd gs1 gs2 => Sys2Proof.Machine.execMul t gd gs1 gs2 s
  | .mulhs t gd gs1 gs2 => Sys2Proof.Machine.execMulhs t gd gs1 gs2 s
  | .mulhu t gd gs1 gs2 => Sys2Proof.Machine.execMulhu t gd gs1 gs2 s
  | .mulhsu t gd gs1 gs2 => Sys2Proof.Machine.execMulhsu t gd gs1 gs2 s
  | .clz t gd gs => Sys2Proof.Machine.execClz t gd gs s
  | .ctz t gd gs => Sys2Proof.Machine.execCtz t gd gs s
  | .popc t gd gs => Sys2Proof.Machine.execPopc t gd gs s
  | .sextb t gd gs => Sys2Proof.Machine.execSextb t gd gs s
  | .sexth t gd gs => Sys2Proof.Machine.execSexth t gd gs s
  | .sextw t gd gs => Sys2Proof.Machine.execSextw t gd gs s
  | .zextw t gd gs => Sys2Proof.Machine.execZextw t gd gs s
  | .stag t gd gs tag => Sys2Proof.Machine.execStag t gd gs tag s
  | .gtag t gd gs => Sys2Proof.Machine.execGtag t gd gs s
  | .mov t gd gs => Sys2Proof.Machine.execMov t gd gs s
  | .movfg m gd fs => Sys2Proof.Machine.execMovfg m gd fs s
  | .movgf m fd gs => Sys2Proof.Machine.execMovgf m fd gs s
  | .addi t gd gs imm => Sys2Proof.Machine.execAddi t gd gs imm s
  | .andi t gd gs imm => Sys2Proof.Machine.execAndi t gd gs imm s
  | .ori t gd gs imm => Sys2Proof.Machine.execOri t gd gs imm s
  | .xori t gd gs imm => Sys2Proof.Machine.execXori t gd gs imm s
  | .slli t gd gs sh => Sys2Proof.Machine.execSlli t gd gs sh s
  | .srli t gd gs sh => Sys2Proof.Machine.execSrli t gd gs sh s
  | .srai t gd gs sh => Sys2Proof.Machine.execSrai t gd gs sh s
  | .rori t gd gs sh => Sys2Proof.Machine.execRori t gd gs sh s
  | .slti t gd gs imm => Sys2Proof.Machine.execSlti t gd gs imm s
  | .sltiu t gd gs imm => Sys2Proof.Machine.execSltiu t gd gs imm s
  | .movi t gd imm => Sys2Proof.Machine.execMovi t gd imm s
  | .insh t gd k imm => Sys2Proof.Machine.execInsh t gd k imm s
  | .lbu t gd cs addr => Sys2Proof.Machine.execLbu t gd cs addr s
  | .lhu t gd cs addr => Sys2Proof.Machine.execLhu t gd cs addr s
  | .lwu t gd cs addr => Sys2Proof.Machine.execLwu t gd cs addr s
  | .ld t gd cs addr => Sys2Proof.Machine.execLd t gd cs addr s
  | .lb t gd cs addr => Sys2Proof.Machine.execLb t gd cs addr s
  | .lh t gd cs addr => Sys2Proof.Machine.execLh t gd cs addr s
  | .lw t gd cs addr => Sys2Proof.Machine.execLw t gd cs addr s
  | .sb t gs cs addr => Sys2Proof.Machine.execSb t gs cs addr s
  | .sh t gs cs addr => Sys2Proof.Machine.execSh t gs cs addr s
  | .sw t gs cs addr => Sys2Proof.Machine.execSw t gs cs addr s
  | .sd t gs cs addr => Sys2Proof.Machine.execSd t gs cs addr s
  | .fld m fd cs off => Sys2Proof.Machine.execFld m fd cs off s
  | .fst m fs cs off => Sys2Proof.Machine.execFst m fs cs off s
  | .clc t cd cs off => Sys2Proof.Machine.execClc t cd cs off s
  | .csc t c cs off => Sys2Proof.Machine.execCsc t c cs off s
  | .spois t cs off => Sys2Proof.Machine.execSpois t cs off s
  | .clrp t cs off => Sys2Proof.Machine.execClrp t cs off s
  | .beq t gs1 gs2 disp => Sys2Proof.Machine.execBeq t gs1 gs2 disp s
  | .bne t gs1 gs2 disp => Sys2Proof.Machine.execBne t gs1 gs2 disp s
  | .blt t gs1 gs2 disp => Sys2Proof.Machine.execBlt t gs1 gs2 disp s
  | .bge t gs1 gs2 disp => Sys2Proof.Machine.execBge t gs1 gs2 disp s
  | .bltu t gs1 gs2 disp => Sys2Proof.Machine.execBltu t gs1 gs2 disp s
  | .bgeu t gs1 gs2 disp => Sys2Proof.Machine.execBgeu t gs1 gs2 disp s
  | .bset t gs1 gs2 disp => Sys2Proof.Machine.execBset t gs1 gs2 disp s
  | .bclr t gs1 gs2 disp => Sys2Proof.Machine.execBclr t gs1 gs2 disp s
  | .beqi t gs imm disp => Sys2Proof.Machine.execBeqi t gs imm disp s
  | .bnei t gs imm disp => Sys2Proof.Machine.execBnei t gs imm disp s
  | .blti t gs imm disp => Sys2Proof.Machine.execBlti t gs imm disp s
  | .bgei t gs imm disp => Sys2Proof.Machine.execBgei t gs imm disp s
  | .bltui t gs imm disp => Sys2Proof.Machine.execBltui t gs imm disp s
  | .bgeui t gs imm disp => Sys2Proof.Machine.execBgeui t gs imm disp s
  | .bseti t gs imm disp => Sys2Proof.Machine.execBseti t gs imm disp s
  | .bclri t gs imm disp => Sys2Proof.Machine.execBclri t gs imm disp s
  | .j t disp => Sys2Proof.Machine.execJ t disp s
  | .jal t disp => Sys2Proof.Machine.execJal t disp s
  | .jalr t gd gs => Sys2Proof.Machine.execJalr t gd gs s
  | .jalc t cd cs => Sys2Proof.Machine.execJalc t cd cs s
  | .wcall t cs => Sys2Proof.Machine.execWcall t cs s
  | .wret t cs => Sys2Proof.Machine.execWret t cs s
  | .eret t cs => Sys2Proof.Machine.execEret t cs s
  | .eretS t cs => Sys2Proof.Machine.execEretS t cs s
  | .sysrd t gd sreg => Sys2Proof.Machine.execSysrd t gd sreg s
  | .syswr t sreg gs => Sys2Proof.Machine.execSyswr t sreg gs s
  | .vtabWrite t gs limit bad => Sys2Proof.Machine.execVtabWrite t gs limit bad s
  | .vrldWrite t gs bad => Sys2Proof.Machine.execVrldWrite t gs bad s
  | .iectlWrite t gs => Sys2Proof.Machine.execIectlWrite t gs s
  | .estatWrite t gs => Sys2Proof.Machine.execEstatWrite t gs s
  | .xctlWrite m gs => Sys2Proof.Machine.execXctlWrite m gs s
  | .cmov t cd src => Sys2Proof.Machine.execCmov t cd src s
  | .cinc t cd cs gs => Sys2Proof.Machine.execCinc t cd cs gs s
  | .csetcur t cd cs gs => Sys2Proof.Machine.execCsetcur t cd cs gs s
  | .knarrow t cd cs gs => Sys2Proof.Machine.execKnarrow t cd cs gs s
  | .knarrowX t cd cs gs => Sys2Proof.Machine.execKnarrowX t cd cs gs s
  | .candperm t cd cs gs => Sys2Proof.Machine.execCandperm t cd cs gs s
  | .csetring t cd cs gs => Sys2Proof.Machine.execCsetring t cd cs gs s
  | .ktether t cd cs => Sys2Proof.Machine.execKtether t cd cs s
  | .cseal t cd cs ca => Sys2Proof.Machine.execCseal t cd cs ca s
  | .cunseal t cd cs ca => Sys2Proof.Machine.execCunseal t cd cs ca s
  | .cdur t cd cs => Sys2Proof.Machine.execCdur t cd cs s
  | .cgetbase t gd cs => Sys2Proof.Machine.execCgetbase t gd cs s
  | .cgetlen t gd cs => Sys2Proof.Machine.execCgetlen t gd cs s
  | .cgettop t gd cs => Sys2Proof.Machine.execCgettop t gd cs s
  | .cgetperm t gd cs => Sys2Proof.Machine.execCgetperm t gd cs s
  | .cgettype t gd cs => Sys2Proof.Machine.execCgettype t gd cs s
  | .cgetcur t gd cs => Sys2Proof.Machine.execCgetcur t gd cs s
  | .cgetstate t gd cs => Sys2Proof.Machine.execCgetstate t gd cs s
  | .csubset t gd ca cb => Sys2Proof.Machine.execCsubset t gd ca cb s
  | .kfitlen t gd gs => Sys2Proof.Machine.execKfitlen t gd gs s
  | .kfitmask t gd gs => Sys2Proof.Machine.execKfitmask t gd gs s
  | .cinci t cd cs imm => Sys2Proof.Machine.execCinci t cd cs imm s
  | .knarrowi t cd cs imm => Sys2Proof.Machine.execKnarrowi t cd cs imm s
  | .sweepCopy t sz cd cs gc limit => Sys2Proof.Machine.execSweepCopy t sz cd cs gc limit s
  | .sweepFill t sz cd gc gv limit => Sys2Proof.Machine.execSweepFill t sz cd gc gv limit s
  | .sweepPoison t cd gc limit => Sys2Proof.Machine.execSweepPoison t cd gc limit s
  | .sweepCmp t sz cd cs gc gv limit => Sys2Proof.Machine.execSweepCmp t sz cd cs gc gv limit s
  | .sweepFind t sz cs gc gv limit => Sys2Proof.Machine.execSweepFind t sz cs gc gv limit s
  | .sweepFindne t sz cs gc gv limit => Sys2Proof.Machine.execSweepFindne t sz cs gc gv limit s
  | .sweepCrc t sz cs gc gv k limit => Sys2Proof.Machine.execSweepCrc t sz cs gc gv k limit s
  | .crcb t gd gs k => Sys2Proof.Machine.execCrcb t gd gs k s
  | .crcw t gd gs k => Sys2Proof.Machine.execCrcw t gd gs k s
  | .par t gd gs => Sys2Proof.Machine.execPar t gd gs s
  | .brev t gd gs => Sys2Proof.Machine.execBrev t gd gs s
  | .brevb t gd gs => Sys2Proof.Machine.execBrevb t gd gs s
  | .bswap t gd gs => Sys2Proof.Machine.execBswap t gd gs s
  | .lr t gd cs off => Sys2Proof.Machine.execLr t gd cs off s
  | .sc t gd gs cs off => Sys2Proof.Machine.execSc t gd gs cs off s
  | .tas t gd cs off => Sys2Proof.Machine.execTas t gd cs off s
  | .l2ReservationHoldEnd t => Sys2Proof.Machine.execL2ReservationHoldEnd t s
  | .div t gd gs1 gs2 => Sys2Proof.Machine.execDiv t gd gs1 gs2 s
  | .divu t gd gs1 gs2 => Sys2Proof.Machine.execDivu t gd gs1 gs2 s
  | .rem t gd gs1 gs2 => Sys2Proof.Machine.execRem t gd gs1 gs2 s
  | .remu t gd gs1 gs2 => Sys2Proof.Machine.execRemu t gd gs1 gs2 s
  | .fadd m p rm fd fs1 fs2 => Sys2Proof.Machine.execFadd m p rm fd fs1 fs2 s
  | .fsub m p rm fd fs1 fs2 => Sys2Proof.Machine.execFsub m p rm fd fs1 fs2 s
  | .fmul m p rm fd fs1 fs2 => Sys2Proof.Machine.execFmul m p rm fd fs1 fs2 s
  | .fdiv m p rm fd fs1 fs2 => Sys2Proof.Machine.execFdiv m p rm fd fs1 fs2 s
  | .fsqrt m p rm fd fs => Sys2Proof.Machine.execFsqrt m p rm fd fs s
  | .fmadd m p rm fd fs1 fs2 fs3 => Sys2Proof.Machine.execFmadd m p rm fd fs1 fs2 fs3 s
  | .fmsub m p rm fd fs1 fs2 fs3 => Sys2Proof.Machine.execFmsub m p rm fd fs1 fs2 fs3 s
  | .fnmadd m p rm fd fs1 fs2 fs3 => Sys2Proof.Machine.execFnmadd m p rm fd fs1 fs2 fs3 s
  | .fmin m p fd fs1 fs2 => Sys2Proof.Machine.execFmin m p fd fs1 fs2 s
  | .fmax m p fd fs1 fs2 => Sys2Proof.Machine.execFmax m p fd fs1 fs2 s
  | .fabs m p fd fs => Sys2Proof.Machine.execFabs m p fd fs s
  | .fneg m p fd fs => Sys2Proof.Machine.execFneg m p fd fs s
  | .fcvtp m p rm fd fs => Sys2Proof.Machine.execFcvtp m p rm fd fs s
  | .fcvtfi m p rm fd fs => Sys2Proof.Machine.execFcvtfi m p rm fd fs s
  | .fcvtif m p rm fd fs => Sys2Proof.Machine.execFcvtif m p rm fd fs s
  | .feq m p gd fs1 fs2 => Sys2Proof.Machine.execFeq m p gd fs1 fs2 s
  | .flt m p gd fs1 fs2 => Sys2Proof.Machine.execFlt m p gd fs1 fs2 s
  | .fle m p gd fs1 fs2 => Sys2Proof.Machine.execFle m p gd fs1 fs2 s
  | .fclass m p gd fs => Sys2Proof.Machine.execFclass m p gd fs s
  | .qadd t gd gs1 gs2 => Sys2Proof.Machine.execQadd t gd gs1 gs2 s
  | .qsub t gd gs1 gs2 => Sys2Proof.Machine.execQsub t gd gs1 gs2 s
  | .qmul t gd gs1 gs2 frac => Sys2Proof.Machine.execQmul t gd gs1 gs2 frac s
  | .qshl t gd gs frac => Sys2Proof.Machine.execQshl t gd gs frac s
  | .qabs t gd gs => Sys2Proof.Machine.execQabs t gd gs s
  | .qneg t gd gs => Sys2Proof.Machine.execQneg t gd gs s
  | .mld t gd cs md sz => Sys2Proof.Machine.execMld t gd cs md sz s
  | .mst t gs cs md sz => Sys2Proof.Machine.execMst t gs cs md sz s
  | .mstep t cs md sz => Sys2Proof.Machine.execMstep t cs md sz s
  | .fence t => Sys2Proof.Machine.execFence t s
  | .pfence t => Sys2Proof.Machine.execPfence t s
  | .iflush t => Sys2Proof.Machine.execIflush t s
  | .tbar t => Sys2Proof.Machine.execTbar t s
  | .xset m gd gs => Sys2Proof.Machine.execXset m gd gs s
  | .xsetn m gd => Sys2Proof.Machine.execXsetn m gd s
  | .xread m gs => Sys2Proof.Machine.execXread m gs s
  | .xlook m gd => Sys2Proof.Machine.execXlook m gd s
  | .xkill m gs => Sys2Proof.Machine.execXkill m gs s
  | .xkilla m gs => Sys2Proof.Machine.execXkilla m gs s
  | .xkillall m => Sys2Proof.Machine.execXkillall m s
  | .yield m => Sys2Proof.Machine.execYield m s
  | .wait m => Sys2Proof.Machine.execWait m s
  | .wake m g => Sys2Proof.Machine.execWake m g s
  | .ctxinit m g cs ca => Sys2Proof.Machine.execCtxinit m g cs ca s
  | .ctxkill m g => Sys2Proof.Machine.execCtxkill m g s
  | .frsv m => Sys2Proof.Machine.execFrsv m s
  | .frld m => Sys2Proof.Machine.execFrld m s
  | .exceptionEntry t cause => Sys2Proof.Machine.execExceptionEntry t cause s
  | .interruptEntry t shadowErr => Sys2Proof.Machine.execInterruptEntry t shadowErr s
  | .glideExpiry t => Sys2Proof.Machine.execGlideExpiry t s
  | .schedulerEnable who m val => Sys2Proof.Machine.execSchedulerEnable who m val s
  | .sourceWake m k => Sys2Proof.Machine.execSourceWake m k s
  | .sliceExpiry m => Sys2Proof.Machine.execSliceExpiry m s
  | .schedulerSwitch m bankErr => Sys2Proof.Machine.execSchedulerSwitch m bankErr s
  | .storeBufferDrain t => Sys2Proof.Machine.execStoreBufferDrain t s
  | .loadOverlapResume t => Sys2Proof.Machine.execLoadOverlapResume t s
  | .xspCommand who val => Sys2Proof.Machine.execXspCommand who val s
  | .xspCommandEnd rx changed => Sys2Proof.Machine.execXspCommandEnd rx changed s
  | .xspStrobeTimeout miss => Sys2Proof.Machine.execXspStrobeTimeout miss s
  | .dramRefresh => Sys2Proof.Machine.execDramRefresh s
  | .dramBackgroundClearBlock => Sys2Proof.Machine.execDramBackgroundClearBlock s
  | .sealStart us verifyFail => Sys2Proof.Machine.execSealStart us verifyFail s
  | .sealEnd => Sys2Proof.Machine.execSealEnd s
  | .epochCommit verifyFail => Sys2Proof.Machine.execEpochCommit verifyFail s
  | .applyEntry logBad verifyFail => Sys2Proof.Machine.execApplyEntry logBad verifyFail s
  | .wardenRecordWrite verifyFail => Sys2Proof.Machine.execWardenRecordWrite verifyFail s
  | .groomerMetadataSave => Sys2Proof.Machine.execGroomerMetadataSave s
  | .frameMoveStart hot frame => Sys2Proof.Machine.execFrameMoveStart hot frame s
  | .frameMoveEnd verifyFail => Sys2Proof.Machine.execFrameMoveEnd verifyFail s
  | .scrubPassStart mem => Sys2Proof.Machine.execScrubPassStart mem s
  | .scrubPassLate mem => Sys2Proof.Machine.execScrubPassLate mem s
  | .lifeEvaluation ro em => Sys2Proof.Machine.execLifeEvaluation ro em s
  | .grmEvalWrite who val => Sys2Proof.Machine.execGrmEvalWrite who val s
  | .grmDateWrite who val => Sys2Proof.Machine.execGrmDateWrite who val s
  | .grmDateAdvance => Sys2Proof.Machine.execGrmDateAdvance s
  | .grmFlashWrite who port val => Sys2Proof.Machine.execGrmFlashWrite who port val s
  | .tagStoreMirror what => Sys2Proof.Machine.execTagStoreMirror what s
  | .countEvent cycle => Sys2Proof.Machine.execCountEvent cycle s
  | .quadratureStep n a b => Sys2Proof.Machine.execQuadratureStep n a b s
  | .captureEdge n rising => Sys2Proof.Machine.execCaptureEdge n rising s
  | .pulseCaptureEdge n rising => Sys2Proof.Machine.execPulseCaptureEdge n rising s
  | .chnCtlWrite who n val => Sys2Proof.Machine.execChnCtlWrite who n val s
  | .chnLoad who n val => Sys2Proof.Machine.execChnLoad who n val s
  | .chnReload who n val => Sys2Proof.Machine.execChnReload who n val s
  | .chnCmp who n val => Sys2Proof.Machine.execChnCmp who n val s
  | .chnCntRead who n => Sys2Proof.Machine.execChnCntRead who n s
  | .ctaGstart who chs => Sys2Proof.Machine.execCtaGstart who chs s
  | .ctaGstop who chs => Sys2Proof.Machine.execCtaGstop who chs s
  | .ctaSnap who chs => Sys2Proof.Machine.execCtaSnap who chs s
  | .debounceChange n => Sys2Proof.Machine.execDebounceChange n s
  | .pioOutWrite who bank val => Sys2Proof.Machine.execPioOutWrite who bank val s
  | .pioSet who bank val => Sys2Proof.Machine.execPioSet who bank val s
  | .pioClr who bank val => Sys2Proof.Machine.execPioClr who bank val s
  | .pioBcfgWrite who val => Sys2Proof.Machine.execPioBcfgWrite who val s
  | .bankSupplyMismatch bank sense33 => Sys2Proof.Machine.execBankSupplyMismatch bank sense33 s
  | .pioScfgWrite who val => Sys2Proof.Machine.execPioScfgWrite who val s
  | .keyScan sensed => Sys2Proof.Machine.execKeyScan sensed s
  | .wetFilmTest sensed => Sys2Proof.Machine.execWetFilmTest sensed s
  | .pioSfifoRead who => Sys2Proof.Machine.execPioSfifoRead who s
  | .pwmPeriodEnd gen => Sys2Proof.Machine.execPwmPeriodEnd gen s
  | .pwmWrite who gen val => Sys2Proof.Machine.execPwmWrite who gen val s
  | .vbusChange valid => Sys2Proof.Machine.execVbusChange valid s
  | .busReset => Sys2Proof.Machine.execBusReset s
  | .highSpeedIdle se0 => Sys2Proof.Machine.execHighSpeedIdle se0 s
  | .chirpKEnd => Sys2Proof.Machine.execChirpKEnd s
  | .hostChirp => Sys2Proof.Machine.execHostChirp s
  | .chirpTimeout => Sys2Proof.Machine.execChirpTimeout s
  | .suspend => Sys2Proof.Machine.execSuspend s
  | .resume => Sys2Proof.Machine.execResume s
  | .usbRemoteWakeup who idle => Sys2Proof.Machine.execUsbRemoteWakeup who idle s
  | .remoteWakeupKEnd => Sys2Proof.Machine.execRemoteWakeupKEnd s
  | .usbAttenWrite who val => Sys2Proof.Machine.execUsbAttenWrite who val s
  | .sofReceived frame uframe => Sys2Proof.Machine.execSofReceived frame uframe s
  | .sofTimer => Sys2Proof.Machine.execSofTimer s
  | .setupPacket d request w => Sys2Proof.Machine.execSetupPacket d request w s
  | .getStatus d w => Sys2Proof.Machine.execGetStatus d w s
  | .clearFeature d w => Sys2Proof.Machine.execClearFeature d w s
  | .setFeature d w => Sys2Proof.Machine.execSetFeature d w s
  | .setAddress d w => Sys2Proof.Machine.execSetAddress d w s
  | .getDescriptor d w => Sys2Proof.Machine.execGetDescriptor d w s
  | .setDescriptor d w => Sys2Proof.Machine.execSetDescriptor d w s
  | .getConfiguration d w => Sys2Proof.Machine.execGetConfiguration d w s
  | .setConfiguration d w => Sys2Proof.Machine.execSetConfiguration d w s
  | .getInterface d w => Sys2Proof.Machine.execGetInterface d w s
  | .setInterface d w => Sys2Proof.Machine.execSetInterface d w s
  | .synchFrame d w => Sys2Proof.Machine.execSynchFrame d w s
  | .getReport d w => Sys2Proof.Machine.execGetReport d w s
  | .setReport d w => Sys2Proof.Machine.execSetReport d w s
  | .getIdle d w => Sys2Proof.Machine.execGetIdle d w s
  | .setIdle d w => Sys2Proof.Machine.execSetIdle d w s
  | .getProtocol d w => Sys2Proof.Machine.execGetProtocol d w s
  | .setProtocol d w => Sys2Proof.Machine.execSetProtocol d w s
  | .getHubStatus w => Sys2Proof.Machine.execGetHubStatus w s
  | .clearHubFeature w => Sys2Proof.Machine.execClearHubFeature w s
  | .setHubFeature w => Sys2Proof.Machine.execSetHubFeature w s
  | .getPortStatus w => Sys2Proof.Machine.execGetPortStatus w s
  | .setPortFeature w => Sys2Proof.Machine.execSetPortFeature w s
  | .clearPortFeature w => Sys2Proof.Machine.execClearPortFeature w s
  | .getHubDescriptor w => Sys2Proof.Machine.execGetHubDescriptor w s
  | .setHubDescriptor w => Sys2Proof.Machine.execSetHubDescriptor w s
  | .clearTtBuffer w => Sys2Proof.Machine.execClearTtBuffer w s
  | .resetTt w => Sys2Proof.Machine.execResetTt w s
  | .stopTt w => Sys2Proof.Machine.execStopTt w s
  | .getTtState w => Sys2Proof.Machine.execGetTtState w s
  | .inToken d ep => Sys2Proof.Machine.execInToken d ep s
  | .hostAck d ep => Sys2Proof.Machine.execHostAck d ep s
  | .noAckTimeout d ep => Sys2Proof.Machine.execNoAckTimeout d ep s
  | .outDataPacket d ep data1 bytes => Sys2Proof.Machine.execOutDataPacket d ep data1 bytes s
  | .ping d => Sys2Proof.Machine.execPing d s
  | .extToken => Sys2Proof.Machine.execExtToken s
  | .usbLineErrorPacket => Sys2Proof.Machine.execUsbLineErrorPacket s
  | .usbEpgo who e val => Sys2Proof.Machine.execUsbEpgo who e val s
  | .controlStartSplit addr ep => Sys2Proof.Machine.execControlStartSplit addr ep s
  | .interruptStartSplit addr ep => Sys2Proof.Machine.execInterruptStartSplit addr ep s
  | .bulkIsoStartSplit addr ep => Sys2Proof.Machine.execBulkIsoStartSplit addr ep s
  | .completeSplit control addr ep => Sys2Proof.Machine.execCompleteSplit control addr ep s
  | .ttTransactionEnd control addr ep r => Sys2Proof.Machine.execTtTransactionEnd control addr ep r s
  | .ttPeriodicAbandon addr ep => Sys2Proof.Machine.execTtPeriodicAbandon addr ep s
  | .portConnect port speed => Sys2Proof.Machine.execPortConnect port speed s
  | .portDisconnect port => Sys2Proof.Machine.execPortDisconnect port s
  | .portResetEnd port speed => Sys2Proof.Machine.execPortResetEnd port speed s
  | .portResumeEnd port => Sys2Proof.Machine.execPortResumeEnd port s
  | .portDeviceResume port => Sys2Proof.Machine.execPortDeviceResume port s
  | .portOverCurrent port low => Sys2Proof.Machine.execPortOverCurrent port low s
  | .downstreamBabble port => Sys2Proof.Machine.execDownstreamBabble port s
  | .canFrameReceived c f => Sys2Proof.Machine.execCanFrameReceived c f s
  | .canProtocolException c => Sys2Proof.Machine.execCanProtocolException c s
  | .canBusError c e tx exempt extra => Sys2Proof.Machine.execCanBusError c e tx exempt extra s
  | .canIntegrationEnd c => Sys2Proof.Machine.execCanIntegrationEnd c s
  | .canRecoveryEnd c => Sys2Proof.Machine.execCanRecoveryEnd c s
  | .canOpOff who c => Sys2Proof.Machine.execCanOpOff who c s
  | .canOpMonitor who c => Sys2Proof.Machine.execCanOpMonitor who c s
  | .canOpActive who c => Sys2Proof.Machine.execCanOpActive who c s
  | .canRecover who c => Sys2Proof.Machine.execCanRecover who c s
  | .canRxpop who c => Sys2Proof.Machine.execCanRxpop who c s
  | .canRxcOpen who c ch => Sys2Proof.Machine.execCanRxcOpen who c ch s
  | .canRxcClose who c ch => Sys2Proof.Machine.execCanRxcClose who c ch s
  | .canConnectionTimeout c ch => Sys2Proof.Machine.execCanConnectionTimeout c ch s
  | .canMbcfgWrite who c m val => Sys2Proof.Machine.execCanMbcfgWrite who c m val s
  | .canMbSubmit who c m => Sys2Proof.Machine.execCanMbSubmit who c m s
  | .canMbRelease who c m => Sys2Proof.Machine.execCanMbRelease who c m s
  | .canMbAbort who c m => Sys2Proof.Machine.execCanMbAbort who c m s
  | .canMbSetseq who c m seq => Sys2Proof.Machine.execCanMbSetseq who c m seq s
  | .dualSourceWindowExpiry c m => Sys2Proof.Machine.execDualSourceWindowExpiry c m s
  | .canArbitrationStart c => Sys2Proof.Machine.execCanArbitrationStart c s
  | .canTxEnd c ok tdcv => Sys2Proof.Machine.execCanTxEnd c ok tdcv s
  | .inventory req afi maskLen mask => Sys2Proof.Machine.execInventory req afi maskLen mask s
  | .stayQuiet req => Sys2Proof.Machine.execStayQuiet req s
  | .select req => Sys2Proof.Machine.execSelect req s
  | .resetToReady req => Sys2Proof.Machine.execResetToReady req s
  | .readSingleBlock req block => Sys2Proof.Machine.execReadSingleBlock req block s
  | .writeSingleBlock req block data prog => Sys2Proof.Machine.execWriteSingleBlock req block data prog s
  | .readMultipleBlocks req first count => Sys2Proof.Machine.execReadMultipleBlocks req first count s
  | .writeMultipleBlocks req first count data prog => Sys2Proof.Machine.execWriteMultipleBlocks req first count data prog s
  | .getSystemInformation req => Sys2Proof.Machine.execGetSystemInformation req s
  | .getMultipleBlockSecurityStatus req first count => Sys2Proof.Machine.execGetMultipleBlockSecurityStatus req first count s
  | .extendedReadSingleBlock req block => Sys2Proof.Machine.execExtendedReadSingleBlock req block s
  | .extendedWriteSingleBlock req block data prog => Sys2Proof.Machine.execExtendedWriteSingleBlock req block data prog s
  | .extendedReadMultipleBlocks req first count => Sys2Proof.Machine.execExtendedReadMultipleBlocks req first count s
  | .extendedWriteMultipleBlocks req first count data prog => Sys2Proof.Machine.execExtendedWriteMultipleBlocks req first count data prog s
  | .extendedGetSystemInformation req => Sys2Proof.Machine.execExtendedGetSystemInformation req s
  | .extGetMultipleBlockSecurityStatus req first count => Sys2Proof.Machine.execExtGetMultipleBlockSecurityStatus req first count s
  | .nfcUnsupportedCommand req custom => Sys2Proof.Machine.execNfcUnsupportedCommand req custom s
  | .nfcLineError => Sys2Proof.Machine.execNfcLineError s
  | .nfcFieldChange present => Sys2Proof.Machine.execNfcFieldChange present s
  | .nfcHostCommand who val => Sys2Proof.Machine.execNfcHostCommand who val s
  | .nfcHostCommandEnd waitus fail => Sys2Proof.Machine.execNfcHostCommandEnd waitus fail s
  | .nfcLockWrite who val => Sys2Proof.Machine.execNfcLockWrite who val s
  | .nfcLockPersisted => Sys2Proof.Machine.execNfcLockPersisted s
  | .consoleCharacter ses ch framing => Sys2Proof.Machine.execConsoleCharacter ses ch framing s
  | .consoleBreak ses long => Sys2Proof.Machine.execConsoleBreak ses long s
  | .consoleLine env => Sys2Proof.Machine.execConsoleLine env s
  | .help ses args => Sys2Proof.Machine.execHelp ses args s
  | .ver ses args => Sys2Proof.Machine.execVer ses args s
  | .mode ses args => Sys2Proof.Machine.execMode ses args s
  | .status ses args => Sys2Proof.Machine.execStatus ses args s
  | .report ses args => Sys2Proof.Machine.execReport ses args s
  | .det ses args => Sys2Proof.Machine.execDet ses args s
  | .log ses args => Sys2Proof.Machine.execLog ses args s
  | .life ses args => Sys2Proof.Machine.execLife ses args s
  | .wear ses args => Sys2Proof.Machine.execWear ses args s
  | .vc ses args => Sys2Proof.Machine.execVc ses args s
  | .time ses args => Sys2Proof.Machine.execTime ses args s
  | .session ses args => Sys2Proof.Machine.execSession ses args s
  | .quiet ses args => Sys2Proof.Machine.execQuiet ses args s
  | .notify ses args => Sys2Proof.Machine.execNotify ses args s
  | .baud ses args => Sys2Proof.Machine.execBaud ses args s
  | .helmTake ses args => Sys2Proof.Machine.execHelmTake ses args s
  | .helmFree ses args => Sys2Proof.Machine.execHelmFree ses args s
  | .helmIdleExpiry => Sys2Proof.Machine.execHelmIdleExpiry s
  | .unlockChallenge ses args => Sys2Proof.Machine.execUnlockChallenge ses args s
  | .unlockResponse ses args => Sys2Proof.Machine.execUnlockResponse ses args s
  | .challengeExpiry => Sys2Proof.Machine.execChallengeExpiry s
  | .lockoutExpiry => Sys2Proof.Machine.execLockoutExpiry s
  | .lock ses args => Sys2Proof.Machine.execLock ses args s
  | .date ses args => Sys2Proof.Machine.execDate ses args s
  | .eval ses args => Sys2Proof.Machine.execEval ses args s
  | .hold ses args => Sys2Proof.Machine.execHold ses args s
  | .reset ses args => Sys2Proof.Machine.execReset ses args s
  | .serviceEnter ses args => Sys2Proof.Machine.execServiceEnter ses args s
  | .serviceExit ses args => Sys2Proof.Machine.execServiceExit ses args s
  | .fuseRead ses args => Sys2Proof.Machine.execFuseRead ses args s
  | .fuseBlow ses args env => Sys2Proof.Machine.execFuseBlow ses args env s
  | .image ses args env => Sys2Proof.Machine.execImage ses args env s
  | .imageBegin ses args => Sys2Proof.Machine.execImageBegin ses args s
  | .imageErase ses args => Sys2Proof.Machine.execImageErase ses args s
  | .imageEraseEnd timeout => Sys2Proof.Machine.execImageEraseEnd timeout s
  | .imageData ses args env => Sys2Proof.Machine.execImageData ses args env s
  | .imageEnd ses args env => Sys2Proof.Machine.execImageEnd ses args env s
  | .imageAbort ses args => Sys2Proof.Machine.execImageAbort ses args s
  | .patrolPause ses args => Sys2Proof.Machine.execPatrolPause ses args s
  | .patrolInject ses args => Sys2Proof.Machine.execPatrolInject ses args s
  | .ledgerAck ses args => Sys2Proof.Machine.execLedgerAck ses args s
  | .usbtest ses args => Sys2Proof.Machine.execUsbtest ses args s
  | .irtDbWrite who val => Sys2Proof.Machine.execIrtDbWrite who val s
  | .irtDbclrWrite who val => Sys2Proof.Machine.execIrtDbclrWrite who val s
  | .irtSwWrite who val => Sys2Proof.Machine.execIrtSwWrite who val s
  | .irtSwclrWrite who val => Sys2Proof.Machine.execIrtSwclrWrite who val s
  | .irtRouteWrite who k val => Sys2Proof.Machine.execIrtRouteWrite who k val s
  | .irtVcclrWrite who val => Sys2Proof.Machine.execIrtVcclrWrite who val s
  | .sourcePending k => Sys2Proof.Machine.execSourcePending k s
  | .registerWrite who blk off val => Sys2Proof.Machine.execRegisterWrite who blk off val s
  | .registerReadClear who blk off => Sys2Proof.Machine.execRegisterReadClear who blk off s
  | .consoleReplyEnd ses => Sys2Proof.Machine.execConsoleReplyEnd ses s
  | .uartBreakEnd ses => Sys2Proof.Machine.execUartBreakEnd ses s
  | .vinSenseRelease => Sys2Proof.Machine.execVinSenseRelease s
  | .holdokRise => Sys2Proof.Machine.execHoldokRise s
  | .pioInEdge n level => Sys2Proof.Machine.execPioInEdge n level s
  | .scrubPassEnd mem found weakWords weakFrames => Sys2Proof.Machine.execScrubPassEnd mem found weakWords weakFrames s
  | .canArbitrationLost c => Sys2Proof.Machine.execCanArbitrationLost c s

end Sys2Proof.Machine
end

