-- ==== Sys2Proof/Machine/Tick.lean ====
section
/-! DEFINITION. Time: what one microsecond of the RC reference does while no command waits. Everything else that time brings
about has a command of its own in the opcode table. -/

namespace Sys2Proof.Machine

/-- A running watchdog counts (R65, R67); its count saturates past every CLOSE. [log 1 DESIGN CHOICE] -/
def State.wdTick (s : State) (t : Tandem) : State :=
  if s.wdRuns t then s.modWrd fun w => w.setWd t { w.wd t with us := satAdd 10000000 (w.wd t).us 1 } else s

/-- GRM_USE.POWMIN counts the full minutes since power-good (Table 14-2, R675). [log 1 DESIGN CHOICE] -/
def State.minute (s : State) : State :=
  if s.us % 60000000 = 0 then s.modMeta fun g => { g with powmin := satAdd 0xFFFFFFFF g.powmin 1 } else s

/-- A controller that awaits bus idle for MONITOR finds it (R787). [log 1 DESIGN CHOICE, 105 DEDUCED] -/
def State.canTick (s : State) (c : Side) : State := s.onCan c fun s => s.modCan c Can.idle

/-- What a microsecond of the RC reference counts. [log 1 DESIGN CHOICE] -/
def State.rcTick (s : State) : State :=
  (((({ s with us := s.us + 1 } : State).wdTick .a).wdTick .b).wdTick .g).minute.esSettle

/-- The code word that a strike meets, if there is one: any of Table 2-2's, by a free value. [log 127 DESIGN CHOICE] -/
def State.struck (s : State) (v : W64) : Option Site :=
  let n := wf v 0 44
  let m : Side := if bitOf v.toNat 44 then .b else .a
  let t : Tandem := match wf v 45 2 with | 0 => .a | 1 => .b | _ => .g
  let c := s.cpu m.tandem
  match wf v 48 4 with
  | 1 => some (.word n)
  | 2 => if (spkBase ≤ 8 * n ∧ 8 * n < devBase) ∨ dramBase ≤ 8 * n then some (.away n) else none
  | 3 => some (.l2 n)
  | 4 => some (.l1d m n)
  | 5 => some (.l1i m n)
  | 6 => some (.btb m (4 * n))
  | 7 => some (.tlb m (n % 128))
  | 8 => c.itlb[n]?.map (.itlb m)
  | 9 => c.dtlb[n]?.map (.dtlb m)
  | 10 => some (.transit t)
  | 11 => some (.reg t)
  | 12 => some (.saved t (n % 8))
  | 13 => some (.shadow t (n % 17))
  | 14 => some (.metadata m (n % 4096))
  | 15 => some (.transfer (match n % 4 with | 0 => .fill | 1 => .back | 2 => .groomer | _ => .patrol))
  | _ => none

/-- What physics may do to one code word in a microsecond: wrong bits in it, or nothing (R29, Table 2-2). [log 1 DESIGN
CHOICE, 127 DESIGN CHOICE] -/
def State.strike (s : State) : State :=
  let v := s.freeVal
  let s := s.freeNext
  match s.struck v with
  | some x => s.setSite x (1 + wf v 52 2)
  | none => s

/-- Rails that lie outside their bands may enter them, in any order; before power-good the crystal starts once VIO_18 has
risen, without which it cannot run (R116, R935, R953). Which do, a free value says. [log 1 DESIGN CHOICE, 126 DEDUCED] -/
def State.rise (s : State) : State :=
  if s.wrd.rails = 0x7F ∧ (s.clk.crystal = true ∨ s.gate.pgood = true) then s
  else
    let v := s.freeVal
    let rails := s.wrd.rails ||| BitVec.ofNat 7 v.toNat
    let starts := !s.gate.pgood && rails.getLsbD 4 && v.getLsbD 7
    let s := { s.freeNext with wrd := { s.wrd with rails := rails }, clk := { s.clk with crystal := s.clk.crystal || starts } }
    s.modUsb fun u => u.pull s.pullOk

/-- One microsecond passes: none is counted before power-good, nor by the RC reference while it stands (R94, R104). [log 1
DESIGN CHOICE] -/
def State.tick (s : State) : State :=
  if s.gate.pgood then
    let s := if s.wrd.rcStopped then s else s.rcTick
    (((s.canTick .a).canTick .b).nfcTick.strike).rise
  else s.rise

end Sys2Proof.Machine
end

