-- ==== Sys2Proof/Safety.lean ====
section
/-! DEFINITION. What the statements about runs are said in: the canonical form of memory, when a tandem's word issues, what
its retirement does, and the registers a word writes. -/

/-- The word holds data bits that an integer source accepts (R283, Table 5-2). -/
def Sys2Proof.TWord.isData (v : Sys2Proof.TWord) : Bool := v.tag != .unwritten && v.tag != .poison

namespace Sys2Proof.Machine

/-! Memory. -/

/-- The canonical form of the memories that reset to UNWRITTEN: word indices strictly rising, no UNWRITTEN word listed. -/
def Memory.wf (m : Tbl TWord) : Bool := twf TWord.unwritten m

/-- The volatile memory is in canonical form. -/
def State.MemOk (s : State) : Prop := Memory.wf s.mem = true

/-! Words of a tandem. -/

/-- The word at PCC of tandem `t` issues and passes the checks that come before its own: the tandem runs and waits for
nothing, the fetch passes (Table 6-11, order 1), a word of kind `k` may stand where it stands (R315, R332), and its
registers read (R412). `s1` is the state after these: it differs from `s` in what caches, lookups and check bits change at
most. -/
def Issues (t : Tandem) (k : Kind) (s s1 : State) : Prop := s.ready t = true ∧ (issue t k).run s = .ok () s1

/-- Where PCC stands after a word that does not transfer control: the address resolved for the slot it stands in, else the
next word (R273, R299). -/
def Cpu.nextPcc (c : Cpu) : Cap :=
  match c.slot with
  | some sl => (sl.pcc.getD c.lk.pcc).setCursor sl.next.toNat
  | none => c.lk.pcc.setCursor (c.lk.pcc.cursor + 4)

/-- Whether that address lies outside the 44-bit space (R301). -/
def Cpu.nextOver (c : Cpu) : Bool :=
  match c.slot with
  | some sl => sl.past
  | none => decide (2 ^ 44 ≤ c.lk.pcc.cursor + 4)

/-- What caches, lookups and check bits leave of a core beside its registers: an entry of the unified TLB is as it was or takes
V = 0 (R534), a reservation holds or is gone (R340), the data micro-TLB stays. -/
structure Cpu.Kept (c c' : Cpu) : Prop where
  tlb : ∀ i, tget none c'.tlb i = tget none c.tlb i ∨ tget none c'.tlb i = (tget none c.tlb i).map TlbEnt.kill
  resv : c'.resv = c.resv ∨ c'.resv = none
  dtlb : c'.dtlb = c.dtlb
  xmulti : min 0xFFFF c.xmulti ≤ c'.xmulti

/-- `s'` is `s` but for what caches, fetches ahead and check bits change: no register that a word names, no memory word, no
mode and no unit (R387, R415, R546). -/
structure Quiet (s s' : State) : Prop where
  same : s' = s.hw s'
  cores : ∀ u, (s.cpu u).Kept (s'.cpu u)
  /-- What the warden has not decided yet stays; errors that nothing else shows may join it. -/
  arrived : s.wrd.arrived <+: s'.wrd.arrived

/-- A core without what every retirement may change: PCC and its neighbours, the mark of an exception being entered, and the
performance counters. -/
def Cpu.core (c : Cpu) : Cpu :=
  { c with lockers := [], pcOver := false, slot := none, entering := none, pmctl := 0, pmcyc := 0, pmret := 0, pmev := [] }

/-- `s'` is `s` once the word of tandem `t` has retired: PCC moves on, `after` is the transfer that waits for its slot word,
and nothing else of the machine changes but the performance counters of a main tandem that counts and what caches and fetches
ahead change (R273, R299, R384, R402). -/
structure RetiredTo (after : Option Slot) (t : Tandem) (s s' : State) : Prop where
  /-- Outside the tandem nothing else changes. -/
  rest : Quiet s (s'.setCpu t ((s.cpu t).hw (s'.cpu t)))
  /-- In the current locker only PCC changes. -/
  pcc : (s'.cpu t).lk = { (s.cpu t).lk with pcc := (s.cpu t).nextPcc }
  past : (s'.cpu t).pcOver = (s.cpu t).nextOver
  slot : (s'.cpu t).slot = after
  entering : (s'.cpu t).entering = none
  /-- No other locker changes. -/
  lockers : ∀ n, n ≠ (s.cpu t).cur.val → (s'.cpu t).locker n = (s.cpu t).locker n
  core : (s'.cpu t).core = ((s.cpu t).hw (s'.cpu t)).core
  /-- The counters stand still unless a main tandem counts in this ring. -/
  counters : t.isG = true ∨ (s.cpu t).pmOn (s.cpu t).ring = false →
    (s'.cpu t).pmctl = (s.cpu t).pmctl ∧ (s'.cpu t).pmcyc = (s.cpu t).pmcyc ∧ (s'.cpu t).pmret = (s.cpu t).pmret ∧
      (s'.cpu t).pmev = (s.cpu t).pmev

/-- The word retired and transferred no control. -/
abbrev Retired (t : Tandem) (s s' : State) : Prop := RetiredTo none t s s'

/-- `s'` is `s` once a word that set PCC itself has retired: no exception is being entered any more, and nothing else
changes but the performance counters and what caches and fetches ahead change (R437, R438, R433). -/
structure Settled (t : Tandem) (s s' : State) : Prop where
  rest : Quiet s (s'.setCpu t ((s.cpu t).hw (s'.cpu t)))
  cpu : { s'.cpu t with pmctl := 0, pmcyc := 0, pmret := 0, pmev := [] } =
    { (s.cpu t).hw (s'.cpu t) with entering := none, pmctl := 0, pmcyc := 0, pmret := 0, pmev := [] }
  counters : t.isG = true ∨ (s.cpu t).pmctl.getLsbD 4 = false →
    (s'.cpu t).pmctl = (s.cpu t).pmctl ∧ (s'.cpu t).pmcyc = (s.cpu t).pmcyc ∧ (s'.cpu t).pmret = (s.cpu t).pmret ∧
      (s'.cpu t).pmev = (s.cpu t).pmev

/-- The state with the current locker of tandem `t` changed. -/
def State.modLk (s : State) (t : Tandem) (f : Locker → Locker) : State := s.modCpu t fun c => c.setLk (f c.lk)

/-- The address of the word to execute (R269). -/
def State.pc (s : State) (t : Tandem) : Nat := (s.cpu t).lk.pcc.cursor

/-- Registers of the current locker as the state holds them. -/
def State.g (s : State) (t : Tandem) (r : Reg) : TWord := (s.cpu t).lk.getG r
def State.c (s : State) (t : Tandem) (r : CReg) : Cap := (s.cpu t).lk.getC r
def State.f (s : State) (t : Tandem) (r : FReg) : TWord := (s.cpu t).lk.getF r

/-- The state with a register of the current locker written. -/
def State.wrG (s : State) (t : Tandem) (r : Reg) (v : TWord) : State := s.modLk t fun l => l.setG r v
def State.wrC (s : State) (t : Tandem) (r : CReg) (v : Cap) : State := s.modLk t fun l => l.setC r v
def State.wrF (s : State) (t : Tandem) (r : FReg) (v : TWord) : State := s.modLk t fun l => l.setF r v

/-- The command completes by retiring the word of tandem `t`, having made of `s` the state `s2`. -/
def Completes (i : Instr) (t : Tandem) (s s2 : State) : Prop := ∃ s', exec i s = .next s' ∧ Retired t s2 s'

/-- The command completes by retiring a control transfer that goes on at address `next` once its slot word has executed, with
PCC then taken from `p` (R299, R301). -/
def Transfers (i : Instr) (t : Tandem) (s s2 : State) (next : Int) (p : Option Cap) : Prop :=
  ∃ s', exec i s = .next s' ∧ RetiredTo (some ⟨BitVec.ofInt 44 next, decide (next < 0 ∨ 2 ^ 44 ≤ next), p⟩) t s2 s'

/-- The command's word raises `e` and the tandem takes it, from the state `s2` that the word leaves behind; F then fetches
ahead. -/
def Faults (i : Instr) (t : Tandem) (s : State) (e : Exc) (s2 : State) : Prop :=
  exec i s = .next (fetchAhead t (takeFault t e s2))

end Sys2Proof.Machine
end

