-- ==== Sys2Proof/Certificates/Slice0/Obligations.lean ====
section
/-! DEFINITION. The statements for the provers. The names in `Sys2Proof.Claims` are the words they are said in: each says in
the spec's terms what a register, a capability, a buffer or a unit becomes. -/

namespace Sys2Proof.Claims

open Sys2Proof.Machine

/-- The two-source integer instructions and their results (Tables 6-5 and 7-3). -/
def alu2Rows : List ((Tandem → Reg → Reg → Reg → Instr) × (W64 → W64 → W64)) :=
  [(.add, fun a b => a + b), (.sub, fun a b => a - b), (.and_, fun a b => a &&& b), (.or_, fun a b => a ||| b),
   (.xor_, fun a b => a ^^^ b), (.andn, fun a b => a &&& ~~~b), (.orn, fun a b => a ||| ~~~b), (.xnor, fun a b => ~~~(a ^^^ b)),
   (.sll, fun a b => a <<< (b.toNat % 64)), (.srl, fun a b => a >>> (b.toNat % 64)),
   (.sra, fun a b => a.sshiftRight (b.toNat % 64)), (.ror, fun a b => a.rotateRight (b.toNat % 64)),
   (.slt, fun a b => if a.toInt < b.toInt then 1 else 0), (.sltu, fun a b => if a.toNat < b.toNat then 1 else 0),
   (.min, fun a b => if a.toInt < b.toInt then a else b), (.max, fun a b => if a.toInt < b.toInt then b else a),
   (.minu, fun a b => if a.toNat < b.toNat then a else b), (.maxu, fun a b => if a.toNat < b.toNat then b else a),
   (.mul, fun a b => a * b), (.mulhs, fun a b => BitVec.ofInt 64 (a.toInt * b.toInt / 2 ^ 64)),
   (.mulhu, fun a b => BitVec.ofNat 64 (a.toNat * b.toNat / 2 ^ 64)),
   (.mulhsu, fun a b => BitVec.ofInt 64 (a.toInt * (b.toNat : Int) / 2 ^ 64))]

/-- The one-source integer and bit instructions and their results (Tables 6-5 and 7-3). -/
def alu1Rows : List ((Tandem → Reg → Reg → Instr) × (W64 → W64)) :=
  [(.clz, opClz), (.ctz, opCtz), (.popc, opPopc), (.par, opPar), (.brev, opBrev), (.brevb, opBrevb), (.bswap, opBswap),
   (.sextb, fun a => (a.setWidth 8).signExtend 64), (.sexth, fun a => (a.setWidth 16).signExtend 64),
   (.sextw, fun a => (a.setWidth 32).signExtend 64), (.zextw, fun a => (a.setWidth 32).setWidth 64)]

/-- The instructions with a 15-bit immediate and their results (R285). -/
def aluImmRows : List ((Tandem → Reg → Reg → BitVec 15 → Instr) × (W64 → BitVec 15 → W64)) :=
  [(.addi, fun a i => a + i.signExtend 64), (.andi, fun a i => a &&& i.setWidth 64), (.ori, fun a i => a ||| i.setWidth 64),
   (.xori, fun a i => a ^^^ i.setWidth 64), (.slti, fun a i => if a.toInt < (i.signExtend 64).toInt then 1 else 0),
   (.sltiu, fun a i => if a.toNat < (i.signExtend 64).toNat then 1 else 0)]

/-- The shifts by an immediate and their results (R285). -/
def aluShiftRows : List ((Tandem → Reg → Reg → BitVec 6 → Instr) × (W64 → BitVec 6 → W64)) :=
  [(.slli, fun a i => a <<< i.toNat), (.srli, fun a i => a >>> i.toNat), (.srai, fun a i => a.sshiftRight i.toNat),
   (.rori, fun a i => a.rotateRight i.toNat)]

/-- The fault of sources read from left to right: the first that is UNWRITTEN or POISON names its kind and number (R222, R283,
Table 5-2). -/
def sourceFault : List (Nat × Nat × TWord) → Option Exc
  | [] => none
  | (kind, num, v) :: rest => if v.tag = .unwritten then some ⟨0, 0x01, kind, num, false, 0⟩
      else if v.tag = .poison then some ⟨0, 0x02, kind, num, false, 0⟩ else sourceFault rest

/-- The set bits of a word. -/
def bitCount (a : W64) : Nat := ((List.range 64).filter fun i => a.getLsbD i).length

/-- The format-B branches and their conditions (R298). -/
def branchRows : List ((Tandem → Reg → Reg → BitVec 12 → Instr) × (W64 → W64 → Bool)) :=
  [(.beq, fun x y => decide (x = y)), (.bne, fun x y => decide (x ≠ y)), (.blt, fun x y => decide (x.toInt < y.toInt)),
   (.bge, fun x y => decide (y.toInt ≤ x.toInt)), (.bltu, fun x y => decide (x.toNat < y.toNat)),
   (.bgeu, fun x y => decide (y.toNat ≤ x.toNat)), (.bset, fun x y => decide (x &&& y ≠ 0)),
   (.bclr, fun x y => decide (x &&& y = 0))]

/-- The format-BI branches: the extension of IMM8 and the condition (R298). -/
def branchImmRows : List ((Tandem → Reg → BitVec 8 → BitVec 9 → Instr) × (BitVec 8 → W64) × (W64 → W64 → Bool)) :=
  [(.beqi, fun i => i.signExtend 64, fun x y => decide (x = y)), (.bnei, fun i => i.signExtend 64, fun x y => decide (x ≠ y)),
   (.blti, fun i => i.signExtend 64, fun x y => decide (x.toInt < y.toInt)),
   (.bgei, fun i => i.signExtend 64, fun x y => decide (y.toInt ≤ x.toInt)),
   (.bltui, fun i => i.signExtend 64, fun x y => decide (x.toNat < y.toNat)),
   (.bgeui, fun i => i.signExtend 64, fun x y => decide (y.toNat ≤ x.toNat)),
   (.bseti, fun i => i.setWidth 64, fun x y => decide (x &&& y ≠ 0)), (.bclri, fun i => i.setWidth 64, fun x y => decide (x &&& y = 0))]

/-- Whether the sources of a short operation can be read (R278, R283). -/
def shortReadable (s : State) (t : Tandem) : ShortOp → Bool
  | .nop | .mov _ _ | .movi _ _ | .cmov _ _ => true
  | .add d a | .sub d a | .and d a | .or d a | .xor d a | .sll d a => (s.g t d).isData && (s.g t a).isData
  | .addi d _ | .slli d _ | .srli d _ | .srai d _ => (s.g t d).isData
  | .cinci d _ => (s.c t d).st == .valid && !(s.c t d).sealed

/-- The register that a short operation writes, from the registers as they stand before the pair word (R278, R279). -/
def shortWrite (s : State) (t : Tandem) (o : ShortOp) (l : Locker) : Locker :=
  let x (r : Reg) : W64 := (s.g t r).bits
  match o with
  | .nop => l
  | .mov d a => l.setG d (s.g t a)
  | .add d a => l.setG d (.int (x d + x a))
  | .sub d a => l.setG d (.int (x d - x a))
  | .and d a => l.setG d (.int (x d &&& x a))
  | .or d a => l.setG d (.int (x d ||| x a))
  | .xor d a => l.setG d (.int (x d ^^^ x a))
  | .sll d a => l.setG d (.int (x d <<< ((x a).toNat % 64)))
  | .addi d i => l.setG d (.int (x d + i.signExtend 64))
  | .movi d i => l.setG d (.int (i.signExtend 64))
  | .slli d i => l.setG d (.int (x d <<< i.toNat))
  | .srli d i => l.setG d (.int (x d >>> i.toNat))
  | .srai d i => l.setG d (.int ((x d).sshiftRight i.toNat))
  | .cmov d a => l.setC d (s.c t a)
  | .cinci d i => l.setC d ((s.c t d).setCursor ((((s.c t d).cursor : Int) + 8 * i.toInt) % 2 ^ 44).toNat)

/-- The word at PCC is fetched and decoded as one of kind `k`: the order-1 checks of Table 6-11 pass. -/
def Decodes (t : Tandem) (k : Kind) (s s1 : State) : Prop :=
  s.ready t = true ∧ (do fetchCheck t; decodeStage t k : Cm Unit).run s = .ok () s1

/-- Where a reserved word may stand: as the instructions of its major may, a pair word anywhere (R297, R304). -/
def reservedPlace (w : BitVec 32) : Kind :=
  if 2 ^ 31 ≤ w.toNat then .plain
  else if 0x20 ≤ w.toNat / 2 ^ 25 ∧ w.toNat / 2 ^ 25 ≤ 0x25 then .cti none
  else if w.toNat / 2 ^ 25 = 0x26 then .ring else .plain

/-- The offset that an address operand gives, where its index register holds a data tag (R287). -/
def memOffset (s : State) (t : Tandem) : MemAddr → Option Int
  | .imm off => some off.toInt
  | .idx gi sc => if (s.g t gi).isData then some ((s.g t gi).bits.toInt * 2 ^ sc.toNat) else none

/-- An access of `n` bytes passes every check before its effect: steps 1 to 8 of Table 5-8 with effective address `ea`, then the
translation of Table 11-3 to `ph` in region `rg`. `s2` is the state after the translation. -/
structure Passes (t : Tandem) (k : AKind) (rule : RegionRule) (cs : CReg) (need : Need) (off : Int) (n : Nat) (s1 s2 : State)
    (ea : Nat) (ph : Phys) (rg : Region) : Prop where
  checks : (access t cs need off).run s1 = .ok ea s1
  translates : (translate t k rule (s1.cpu t).ring ea n).run s1 = .ok (ph, rg) s2

/-- A load reads at once: it waits for no older store of the buffer, no block in reset and no xSPI command (R554 to R556, R190,
R577). -/
def ReadsNow (t : Tandem) (ph : Phys) (rg : Region) (n : Nat) (s : State) : Prop :=
  (s.cpu t).loadWaits (rg.isDev) ph n = false ∧ (rg.isDev && s.stalls t ph.lo) = false ∧ s.windowWaits t rg ph n = false

/-- The words of an access are read through the caches: no window port refuses a miss and no uncorrectable error is met (R577,
R588); an access that an entry of the store buffer forwards reads none (R554). `turn`: the window port is free for it (R586). `s'`
is the state after, which differs from `s` in what caches and check bits change at most. -/
def ReadsWords (t : Tandem) (turn : Bool) (rg : Region) (ph : Phys) (n ea : Nat) (s s' : State) : Prop :=
  (readMem t rg turn ph n ea).run s = .ok () s'

/-- A word as a data load gives it: a capability half as BYTES, any other with its tag (R216). -/
def asLoaded (w : TWord) : TWord :=
  match w.tag with
  | .capa | .capb => ⟨.bytes, w.bits⟩
  | .unwritten => .unwritten
  | .poison => .poison
  | _ => w

/-- The low bytes of a load, extended. -/
def extended (n : Nat) (sgn : Bool) (x : Nat) : TWord :=
  .int (if sgn then BitVec.ofInt 64 (signed (8 * n) x) else BitVec.ofNat 64 x)

/-- What a data load delivers from memory whose words hold no reserved tag: a whole aligned word as `asLoaded`; else the bytes,
extended, as INT; UNWRITTEN and POISON are carried, POISON first (R216, Table 5-2). -/
def loadResult (s : State) (t : Tandem) (ph : Phys) (n : Nat) (sgn : Bool) : TWord :=
  let tags := (ph.parts n).map fun p => (s.viewWord t (p.1 / 8)).tag
  if n = 8 ∧ ph.lo % 8 = 0 ∧ n ≤ ph.n then asLoaded (s.viewWord t (ph.lo / 8))
  else if .poison ∈ tags then .poison
  else if .unwritten ∈ tags then .unwritten
  else extended n sgn (ofBytes (s.loadBytes t ph n))

/-- No word of an access holds a reserved tag. -/
def tagsKnown (s : State) (t : Tandem) (ph : Phys) (n : Nat) : Bool :=
  (ph.parts n).all fun p => match (s.viewWord t (p.1 / 8)).tag with | .reserved _ => false | _ => true

/-- A data load of `n` bytes gives `v` and leaves `s'`: from memory the words as the tandem sees them, from a device register its
value, whose read-clear fields clear and which crosses the fabric without an uncorrectable error (R41, R216, R287, R290). -/
def LoadGives (t : Tandem) (turn : Bool) (rg : Region) (ph : Phys) (n ea : Nat) (sgn : Bool) (s : State) (v : TWord) (s' : State) : Prop :=
  (rg.isDev = false ∧ ReadsWords t turn rg ph n ea s s' ∧ tagsKnown s' t ph n = true ∧ v = loadResult s' t ph n sgn) ∨
  (∃ b, rg = .dev b ∧ let r := devRead s t b (ph.lo % 0x10000)
    (devTransit t ea).run r.2 = .ok () s' ∧ v = extended n sgn (r.1 % 2 ^ (8 * n)))

/-- A load has begun: a word after it may wait for its value, which a performance counter of a main tandem may count (R402). -/
def loading (t : Tandem) (s : State) : State := s.event t 0x03 2

/-- The data loads: size and whether the value is sign-extended (Table 6-6). -/
def loadRows : List ((Tandem → Reg → CReg → MemAddr → Instr) × Nat × Bool) :=
  [(.lbu, 1, false), (.lhu, 2, false), (.lwu, 4, false), (.ld, 8, false), (.lb, 1, true), (.lh, 2, true), (.lw, 4, true)]

/-- The data stores and their sizes (Table 6-6). -/
def storeRows : List ((Tandem → Reg → CReg → MemAddr → Instr) × Nat) := [(.sb, 1), (.sh, 2), (.sw, 4), (.sd, 8)]

/-- The state with entries put at the end of the tandem's store buffer. -/
def buffered (s : State) (t : Tandem) (es : List SbEnt) : State := s.modCpu t fun c => { c with sb := c.sb ++ es }

/-- An entry joins the store buffer, the head entry of a full one having left (R395, R550). -/
def joined (t : Tandem) (s : State) (e : SbEnt) : State :=
  buffered (if sbCap t ≤ (s.cpu t).sb.length then (s.drainHead t).event t 0x04 1 else s) t [e]

/-- The entries join the store buffer without a wait: each finds room, or a head entry that no stalled block keeps (R190, R550). -/
def joinsNow (t : Tandem) : List SbEnt → State → Prop
  | [], _ => True
  | e :: r, s => ((s.cpu t).sb.length < sbCap t ∨ s.headStuck t = false) ∧ joinsNow t r (joined t s e)

/-- Step 11 of Table 5-8 for the words that entries of the store buffer write, lower first: each line is there or fetched, and each
word accepts the store (R217, R551). -/
def judgeTargets (t : Tandem) (es : List SbEnt) (ea : Nat) : Cm Unit :=
  es.forM fun e => targetTag t (e.addr / 8) (match e.tag with | .whole _ => true | _ => false) ea

/-- The persistent words among word indices, from the base of the Spenik store. -/
def persistentWords (ws : List Nat) : List Nat :=
  (ws.filter fun w => decide (spkBase ≤ 8 * w ∧ 8 * w < 0x44000000)).map fun w => w - spkBase / 8

/-- The words that memory holds after an entry of the store buffer has been written through. -/
def wordAfter (e : SbEnt) (before : Nat → TWord) (w : Nat) : TWord := ((e.writes before).lookup w).getD (before w)

/-- A data store of the low `n` bytes of `v` leaves `s'`: its entries join the store buffer once step 11 has accepted each word and
the ledger its persistent words; a device register takes one entry (R287 to R291, R550, R551, R604). -/
def StoreGives (t : Tandem) (rg : Region) (ph : Phys) (n ea : Nat) (v : TWord) (s s' : State) : Prop :=
  (rg.isDev = false ∧ ∃ s3 k, let es := storeEntries ph n v.tag (bytesOf n v.bits.toNat)
    (judgeTargets t es ea).run s = .ok () s3 ∧ s3.spk.ledgerAdmit t (persistentWords (es.map fun e => e.addr / 8)) = some k ∧
      joinsNow t es { s3 with spk := k } ∧ s' = es.foldl (joined t) { s3 with spk := k }) ∨
  (rg.isDev = true ∧ let e : SbEnt := ⟨ph.lo, bytesOf n v.bits.toNat, .dev⟩
    joinsNow t [e] s ∧ s' = joined t s e)

/-- The outcome of checks made in order: the first that fails raises its fault (R243, R522). -/
def firstFault (rows : List (Bool × Exc)) : Option Exc := (rows.find? (·.1)).map (·.2)

/-- Steps 2 to 8 of Table 5-8 for an access through `k` in register `cs` at `ea`, executed in ring `ring`: what fails, and its
fault with EADDR (R964). -/
def accessRows (k : Cap) (ring : Nat) (cs : CReg) (need : Need) (ea : Int) : List (Bool × Exc) :=
  let at44 : Nat := (ea % 2 ^ 44).toNat
  [(decide (k.st = .unwritten), ⟨0, 0x01, 1, cs.val, false, 0⟩), (decide (k.st ≠ .valid), ⟨1, 0x10, 1, cs.val, false, at44⟩),
   (k.sealed, ⟨1, 0x11, 1, cs.val, false, at44⟩), (decide (k.ring < ring), ⟨1, 0x12, 1, cs.val, false, at44⟩),
   (!k.has need.perms, ⟨1, 0x13, 3, 0, false, at44⟩), (need.tether && !k.has pTTH, ⟨1, 0x1B, 3, 0, false, at44⟩),
   (decide (ea < k.base ∨ (k.top : Int) < ea + need.size ∨ 2 ^ 44 ≤ ea), ⟨1, 0x14, 3, 0, false, at44⟩),
   (decide (ea % need.align ≠ 0), ⟨1, 0x15, 3, 0, false, at44⟩)]

/-- Rows 2 to 5 of Table 11-3 for the TLB entry of an access's page. -/
def pageRows (k : AKind) (ring va : Nat) (e : TlbEnt) : List (Bool × Exc) :=
  let xl (det : Nat) : Exc := ⟨6, det, 3, k.code, false, va % 2 ^ 44⟩
  [(decide (e.lo.toNat / 2 ^ 8 % 4 < ring), xl 0x52), (k.isFetch && !e.lo.getLsbD 6, xl 0x53), (k.isStore && !e.lo.getLsbD 5, xl 0x54),
   (k.isStore && !e.lo.getLsbD 7, xl 0x55)]

/-- Whether an attribute code agrees with a region (Table 11-1). -/
def agrees (attr : Nat) (rg : Region) : Prop :=
  attr = 0 ∨ (attr = 1 ∧ (rg = .sram ∨ rg = .dram)) ∨ (attr = 2 ∧ rg = .spenik) ∨ (attr = 3 ∧ rg.isDev = true) ∨
    (attr = 4 ∧ (rg = .winA ∨ rg = .winB))

/-- What the region rule of an access refuses (row 10; R243, R290, R294, R334, R339, R342). -/
def regionFault (rule : RegionRule) (rg : Region) (off n : Nat) (va : Nat) : Option Exc :=
  let size (b : Fin 17) : Bool := (n != 4 && n != 8) || off % n != 0 || (n == 4 && devWide b (off / 8 * 8))
  match rule, rg with
  | .none, _ => none
  | .noDev, .dev _ => some ⟨1, 0x1C, 3, 0, false, va % 2 ^ 44⟩
  | .fp, .dev _ => some ⟨3, 0x22, 3, 0, false, va % 2 ^ 44⟩
  | .data, .dev b | .tas, .dev b => if size b then some ⟨3, 0x22, 3, 0, false, va % 2 ^ 44⟩ else none
  | .lrsc, .sram | .lrsc, .dram | .tas, .spenik => none
  | .lrsc, _ | .tas, _ => some ⟨3, 0x32, 3, 0, false, va % 2 ^ 44⟩
  | _, _ => none

/-- Rows 6 to 10 of Table 11-3 for an access of `n` bytes at physical address `pa` in one page of attribute `attr` end with `r`. -/
def regionJudged (s : State) (t : Tandem) (k : AKind) (rule : RegionRule) (va n pa attr : Nat) (r : EStateM.Result Exc State (Phys × Region)) :
    Prop :=
  let xl (det : Nat) : Exc := ⟨6, det, 3, k.code, false, va % 2 ^ 44⟩
  (s.regionOf t pa n = none → r = .error ⟨3, 0x40, 3, 0, false, va % 2 ^ 44⟩ s) ∧
  (∀ rg, s.regionOf t pa n = some rg →
    (¬ agrees attr rg → r = .error (xl 0x56) s) ∧
    (agrees attr rg →
      let fetchable : Bool := decide (rg ∈ [Region.sram, .dram, .spenik, .rom, .tcm])
      let readOnly : Bool := decide (rg ∈ [Region.rom, .winA, .winB])
      (k.isFetch = true → fetchable = false → r = .error (xl 0x57) s) ∧
      (k.isStore = true → readOnly = true → r = .error ⟨3, 0x41, 3, 0, false, va % 2 ^ 44⟩ s) ∧
      ((k.isFetch = true → fetchable = true) → (k.isStore = true → readOnly = false) →
        (∀ e, regionFault rule rg (pa % 0x10000) n va = some e → r = .error e s) ∧
        (regionFault rule rg (pa % 0x10000) n va = none → r = .ok (⟨pa, n, 0⟩, rg) s))))

/-- The physical address of R512. -/
def mappedTo (e : TlbEnt) (va : Nat) : Nat :=
  let sz := e.hi.toNat / 2 ^ 44 % 2 ^ 6
  if 40 ≤ sz then va % 2 ^ 40 else e.lo.toNat / 2 ^ 12 % 2 ^ 28 * 2 ^ 12 / 2 ^ sz * 2 ^ sz + va % 2 ^ sz

/-- The match of R512. -/
def covers (c : Cpu) (va : Nat) (e : TlbEnt) : Bool :=
  let sz := e.hi.toNat / 2 ^ 44 % 2 ^ 6
  e.hi.getLsbD 55 && (e.hi.getLsbD 54 || e.hi.toNat / 2 ^ 56 % 2 ^ 8 == c.xctl.toNat / 2 ^ 8 % 2 ^ 8) &&
    (va % 2 ^ 44 / 2 ^ sz == e.hi.toNat / 2 ^ 12 % 2 ^ 32 * 2 ^ 12 / 2 ^ sz)

/-- A capability that a derivation accepts: VALID and unsealed (R235). -/
def derivable (c : Cap) : Bool := c.st == .valid && !c.sealed

/-- The getters and the field each reads (Table 5-7), from the bit positions of Tables 5-3 and 5-4. -/
def getterRows : List ((Tandem → Reg → CReg → Instr) × (Cap → Nat)) :=
  [(.cgetbase, fun c => c.b.toNat % 2 ^ 44), (.cgetlen, fun c => c.b.toNat / 2 ^ 44 % 2 ^ 15 * 2 ^ (c.b.toNat / 2 ^ 59 % 2 ^ 5)),
   (.cgettop, fun c => c.b.toNat % 2 ^ 44 + c.b.toNat / 2 ^ 44 % 2 ^ 15 * 2 ^ (c.b.toNat / 2 ^ 59 % 2 ^ 5)),
   (.cgetperm, fun c => c.a.toNat / 2 ^ 44 % 2 ^ 10), (.cgettype, fun c => c.a.toNat / 2 ^ 58 % 2 ^ 6),
   (.cgetcur, fun c => c.a.toNat % 2 ^ 44)]

/-- The bounds of R236 for a base and a top. -/
def roundedBase (b t : Nat) : Nat := b / 2 ^ fitExp b t * 2 ^ fitExp b t
def roundedTop (b t : Nat) : Nat := (t + 2 ^ fitExp b t - 1) / 2 ^ fitExp b t * 2 ^ fitExp b t

/-- The requested top lies above 2^44; the rounded bounds lie within the source's; no rounding was needed; and the capability
that KNARROW of `n` bytes then gives (R236, R237). -/
def narrowTop (c : Cap) (n : Nat) : Prop := 2 ^ 44 < c.cursor + n
def narrowWithin (c : Cap) (n : Nat) : Prop :=
  c.base ≤ roundedBase c.cursor (c.cursor + n) ∧ roundedTop c.cursor (c.cursor + n) ≤ c.top
def narrowExact (c : Cap) (n : Nat) : Prop :=
  roundedBase c.cursor (c.cursor + n) = c.cursor ∧ roundedTop c.cursor (c.cursor + n) = c.cursor + n
def narrowed (c : Cap) (n : Nat) : Cap :=
  let e := fitExp c.cursor (c.cursor + n)
  c.setBounds e ((c.cursor + n + 2 ^ e - 1) / 2 ^ e - c.cursor / 2 ^ e) (roundedBase c.cursor (c.cursor + n))

/-- `d` gives no more than `c`: bounds within its bounds, permissions among its permissions, a ring no more privileged, and the
tether kept. -/
def Narrows (c d : Cap) : Prop :=
  c.base ≤ d.base ∧ d.top ≤ c.top ∧ (∀ p, d.perms.testBit p = true → c.perms.testBit p = true) ∧ c.ring ≤ d.ring ∧
    (c.tether = true → d.tether = true)

/-- The derivations but CDUR, with their operands but cd and cs fixed (Table 5-7). -/
def derivationRows (t : Tandem) (gs : Reg) (ca : CReg) (i17 : BitVec 17) : List (CReg → CReg → Instr) :=
  [fun cd cs => .cinc t cd cs gs, fun cd cs => .cinci t cd cs i17, fun cd cs => .csetcur t cd cs gs,
   fun cd cs => .knarrow t cd cs gs, fun cd cs => .knarrowX t cd cs gs, fun cd cs => .knarrowi t cd cs i17,
   fun cd cs => .candperm t cd cs gs, fun cd cs => .csetring t cd cs gs, fun cd cs => .ktether t cd cs,
   fun cd cs => .cseal t cd cs ca, fun cd cs => .cunseal t cd cs ca]

/-- Floating point is available in the current locker, LIVE leaving the state as it is and DEFERRED swapping the state of the
locker's context in; `s2` is the state after (R487 to R490). -/
def FpFrom (m : Side) (s1 s2 : State) : Prop :=
  let l := (s1.sch m).getLk (s1.cpu m.tandem).cur.val
  (l.fpst = .live ∧ s2 = s1) ∨ (∃ k, l.fpst = .deferred ∧ l.occ = some k ∧ s2 = s1.fpSwap m k)

/-- Floating point is available, and FCSR is not UNWRITTEN (R349). -/
def FpReady (m : Side) (s1 s2 : State) : Prop := FpFrom m s1 s2 ∧ (s2.cpu m.tandem).lk.fcsr.tag ≠ .unwritten

/-- The state with the flags of a result added to FCSR (R348). -/
def flagged (s : State) (m : Side) (fl : Nat) : State :=
  s.modLk m.tandem fun l => { l with fcsr := if fl = 0 then l.fcsr else .int (l.fcsr.bits ||| BitVec.ofNat 64 fl) }

/-- An f register's value as an operand of precision `p`: binary32 reads bits [31:0] (R347). -/
def fpArg (s : State) (m : Side) (p : FPrec) (r : FReg) : FVal :=
  fdecode (fmtOf p) (match p with | .f64 => (s.f m.tandem r).bits.toNat | .f32 => (s.f m.tandem r).bits.toNat % 2 ^ 32)

/-- The rounding in effect (R348). -/
def fpMode (s : State) (m : Side) (rm : RM) : RMode := rmode rm (s.cpu m.tandem).lk.fcsr.bits

/-- The state with an f result of major 0x34, tagged FLT, and its flags: bits and flags `r` (R348, R349). -/
def fpPut (s : State) (m : Side) (fd : FReg) (r : Nat × Nat) : State :=
  flagged (s.wrF m.tandem fd ⟨.flt, BitVec.ofNat 64 r.1⟩) m r.2

/-- The state with a g result of major 0x34, tagged INT, and its flags. -/
def fpPutG (s : State) (m : Side) (gd : Reg) (r : Nat × Nat) : State :=
  flagged (s.wrG m.tandem gd (.int (BitVec.ofNat 64 r.1))) m r.2

/-- The flags of a comparison. -/
def nvFlag (b : Bool) : Nat := if b then 16 else 0

/-- The pattern of a binary format whose sign bit is replaced: FABS and FNEG; a NaN gives the canonical NaN (R348). -/
def withSign (p : FPrec) (bits : Nat) (neg : Bool) : Nat :=
  let f := fmtOf p
  if (fdecode f bits).isNan then fNan f else (if neg then 2 ^ (f.eb + f.mb) else 0) + bits % 2 ^ (f.eb + f.mb)

/-- The value of a finite operand. -/
def fpValue : FVal → Rat
  | .fin neg m e => (if neg then -1 else 1) * (m : Rat) * (2 : Rat) ^ e
  | _ => 0

def isFin : FVal → Bool
  | .fin _ _ _ => true | _ => false

/-- `n` units `u` is what the mode makes of an exact positive magnitude, given by which rationals lie below it and which equals it: the
multiple next to it toward zero or away from it, or the nearest one, a tie going to the even multiple or away from zero (R348). -/
def roundsTo (rm : RMode) (neg : Bool) (below equal : Rat → Prop) (u : Rat) (n : Nat) : Prop :=
  let above (c : Rat) : Prop := ¬ below c ∧ ¬ equal c
  let k : Rat := n
  let down := ¬ above (k * u) ∧ above ((k + 1) * u)
  let up := ¬ below (k * u) ∧ below ((k - 1) * u)
  match rm with
  | .rtz => down
  | .rdn => if neg then up else down
  | .rup => if neg then down else up
  | .rne => ¬ below ((k + 1 / 2) * u) ∧ ¬ above ((k - 1 / 2) * u) ∧ (equal ((k + 1 / 2) * u) ∨ equal ((k - 1 / 2) * u) → n % 2 = 0)
  | .rmm => above ((k + 1 / 2) * u) ∧ ¬ above ((k - 1 / 2) * u)

/-- The bits and flags `r` are an exact nonzero value rounded once to the format: to the unit of its binade, or of the subnormal ones;
out of range it overflows to infinity or to the largest finite value, as the mode says; NX is set where the result is inexact, and UF
only where the exact value is below the normal range too (R347, R348). -/
def onceRounded (f : FFmt) (rm : RMode) (neg : Bool) (below equal : Rat → Prop) (r : Nat × Nat) : Prop :=
  let emin : Int := 2 - 2 ^ (f.eb - 1)
  let two : Rat := 2
  ∃ (q : Int) (n : Nat), let v : Rat := n * two ^ q
    emin - f.mb ≤ q ∧ (q = emin - f.mb ∨ below (two ^ (q + f.mb)) ∨ equal (two ^ (q + f.mb))) ∧
    ¬ below (two ^ (q + f.mb + 1)) ∧ ¬ equal (two ^ (q + f.mb + 1)) ∧ roundsTo rm neg below equal (two ^ q) n ∧
    (two ^ (2 - emin) ≤ v → r = (match rm, neg with
      | .rtz, _ | .rdn, false | .rup, true => fMax f neg
      | _, _ => fInf f neg, 5)) ∧
    (v < two ^ (2 - emin) → (∃ m e, fdecode f r.1 = .fin neg m e ∧ (m : Rat) * two ^ e = v) ∧
      (equal v → r.2 = 0) ∧ (¬ equal v → r.2 = 1 ∨ (r.2 = 3 ∧ ¬ below (two ^ emin) ∧ ¬ equal (two ^ emin))) ∧
      (¬ equal v → Config.tinyAfter = false → ¬ below (two ^ emin) → ¬ equal (two ^ emin) → r.2 = 3))

/-- It is the rational `v` rounded once; `neg0` is the sign of an exact zero. -/
def isRounded (f : FFmt) (rm : RMode) (v : Rat) (neg0 : Bool) (r : Nat × Nat) : Prop :=
  let a : Rat := if v < 0 then -v else v
  (v = 0 → r = (if neg0 then 2 ^ (f.eb + f.mb) else 0, 0)) ∧ (v ≠ 0 → onceRounded f rm (decide (v < 0)) (· < a) (· = a) r)

/-- The canonical NaN, with NV where `sig` says. -/
def nanOf (f : FFmt) (sig : Bool) : Nat × Nat := (fNan f, if sig then 16 else 0)

/-- A SWEEP: the command with an element limit or none, its word, its count register, the register whose data it reads, the
cursors it advances, the element size, the element, and what it writes when the count reaches 0 (Table 7-2). -/
structure SweepOp where
  instr : Option Nat → Instr
  word : Nat
  gc : Reg
  reads : Option Reg
  cursors : List CReg
  size : Nat
  el : Cm Elem
  fin : State → State

/-- The element of SWEEP.POISON. -/
def poisonElem (t : Tandem) (cd : CReg) : Cm Elem := do
  let a ← elemAt t cd pST 1 false
  elemStore t a 1 .poison true
  pure .done

/-- The bytes of a data element of SZ `z`. -/
def elemSize (z : Fin 2) : Nat := if z = 0 then 1 else 8

/-- The SWEEP operations of tandem `t` on given operands (Table 7-2). -/
def sweepOps (t : Tandem) (z3 : Fin 3) (z : Fin 2) (cd cs : CReg) (gc gv : Reg) (k : Fin 4) : List SweepOp :=
  [⟨fun l => .sweepCopy t z3 cd cs gc l, sweepWord 0 z3.val cd.val cs.val gc.val 0 0, gc, none, [cd, cs],
      if z3 = 0 then 1 else if z3 = 1 then 8 else 16, if z3.val = 2 then copyPair t cd cs else copyElem t z3.val cd cs, id⟩,
   ⟨fun l => .sweepFill t z cd gc gv l, sweepWord 1 z.val cd.val 0 gc.val gv.val 0, gc, some gv, [cd], elemSize z,
      fillElem t z.val cd gv, id⟩,
   ⟨fun l => .sweepPoison t cd gc l, sweepWord 1 1 cd.val 0 gc.val 0 1, gc, none, [cd], 8,
      poisonElem t cd, id⟩,
   ⟨fun l => .sweepCmp t z cd cs gc gv l, sweepWord 2 z.val cd.val cs.val gc.val gv.val 0, gc, none, [cd, cs],
      elemSize z, cmpElem t z.val cd cs gv, fun s => s.wrG t gv (.int 0)⟩,
   ⟨fun l => .sweepFind t z cs gc gv l, sweepWord 3 z.val 0 cs.val gc.val gv.val 0, gc, some gv, [cs], elemSize z,
      findElem t z.val cs gv false, id⟩,
   ⟨fun l => .sweepFindne t z cs gc gv l, sweepWord 3 z.val 0 cs.val gc.val gv.val 1, gc, some gv, [cs], elemSize z,
      findElem t z.val cs gv true, id⟩,
   ⟨fun l => .sweepCrc t z cs gc gv k l, sweepWord 4 z.val k.val cs.val gc.val gv.val 0, gc, some gv, [cs],
      elemSize z, crcElem t z.val cs gv k, id⟩]

/-- After an element: each cursor advances by the element size modulo 2^44, then the count falls by one (R333, R334). -/
def advanced (t : Tandem) (op : SweepOp) (count : W64) (s : State) : State :=
  (op.cursors.foldl (fun s r => s.wrC t r ((s.c t r).setCursor ((s.c t r).cursor + op.size))) s).wrG t op.gc (.int (count - 1))

/-- `n` elements complete one after another, from `s` to `s'`. -/
def ElementsRun (t : Tandem) (op : SweepOp) : Nat → State → State → Prop
  | 0, s, s' => s' = s
  | n + 1, s, s' => ∃ a, op.el.run s = .ok .done a ∧ (a.g t op.gc) = (s.g t op.gc) ∧
      (a.cpu t).ring = (s.cpu t).ring ∧ (a.cpu t).pmctl = (s.cpu t).pmctl ∧ ElementsRun t op n (advanced t op (s.g t op.gc).bits a) s'

/-- A data element passes the checks of Table 5-8 and the translation (R334). -/
structure ElementAt (t : Tandem) (r : CReg) (perms size : Nat) (teth : Bool) (k : AKind) (s s' : State) (ea : Nat) (ph : Phys)
    (rg : Region) : Prop where
  checks : (access t r ⟨perms, teth, size, size⟩ 0).run s = .ok ea s
  translates : (translate t k .noDev (s.cpu t).ring ea size).run s = .ok (ph, rg) s'

/-- An element of `z` is loaded: its checks pass, what it partly overlaps in the store buffer has left, and its words give `v`
(R216, R334, R554, R555). -/
def ElementLoads (t : Tandem) (r : CReg) (z : Fin 2) (s : State) (v : TWord) (s' : State) : Prop :=
  ∃ ea ph rg s1 s2, ElementAt t r pLD (elemSize z) false .load s s1 ea ph rg ∧ (waitOverlap t ph (elemSize z)).run s1 = .ok () s2 ∧
    LoadGives t false rg ph (elemSize z) ea false s2 v s'

/-- The same for an element whose value the operation uses: neither UNWRITTEN nor POISON (R336). -/
def ElementReads (t : Tandem) (r : CReg) (z : Fin 2) (s : State) (x : W64) (s' : State) : Prop :=
  ∃ v, ElementLoads t r z s v s' ∧ v.isData = true ∧ x = v.bits

/-- An element writes `v`: its checks pass, step 11 accepts its word, which only SWEEP.POISON may do to POISON, and the ledger a
persistent word; its entry joins the store buffer (R217, R336, R551, R604). -/
def ElementStores (t : Tandem) (cd : CReg) (z : Fin 2) (v : TWord) (pois : Bool) (s s' : State) : Prop :=
  ∃ ea ph rg s1 s2 k, let e : SbEnt := ⟨ph.lo, bytesOf (elemSize z) v.bits.toNat, if z = 0 then .part else .whole v.tag⟩
    ElementAt t cd pST (elemSize z) false .store s s1 ea ph rg ∧
    (if pois then storeLine t (ph.lo / 8) ea else targetTag t (ph.lo / 8) (z != 0) ea).run s1 = .ok () s2 ∧
    s2.spk.ledgerAdmit t (persistentWords [ph.lo / 8]) = some k ∧
    joinsNow t [e] { s2 with spk := k } ∧ s' = joined t { s2 with spk := k } e

/-- The CRC configuration that K selects, by the cards of CRCP0 to CRCP2 and CRC-32C for 3; none where the register is
UNWRITTEN (R337). -/
def crcConfig (s : State) (t : Tandem) (k : Fin 4) : Option CrcCfg :=
  let l := (s.cpu t).lk
  let card (q : TWord) : Option CrcCfg :=
    if q.tag = .unwritten then none
    else some ⟨if wf q.bits 62 2 = 0 then 8 else if wf q.bits 62 2 = 1 then 16 else 32, wf q.bits 0 32, q.bits.getLsbD 61⟩
  if k = 0 then card l.crcp0 else if k = 1 then card l.crcp1 else if k = 2 then card l.crcp2 else some ⟨32, 0x1EDC6F41, true⟩

/-- The descriptor of M on a main tandem, where both its registers hold data tags (R352). -/
def descriptor (s : State) (t : Tandem) (md : Fin 2) : Option ModDesc :=
  let l := (s.cpu t).lk
  let b := if md = 0 then l.mod0Base else l.mod1Base
  let c := if md = 0 then l.mod0Ctl else l.mod1Ctl
  if t = .g ∨ b.isData = false ∨ c.isData = false then none
  else some ⟨wf b.bits 0 44, wf c.bits 62 2, wf c.bits 32 24, signed 24 (wf c.bits 0 24)⟩

/-- Bits [w-1:0] of a value in reversed order. -/
def mirror (w v : Nat) : Nat := ((List.range w).map fun i => if v.testBit (w - 1 - i) then 2 ^ i else 0).sum

/-- One of the eight repeated steps of R337. -/
def crcStep (c : CrcCfg) (x : Nat) : Nat :=
  if c.refl then (if x % 2 = 1 then x / 2 ^^^ mirror c.width c.poly else x / 2)
  else if 2 ^ (c.width - 1) ≤ x then (x * 2 ^^^ c.poly) % 2 ^ c.width else x * 2 % 2 ^ c.width

/-- The descriptor registers of M; tandem G has none, and reads them as UNWRITTEN (R352, R370). -/
def descWords (s : State) (t : Tandem) (md : Fin 2) : List (Nat × Nat × TWord) :=
  let l := (s.cpu t).lk
  if t = .g then [(3, 0, .unwritten)]
  else if md = 0 then [(3, 0, l.mod0Base), (3, 0, l.mod0Ctl)] else [(3, 0, l.mod1Base), (3, 0, l.mod1Ctl)]

/-- The divider's results (R344). -/
def divRows : List ((Tandem → Reg → Reg → Reg → Instr) × (W64 → W64 → W64)) :=
  [(.div, fun a b => if b = 0 then BitVec.allOnes 64 else BitVec.ofInt 64 (a.toInt.tdiv b.toInt)),
   (.divu, fun a b => if b = 0 then BitVec.allOnes 64 else BitVec.ofNat 64 (a.toNat / b.toNat)),
   (.rem, fun a b => if b = 0 then a else BitVec.ofInt 64 (a.toInt.tmod b.toInt)),
   (.remu, fun a b => if b = 0 then a else BitVec.ofNat 64 (a.toNat % b.toNat))]

/-- The exact results of the fixed-point functions (Table 7-5). -/
def fixRows (frac : BitVec 6) : List ((Tandem → Reg → Reg → Reg → Instr) × (Int → Int → Int)) :=
  [(.qadd, fun a b => a + b), (.qsub, fun a b => a - b),
   (fun t d x y => .qmul t d x y frac, fun a b => if frac.toNat = 0 then a * b else (a * b + 2 ^ (frac.toNat - 1)) / 2 ^ frac.toNat),
   (fun t d x _ => .qshl t d x frac, fun a _ => a * 2 ^ frac.toNat), (fun t d x _ => .qabs t d x, fun a _ => (a.natAbs : Int)),
   (fun t d x _ => .qneg t d x, fun a _ => -a)]

/-- A value saturated to 64 signed bits. -/
def saturated (x : Int) : Int := if x < -(2 ^ 63) then -(2 ^ 63) else if 2 ^ 63 - 1 < x then 2 ^ 63 - 1 else x

/-- QSTAT.SAT set. -/
def satSet (l : Locker) : Locker := { l with qstat := .int (l.qstat.bits ||| 1) }

/-- A reservation on a line, with the hold where no other tandem has it. -/
def reserved (line : Nat) (taken : Bool) (c : Cpu) : Cpu := { c with resv := some line, hold := if taken then c.hold else some line }

/-- The size of an MLD or MST element: the codes of Table 6-6. -/
def modSize (sz : Nat) : Nat := match sz with | 0 | 4 => 1 | 1 | 5 => 2 | 2 | 6 => 4 | _ => 8

/-- What a wicket call or a return asks of its target capability: VALID, sealed with a type that `ty` allows, a ring that `rg` allows
against the current ring, EX, and a cursor that is a multiple of 4 (R433, R437, R438). -/
def goodTarget (c : Cap) (cur : Nat) (ty : Nat → Bool) (rg : Nat → Nat → Bool) : Prop :=
  c.st = .valid ∧ c.sealed = true ∧ ty c.otype = true ∧ rg c.ring cur = true ∧ c.has pEX = true ∧ c.cursor % 4 = 0

/-- The resumption capability of a PCC at an address (Table 9-2). -/
def resumesAt (pcc : Cap) (a : Nat) : Cap := (pcc.setCursor a).sealWith 0x3F

/-- The saved state that an entry leaves in the handler's locker `l'` (R426, Table 9-2). -/
structure SavedState (vec : Nat) (e : Exc) (orig : Option (Nat × Nat)) (c : Cpu) (l' : Locker) : Prop where
  c15 : l'.getC 15 = resumesAt c.lk.pcc c.lk.pcc.cursor
  ecause : l'.ecause = .int (BitVec.ofNat 64 (e.det + e.cls * 2 ^ 8 + (if e.cls = 5 ∨ e.cls = 6 then 0 else e.num) * 2 ^ 12 +
    e.kind * 2 ^ 17 + (if e.half then 2 ^ 19 else 0) + vec * 2 ^ 21 + (orig.getD (0, 0)).1 * 2 ^ 32 + (orig.getD (0, 0)).2 * 2 ^ 36))
  eaddr : l'.eaddr = .int (BitVec.ofNat 64 e.addr)
  enext : l'.enext = .int (BitVec.ofNat 64 (match c.slot with | some sl => sl.next.toNat | none => 0))
  estat : l'.estat = .int (BitVec.ofNat 64 (c.lk.pcc.ring + c.cpl.toNat * 2 ^ 8 + c.cur.val * 2 ^ 16 +
    (if c.slot.isSome then 2 ^ 61 else 0) + (if orig.isSome then 2 ^ 62 else 0) + 2 ^ 63))

/-- The system registers that SYSWR writes with a masked value: number, and the state it leaves (the cards of chapters 5 to 11). -/
def plainWrites (t : Tandem) (v : W64) : List (Nat × (State → State)) :=
  let lk (f : Locker → Locker) (s : State) : State := s.modLk t f
  let cpu (f : Cpu → Cpu) (s : State) : State := s.modCpu t f
  [(0x040, lk fun l => { l with ecause := .int (v &&& 0xFFF3FEFFFFF) }), (0x041, lk fun l => { l with eaddr := .int (v &&& 0xFFFFFFFFFFF) }),
   (0x042, lk fun l => { l with enext := .int (v &&& 0xFFFFFFFFFFF) }), (0x080, lk fun l => { l with lkfrm := .int (v &&& 0xFFFFFFFFFF1) }),
   (0x081, lk fun l => { l with lkrsv := .int (v &&& 0xFFFFFFFFFF1) }), (0x0C0, cpu fun c => { c with dwinP := v }),
   (0x0C1, cpu fun c => { c with dwinX := v }), (0x100, cpu fun c => { c with tlbhi := .int v }),
   (0x101, cpu fun c => { c with tlblo := .int v }), (0x105, cpu fun c => { c with xwptr := v.toNat % 128 }),
   (0x140, lk fun l => { l with mod0Base := .int (v &&& 0xFFFFFFFFFFF) }),
   (0x141, lk fun l => { l with mod0Ctl := .int (v &&& 0xC0FFFFFF00FFFFFF) }),
   (0x142, lk fun l => { l with mod1Base := .int (v &&& 0xFFFFFFFFFFF) }),
   (0x143, lk fun l => { l with mod1Ctl := .int (v &&& 0xC0FFFFFF00FFFFFF) }), (0x149, lk fun l => { l with qstat := .int (v &&& 1) }),
   (0x188, cpu fun c => { c with timctl := v &&& 3 })]

/-- The system registers that SYSRD reads from one field: number and value (the cards). -/
def plainReads (s : State) (t : Tandem) : List (Nat × TWord) :=
  let c := s.cpu t
  let l := c.lk
  [(0x020, c.emuword), (0x040, .int l.ecause.bits), (0x041, .int l.eaddr.bits), (0x042, .int l.enext.bits),
   (0x043, .int l.estat.bits), (0x049, .int c.vtab), (0x04A, .int 0), (0x080, .int l.lkfrm.bits), (0x081, .int l.lkrsv.bits), (0x0C0, .int c.dwinP), (0x0C1, .int c.dwinX), (0x100, c.tlbhi),
   (0x101, c.tlblo), (0x102, .int c.xctl), (0x103, .int c.xmiss), (0x105, .int (BitVec.ofNat 64 c.xwptr)), (0x140, l.mod0Base),
   (0x141, l.mod0Ctl), (0x142, l.mod1Base), (0x143, l.mod1Ctl), (0x144, l.crcp0), (0x145, l.crcp1), (0x146, l.crcp2),
   (0x149, l.qstat), (0x180, .int c.pmctl), (0x181, .int c.pmsel), (0x182, .int c.pmcyc), (0x183, .int c.pmret),
   (0x184, .int (BitVec.ofNat 64 (tget 0 c.pmev 0).toNat)), (0x185, .int (BitVec.ofNat 64 (tget 0 c.pmev 1).toNat)),
   (0x186, .int (BitVec.ofNat 64 (tget 0 c.pmev 2).toNat)), (0x187, .int (BitVec.ofNat 64 (tget 0 c.pmev 3).toNat)),
   (0x188, .int c.timctl), (0x000, .int (match t with | .a => 0x01010800 | .b => 0x01010801 | .g => 0x01000202))]

/-- The privilege that SYSWR of a number asks for: SYS, and ring 0 for the numbers whose card asks for it. -/
def mayWrite (s : State) (t : Tandem) (n : Nat) : Prop :=
  (s.cpu t).sys = true ∧ (ring0Reg n = true → (s.cpu t).ring = 0)

/-- SYS and ring 0. -/
def privileged (s : State) (t : Tandem) : Prop := (s.cpu t).sys = true ∧ (s.cpu t).ring = 0

/-- The table that a VTAB value names, whether it lies within the SRAM or the store (R448), and the shadow after `n` copied entries
(R428). -/
def tableBase (v : W64) : Nat := v.toNat / 2 ^ 6 % 2 ^ 34 * 64
def tableFits (base : Nat) : Prop :=
  (0x20000000 ≤ base ∧ base + 18432 ≤ 0x20400000) ∨ (0x40000000 ≤ base ∧ base + 18432 ≤ 0x44000000)
def copied (t : Tandem) (base n : Nat) (bad : List Nat) (s : State) : State :=
  (List.range n).foldl (fun s i => s.copyEntry t base i (bad.contains i)) s

/-- The saved state of locker `n`, and the element `vec` of the vector shadow, hold at most one wrong bit (R412, R457). -/
def savedGood (s : State) (t : Tandem) (n : Nat) : Prop := s.wrong (.saved t n) ≤ 1
def shadowGood (s : State) (t : Tandem) (vec : Nat) : Prop := s.wrong (.shadow t vec) ≤ 1

/-- The state with ECCU detected for a memory group and shown in IRT_ECC (R425, R897). -/
def eccMetIn (s : State) (g : Nat) : State := (s.detect 4 g).eccUnc g

/-- c14 reaches the `n` bytes of a frame at `pa`, for permissions `perms` (Table 5-8, R472, R474). -/
def frameReached (s : State) (t : Tandem) (perms n pa : Nat) : Prop :=
  let k := s.c t 14
  k.st = .valid ∧ k.sealed = false ∧ (s.cpu t).ring ≤ k.ring ∧ k.has perms = true ∧ k.base ≤ pa ∧ pa + n ≤ k.top

/-- The six 8-byte items of a frame are translated and their words judged, in order; `es` are their entries (R472, Table 10-1). -/
def ItemsFit (t : Tandem) : List (Nat × TWord) → State → List SbEnt → State → Prop
  | [], s, es, s' => es = [] ∧ s' = s
  | (a, v) :: r, s, es, s' => ∃ ph rg s1 s2 es', (translate t .fill .data (s.cpu t).ring a 8).run s = .ok (ph, rg) s1 ∧
      ((rg.isDev = false ∧ (targetTag t (ph.lo / 8) true a).run s1 = .ok () s2) ∨ (rg.isDev = true ∧ v.isData = true ∧ s2 = s1)) ∧
      es = ⟨ph.lo, bytesOf 8 v.bits.toNat, if rg.isDev then .dev else .whole v.tag⟩ :: es' ∧ ItemsFit t r s2 es' s'

/-- The items of the frame at `pa` of the current locker (Table 10-1). -/
def frameItems (s : State) (t : Tandem) (pa : Nat) : List (Nat × TWord) :=
  let l := (s.cpu t).lk
  [(pa + 0x10, l.ecause), (pa + 0x18, l.eaddr), (pa + 0x20, l.enext), (pa + 0x28, l.estat), (pa + 0x30, .int l.lkfrm.bits),
   (pa + 0x38, .int 0)]

/-- The pair and the items of the frame at `pa` pass every check and join the store buffer, leaving `s'` (R472). -/
def FrameFilled (t : Tandem) (pa : Nat) (s s' : State) : Prop :=
  let k := s.c t 15
  frameReached s t (pST + pSTC) 64 pa ∧ ((s.c t 15).tethered = true → (s.c t 14).has pTTH = true) ∧
  ∃ ph rg s1 s2 es s3 sp, (translate t .fill .noDev (s.cpu t).ring pa 16).run s = .ok (ph, rg) s1 ∧
    (k.st = .valid → (rg = .spenik → k.has pDUR = true) ∧ (k.tether = true → rg = .sram)) ∧
    (do targetTag t (ph.lo / 8) true pa; targetTag t (ph.lo / 8 + 1) true pa : Cm Unit).run s1 = .ok () s2 ∧
    ItemsFit t (frameItems s t pa) s2 es s3 ∧
    s3.spk.ledgerAdmit t (persistentWords ([ph.lo / 8, ph.lo / 8 + 1] ++ es.map fun e => e.addr / 8)) = some sp ∧
    joinsNow t (capEntry ph.lo k :: es) { s3 with spk := sp } ∧
    s' = (capEntry ph.lo k :: es).foldl (joined t) { s3 with spk := sp }

/-- The words at these addresses are loaded one after another with these values (R474). -/
def ItemsLoaded (t : Tandem) : List Nat → State → List TWord → State → Prop
  | [], s, vs, s' => vs = [] ∧ s' = s
  | a :: r, s, vs, s' => ∃ ph rg s1 s2 v s3 vs', (translate t .load .data (s.cpu t).ring a 8).run s = .ok (ph, rg) s1 ∧
      (waitOverlap t ph 8).run s1 = .ok () s2 ∧ LoadGives t false rg ph 8 a false s2 v s3 ∧ vs = v :: vs' ∧ ItemsLoaded t r s3 vs' s'

/-- The frame at `pa` is read: its pair gives `c`, and its first five items `vs` (R474). -/
def FrameRead (t : Tandem) (pa : Nat) (s : State) (c : Cap) (vs : List TWord) (s' : State) : Prop :=
  frameReached s t (pLD + pLDC) 56 pa ∧
  ∃ ph rg s1 s2 s3, (translate t .capLoad .noDev (s.cpu t).ring pa 16).run s = .ok (ph, rg) s1 ∧
    (waitOverlap t ph 16).run s1 = .ok () s2 ∧ ReadsWords t false rg ph 16 pa s2 s3 ∧
    capOfPair (s3.viewWord t (ph.lo / 8)) (s3.viewWord t (ph.lo / 8 + 1)) = some c ∧
    ItemsLoaded t [pa + 0x10, pa + 0x18, pa + 0x20, pa + 0x28, pa + 0x30] (if c.st = .malformed then s3.mchk 0x12 else s3) vs s'

/-- The conditions of R515 on the two words of a TLB entry. -/
def entryLegal (hi lo : W64) : Prop :=
  let size := hi.toNat / 2 ^ 44 % 2 ^ 6
  (12 ≤ size ∧ size ≤ 44) ∧ hi.toNat / 2 ^ 12 % 2 ^ 32 * 2 ^ 12 % 2 ^ size = 0 ∧
    lo.toNat / 2 ^ 12 % 2 ^ 28 * 2 ^ 12 % 2 ^ (min size 40) = 0 ∧ lo.toNat % 8 ≤ 4 ∧
    hi &&& 0x001C000000000FFF = 0 ∧ lo &&& 0xFFFFFF0000000C18 = 0

/-- The entry is not locked (R517). -/
def unlockedAt (c : Cpu) (i : Nat) : Prop := ∀ e, tget none c.tlb i = some e → e.hi.getLsbD 53 = false

/-- The result of an accepted and of a rejected TLB write (R515). -/
def tlbWritten (t : Tandem) (gd : Reg) (i : Nat) (hi lo : W64) (next : Cpu → Nat) (s : State) : State :=
  (s.modCpu t fun c => { c with tlb := tset none c.tlb i (some ⟨hi, lo⟩), xwptr := next c }).wrG t gd (.int (BitVec.ofNat 64 i))
def tlbRejected (t : Tandem) (gd : Reg) (s : State) : State :=
  (s.modCpu t fun c => { c with xrej := min 0xFFFF (c.xrej + 1) }).wrG t gd (.int (BitVec.allOnes 64))

/-- An entry with V cleared. -/
def killed (e : TlbEnt) : TlbEnt := { e with hi := e.hi &&& ~~~(1#64 <<< 55) }

/-- The running context of an enabled scheduler executes the word in its own locker at CPL 0 (R491). -/
def actsAs (s : State) (m : Side) (k : Fin 64) : Prop :=
  (s.sch m).en = true ∧ (s.cpu m.tandem).cpl = 0 ∧ (s.cpu m.tandem).cur = (s.sch m).runlk ∧ (s.sch m).running = some k

/-- BADOP counted (R491). -/
def badop (m : Side) (s : State) : State := s.modSch m fun h => { h with badop := min 0xFF (h.badop + 1) }

/-- A register access of `who` reaches block `b` at once: it executes and can reach the block, no store of its own waits to drain
first, and no unit of the block is in reset (R190, R557). -/
def reaches (s : State) (who : Tandem) (b : Fin 17) : Prop :=
  s.acc who b = true ∧ (s.cpu who).sb = [] ∧ s.devBusy b = false

/-- A locker's record without context `k` (R493). -/
def forget (k : Fin 64) (l : LkInfo) : LkInfo :=
  { l with occ := if l.occ = some k then none else l.occ, fpown := if l.fpown = some k then none else l.fpown }

/-- The router's record with new routes or sources seen: the wake latches of sources that are no longer pending clear (R902). -/
def unlatched (s : State) (f : Irt → Irt) (s' : State) : Prop :=
  ∃ a b, s' = { s with irt := { f s.irt with wokenA := a, wokenB := b } } ∧
    (∀ k, tget false a k = (tget false s.irt.wokenA k && s'.isPending .a k)) ∧
    (∀ k, tget false b k = (tget false s.irt.wokenB k && s'.isPending .b k))

/-- One more access denied. -/
def denied (s : State) : State := { s with irt := { s.irt with denied := min 0xFFFF (s.irt.denied + 1) } }

/-- The CHn_CTL values that are ignored (R693, R694): a reserved MODE, SLV, capture edge or bits [19:18], CASCADE on channel 0, QUAD
below channel 16, a channel that is its own master. -/
def ctlIgnored (n v : Nat) : Prop :=
  let mode := v / 2 ^ 27 % 8
  let slv := v / 2 ^ 25 % 4
  5 ≤ mode ∨ (mode = 2 ∧ n = 0) ∨ (mode = 3 ∧ n < 16) ∨ slv = 3 ∨ v / 2 ^ 20 % 32 = n ∨
    v / 2 ^ 18 % 4 = 3 ∨ (16 ≤ n ∧ v / 2 ^ 16 % 4 = 3)

/-- Every channel that `p` names becomes `f` of itself, and nothing else changes. -/
def chansBecome (s s' : State) (p : Nat → Bool) (f : Chan → Chan) : Prop :=
  { s' with cta := s.cta } = s ∧ ∀ n, n < 32 → s'.chan n = if p n then f (s.chan n) else s.chan n

/-- A match at the compare value (R690). -/
def matched (c : Chan) : Chan := if c.cnt = c.cmp then { c with mtch := true, phase := false } else c

/-- A down event (R687, R688): the counter reloads from 0, raising UNF and the phase, and a one-shot channel stops. -/
def countedDown (c : Chan) : Chan :=
  if c.cnt = 0 then
    matched { c with
      ctl := if c.ctl.getLsbD 30 then BitVec.ofNat 32 (c.ctl.toNat % 2 ^ 31) else c.ctl, cnt := c.reload, unf := true, phase := true,
      unfs := if c.opened then c.unfs + 1 else c.unfs }
  else matched { c with cnt := c.cnt - 1 }

/-- A captured value: a second one before a read sets OVR (R699). -/
def captured (c : Chan) (v : BitVec 32) (long : Bool) : Chan :=
  { c with capValue := v, capOvr := c.capOvr || c.capValid, capValid := true, capLong := long, capf := true }

/-- The register CHn_x of a channel. -/
def field (s : State) (n : Fin 32) (f : Chan → Chan) : State := s.setChan n.val (f (s.chan n.val))

/-- Panel I/O changed. -/
def pio (s : State) (f : Pio → Pio) : State := { s with pio := f s.pio }

/-- The output word of a bank changed. -/
def outWord (k : Fin 16) (f : BitVec 32 → BitVec 32) (p : Pio) : Pio := { p with out := tset 0 p.out k.val (f (tget 0 p.out k.val)) }

/-- Pin `n` reads level `b` in a table of bank words, and the other pins read as before. -/
def pinSet (t t' : Tbl (BitVec 32)) (n : Nat) (b : Bool) : Prop :=
  ∀ m, m < 512 → bankBit t' m = if m = n then b else bankBit t m

/-- A channel sees pin `p`: its bank is enabled and its function is an input, a row or a column (R704, R714). -/
def inputPin (s : State) (p : Nat) : Bool := s.pio.en.getLsbD (p / 32) && decide (s.pio.func p ∈ [0, 1, 5, 6])

/-- The pins PINA, PINB and CAPPIN of a channel. -/
def pinA (c : Chan) : Nat := c.pin.toNat % 2 ^ 9
def pinB (c : Chan) : Nat := c.pin.toNat / 2 ^ 9 % 2 ^ 9
def capPin (c : Chan) : Nat := c.pin.toNat / 2 ^ 20 % 2 ^ 9

/-- The channel counts from its own source alone. -/
def alone (c : Chan) : Prop := c.slv = 0 ∧ c.mode ≠ 2 ∧ c.mode ≠ 4

/-- Channel `j` takes a down event of its own source in a cycle: a TIMER channel's prescaler steps, or PINA of an EVENT channel
shows an edge that CTL.EDGE selects, 0 rising, 1 falling, 2 both (Table 15-1, R693, R714). -/
def downIn (s : State) (k : CountCycle) (j : Nat) : Bool :=
  let c := s.chan j
  c.run && !s.chanHeld j &&
    (c.mode == 0 && (k.rising.getLsbD j || k.falling.getLsbD j) ||
      c.mode == 1 && inputPin s (pinA c) && (k.rising.getLsbD j && (c.edge == 0 || 2 ≤ c.edge) || k.falling.getLsbD j && 1 ≤ c.edge))

/-- The registers of a scan engine's matrix (R708): rows, columns, first row pin and first column pin, KDEB. -/
def rowsOf (p : Pio) : Nat := p.scfg.toNat / 2 ^ 56 % 2 ^ 6
def colsOf (p : Pio) : Nat := p.scfg.toNat / 2 ^ 50 % 2 ^ 6
def kdebOf (p : Pio) : Nat := p.scfg.toNat / 2 ^ 8 % 2 ^ 4

/-- Key (r, c) is scanned: it is one of the matrix, and its row's and its column's bank are enabled (R702, R708). -/
def scanned (p : Pio) (r c : Nat) : Bool :=
  decide (r < rowsOf p ∧ c < colsOf p) && p.en.getLsbD ((p.scfg.toNat / 2 ^ 41 % 2 ^ 9 + r) / 32) &&
    p.en.getLsbD ((p.scfg.toNat / 2 ^ 32 % 2 ^ 9 + c) / 32)

/-- What a scan senses of key (r, c), and the key's bit in a table of rows. -/
def sense (sensed : List (BitVec 32)) (r c : Nat) : Bool := (sensed.getD r 0).getLsbD c
def keyBit (t : Tbl (BitVec 32)) (r c : Nat) : Bool := (tget 0 t r).getLsbD c

/-- Key (r, c) changes its state in this scan, the KDEB-th in a row that disagrees with it (R709). -/
def keyTurns (p : Pio) (sensed : List (BitVec 32)) (r c : Nat) : Bool :=
  scanned p r c && sense sensed r c != keyBit p.keys r c && decide (kdebOf p ≤ tget 0 p.keyRun (32 * r + c) + 1)

/-- The entries of the keys that change, row by row: valid, pressed, wet, row, column and the time in ms (R709). -/
def keyEntries (p : Pio) (ms : Nat) (sensed : List (BitVec 32)) : List (BitVec 32) :=
  (List.range 32).flatMap fun r => (List.range 32).filterMap fun c =>
    if keyTurns p sensed r c then
      some (BitVec.ofNat 32 (2 ^ 31 + (sense sensed r c).toNat * 2 ^ 30 + (keyBit p.wet r c).toNat * 2 ^ 29 + r * 2 ^ 24 + c * 2 ^ 19 +
        ms % 2 ^ 19))
    else none

/-- Key (r, c) changes its wet state in this test, the second in a row that disagrees with it (R710). -/
def wetTurns (p : Pio) (sensed : List (BitVec 32)) (r c : Nat) : Bool :=
  scanned p r c && sense sensed r c != keyBit p.wet r c && decide (tget 0 p.wetRun (32 * r + c) ≠ 0)

/-- How many keys turn from dry to wet in this test. -/
def wetted (p : Pio) (sensed : List (BitVec 32)) : Nat :=
  ((List.range 1024).filter fun i => wetTurns p sensed (i / 32) (i % 32) && sense sensed (i / 32) (i % 32)).length

/-- The xSPI controller changed. -/
def xsp (s : State) (f : Xsp → Xsp) : State := { s with xsp := f s.xsp }
/-- The groomer changed. -/
def grm (s : State) (f : Grm → Grm) : State := { s with grm := f s.grm }
/-- The Spenik store changed. -/
def spk (s : State) (f : Spk → Spk) : State := { s with spk := f s.spk }

/-- A line of the flash window of a port (Table 1-2). -/
def windowLineOf (onB : Bool) (line : Nat) : Prop :=
  if onB then 0x180000000 ≤ 64 * line ∧ 64 * line < 0x200000000 else 0x100000000 ≤ 64 * line ∧ 64 * line < 0x180000000

/-- A load that reached the port while its command ran comes before any later command (R586). -/
def nextAtPort (onB : Bool) (c : Cpu) : Cpu :=
  match c.wait with
  | .load q => if windowLine (if onB then .b else .a) (q.phys.lo / 64) then { c with wait := .load { q with turn := true } } else c
  | _ => c

/-- The command under way ends with the controller at `x`, and the loads that waited for it are next; INV leaves no line of its port's
window in the L2, and nothing else changes but what caches change (R575, R586). -/
def xspEnded (s s' : State) (x : Xsp) : Prop :=
  let turn := nextAtPort (s.xsp.run.getLsbD 29)
  let r : State := { s with xsp := { x with busy := false, done := true }, cpuA := turn s.cpuA, cpuB := turn s.cpuB, cpuG := turn s.cpuG }
  (s.xsp.run.getLsbD 30 = false → s' = r) ∧
  (s.xsp.run.getLsbD 30 = true → Quiet r s' ∧ ∀ line, windowLineOf (s.xsp.run.getLsbD 29) line → s'.l2Line line = none)

/-- The groomer may write the macro: it has read its metadata, its clock runs, and RUN-OUT does not inhibit it. -/
def groomerWorks (s : State) : Prop :=
  s.gate.pgood = true ∧ 3 ≤ s.gate.step.val ∧ s.clk.crystal = true ∧ s.inhibit = false

/-- The number of the next warden record: 0 is never used (R627). -/
def nextRecord (k : Spk) : Nat := if (k.recno + 1) % 2 ^ 48 = 0 then 1 else (k.recno + 1) % 2 ^ 48

/-- The identification of a block (the cards at offset 0 of each block but GATE). -/
def blockId (b : Fin 17) : W64 := if b = 0 then 0x4D550401 else 0x4D550101

/-- The XSP_CMD values that R576 refuses. -/
def cmdRefused (s : State) (who : Tandem) (v : BitVec 32) : Prop :=
  s.xsp.busy = true ∨ 256 < v.toNat / 2 ^ 12 % 2 ^ 9 ∨
    (who ≠ .g ∧ v.getLsbD 28 = true ∧ s.xsp.addr.toNat < 65536 ∧ s.gate.slot = some (if v.getLsbD 29 then .b else .a))

/-- The inputs that an evaluation takes when it is asked for. -/
def evalAsked (s : State) : State := grm s fun g => { g with evalReq := if g.evalReq.isSome then g.evalReq else some s.evalIn }

/-- A window miss of word `w` at a port in 8D-8D-8D that serves it now, and so can end without a data strobe (R577, R586, R589). -/
def strobeAwaited (s : State) (who : Tandem) (rg : Region) (turn : Bool) (w : Nat) : Prop :=
  ∃ q, s.windowMiss who rg w = some q ∧ (s.xsp.port q).mode = 2 ∧ (s.xsp.port q).winoff = false ∧
    (turn = true ∨ s.xsp.busy = false ∨ (if s.xsp.run.getLsbD 29 then Side.b else .a) ≠ q)

/-- An offset at which an access of a whole register of the block stands: a multiple of 4, and no upper half of a 64-bit one (R290). -/
def wholeRegister (b : Fin 17) (off : Nat) : Prop := off % 4 = 0 ∧ (off % 8 = 0 ∨ devWide b (off / 8 * 8) = false)

/-- A count of the epochs in a state. -/
def epochsIn (s : State) (st : EpSt) : Nat := (s.spk.closed.filter fun e => e.st == st).length

/-- Of `fails` log blocks that fail their verify, each is retired while another block than the `held` ones is free and fewer than 64
are retired (R658, R659). -/
def blocksRetired (s s' : State) (held fails : Nat) : Prop :=
  let n := min fails (min (s.logFree - held) (64 - s.grm.cur.logret))
  s'.grm.cur.logret = s.grm.cur.logret + n ∧ (n = 0 → s'.grm = s.grm ∧ s'.irt = s.irt) ∧
    (n ≠ 0 → s'.grm.saved = s'.grm.cur ∧ s'.irt.gevtRetire = true) ∧
    s'.grm.cur.map = s.grm.cur.map ∧ s'.mem = s.mem ∧ s'.wrd = s.wrd

/-- The slots of the warden ring that the record's writing skips: none where no write fails verify, and the slot due where one does
(R658, Table 14-1). -/
def slotsSkipped (k k' : Spk) (fails : Nat) : Prop :=
  (fails = 0 → k'.newest.toNat = k.slotDue ∧ k'.skipped = k.skipped) ∧
    (fails = 1 → k.skipped.length < 255 → k'.skipped = k.skipped ++ [k.slotDue])

/-- The write counts after `n` more writes to frame `p` and a save of the metadata, which writes each word of its 16 frames, physical
frames 17904 to 17919, once; a count saturates (R653 to R655, R675). -/
def worn (m m' : GrmMeta) (p n : Nat) : Prop :=
  ∀ q, let more := (if q = p then n else 0) + if 17904 ≤ q ∧ q < 17920 then 512 else 0
    m'.w q = if more = 0 then m.w q else min (2 ^ 48 - 1) (m.w q + more)

/-- LIFELOW where fewer than 152 spares are free: 1,520 without the retired frames and a move's target (R672). -/
def poolWarned (s : State) : State :=
  if 1520 - s.grm.cur.retired.length - (if s.grm.moving.isSome then 1 else 0) < 152 then { s with irt := { s.irt with gevtLife := true } }
  else s

/-- A move of frame `f` to `p` begins (R656). -/
def moveBegun (s : State) (f p : Nat) : State := poolWarned (grm s fun g => { g with moving := some (f, p) })

/-- The mission profile in use: its code, u in units of 1/10,000, c in tenths, BADCUST (Table 14-4, R665). -/
def missionProfile (s : State) : Fin 4 × Nat × Nat × Bool :=
  let row := (tget 0 s.gate.shadow 11).toNat
  let u := row % 2 ^ 16
  let c := row / 2 ^ 16 % 2 ^ 16
  if s.gate.profile = 0 then (0, 5000, 60, false)
  else if s.gate.profile = 1 then (1, 7000, 40, false)
  else if s.gate.profile = 2 then (2, 9500, 20, false)
  else if 1 ≤ u ∧ u ≤ 10000 ∧ 1 ≤ c ∧ c ≤ 1000 ∧ row / 2 ^ 32 % 2 ^ 32 = 0 ∧ tget 0 s.gate.shadow 12 = 0 then (3, u, c, false)
  else (2, 9500, 20, true)

/-- A whole number of days, of at most 65,535. -/
def wholeDays (v : Rat) : Nat := min 65535 v.floor.toNat

/-- A mechanism's result from its x, its D and its bounds' factors: all days where nothing is consumed, none where all is (R667,
R668). -/
def lifeLeft (x d klo khi : Rat) : LifeRes :=
  let days (v : Rat) : Nat := if x = 0 then 65535 else if 1 ≤ x then 0 else wholeDays v
  { st := 0, x := min 16383 (x * 16384).floor.toNat, d := days d, lo := days (d.floor * klo), hi := days (d.floor * khi) }

/-- H x (1/x - 1) / (24u) and, for BTI, H x (x^-5 - 1) / (24u), with H = POWMIN / 60 and u in units of 1/10,000 (Table 14-5). -/
def linearDays (powmin u : Nat) (x : Rat) : Rat := (powmin : Rat) / 60 * (1 / x - 1) / (24 * ((u : Rat) / 10000))
def btiDays (powmin u : Nat) (x : Rat) : Rat := (powmin : Rat) / 60 * ((1 / x) ^ 5 - 1) / (24 * ((u : Rat) / 10000))

/-- What the powered time does to a mechanism other than PKG: below 1,000 h it is INSUFF (R668). -/
def early (powmin u : Nat) (r : LifeRes) : LifeRes :=
  let n := 7305 - ((powmin : Rat) / 60 / (24 * ((u : Rat) / 10000))).floor.toNat
  if powmin < 60000 then { r with st := 1, d := n, lo := n, hi := n } else r

/-- A mechanism that takes H as an input: a saturated POWMIN gives x >= 1 (R675). -/
def powered (powmin u : Nat) (r : LifeRes) : LifeRes := if powmin = 0xFFFFFFFF then lifeLeft 1 0 1 1 else early powmin u r

/-- The largest value among the monitors that have not failed. -/
def isWorst (l : List Monitor) (v : Nat) : Prop :=
  (∃ b : BitVec 24, .ppm b ∈ l ∧ b.toNat = v) ∧ ∀ b : BitVec 24, .ppm b ∈ l → b.toNat ≤ v

/-- f of a flash register: ERASED / (1,000 x RATED) (Table 14-3). -/
def flashShare (v : W64) : Rat := ((v.toNat % 2 ^ 32 : Nat) : Rat) / (1000 * ((v.toNat / 2 ^ 32 % 2 ^ 16 : Nat) : Rat))

/-- The worst of the valid flash registers. -/
def worstFlash (a b : W64) : Rat :=
  if a.getLsbD 63 = true ∧ (b.getLsbD 63 = false ∨ flashShare b ≤ flashShare a) then flashShare a else flashShare b

/-- A detection has reached the warden; while a run-out record is due it goes into that record too (R627). -/
def detected (s : State) (bit : Fin 18) (detail : Byte) : State :=
  { s with wrd := { s.wrd with
      arrived := s.wrd.arrived ++ [⟨bit, detail⟩]
      tripDet := if s.wrd.mode == .runOut && !s.spk.runoutRec then s.wrd.tripDet ||| BitVec.ofNat 18 (2 ^ bit.val)
        else s.wrd.tripDet } }

/-- The registers of a core are the same: all but its caches, lookups and reservation. -/
def SameCore (s s' : State) (t : Tandem) : Prop := (s'.cpu t).hw Cpu.reset = (s.cpu t).hw Cpu.reset

def wrd (s : State) (f : Wrd → Wrd) : State := { s with wrd := f s.wrd }
def clk (s : State) (f : Clk → Clk) : State := { s with clk := f s.clk }
def gate (s : State) (f : Gate → Gate) : State := { s with gate := f s.gate }

/-- The record of a slot that fails with a code: the next slot in order, or none (R120, R159). -/
def slotFailed (g g' : Gate) (p : Side) (rest : List Side) (code : Byte) : Prop :=
  (g'.slotRes p).result = code ∧ g'.slotRes p.other = g.slotRes p.other ∧ g'.order = rest ∧ g'.recs = [] ∧
    g'.step = (if rest = [] then 5 else 4) ∧ g'.slot = g.slot

/-- The gatehouse waits at a step with tandem G running it. -/
def waitsAt (s : State) (n : Fin 8) : Prop := s.atStep n = true

/-- A port reads in 1S-1S-1S at 50 MHz with command 0x0C and 8 dummy cycles (R119). -/
def readsPlain (p : XspPort) : Prop := p.mode = 0 ∧ p.div = 48 ∧ p.rdcmd = 0x0C ∧ p.dummy = 8

/-- A test pulse is low, or one ended less than 100 µs ago: the channels are not read (R76, R100). -/
def blind (s : State) : Prop := s.wrd.taLow = true ∨ s.wrd.tbLow = true ∨ ∃ n, s.wrd.pulseEnd = some n ∧ s.us < n + 100

/-- The patrol tests and scrubs (R86, R89, R205). -/
def patrolRuns (s : State) : Prop := s.wrd.patrol = true ∧ s.wrd.pause = false ∧ s.clk.crystal = true

/-- The present sweep has tested both halves of every mechanism (R86). -/
def fullSweep (s : State) : Prop := ∀ n ∈ mechanisms, ∀ h : Fin 2, (BitVec.ofNat 8 n, h) ∈ s.wrd.tested

/-- No safety mailbox holds a half or a pending frame: the gates are closed (R804). -/
def gatesShut (s : State) : Prop :=
  ∀ (c : Side) (m : Fin 32), ((s.can c).getMb m.val).kind = 2 →
    ((s.can c).getMb m.val).st ≠ .half ∧ ((s.can c).getMb m.val).st ≠ .pend

/-- No word of tandem `t` executes. -/
def halted (s : State) (t : Tandem) : Prop := (s.cpu t).run ≠ .running

/-- Outputs low, neither toggling. -/
def outputsLow (s : State) : Prop := s.wrd.toggling = false ∧ s.wrd.outA = false ∧ s.wrd.outB = false

/-- A count that departs from its nominal by more than 3.8 per cent (R59). -/
def offBy (n nominal : Nat) : Prop := 38 * nominal < 1000 * (n - nominal) ∨ 38 * nominal < 1000 * (nominal - n)

/-- The watchdog's configuration write is accepted (R68, R91). -/
def cfgAccepted (d : Wd) (v : BitVec 32) : Prop :=
  d.lock = false ∧ 10 ≤ v.toNat % 2 ^ 14 ∧ v.toNat % 2 ^ 14 ≤ 10000 ∧ v.toNat / 2 ^ 16 % 2 ^ 14 < v.toNat % 2 ^ 14

/-- A watchdog after a valid service (R66, R69) and after an accepted configuration write. -/
def served (d : Wd) : Wd := { d with next := !d.next, effOpn := d.opn, effClose := d.close, us := 0 }
def configured (d : Wd) (v : BitVec 32) (lock : Bool) : Wd :=
  { d with opn := v.toNat / 2 ^ 16 % 2 ^ 14, close := v.toNat % 2 ^ 14, lock := lock }
def wdSet (s : State) (t : Tandem) (d : Wd) : State := wrd s fun w => w.setWd t d

/-- The main tandem that a detection loses: its LSx or WDx, a PATROL mechanism of its own, or its THIRD (Tables 2-3 and 2-6). -/
def losesMain (d : Det) : Option Side :=
  let n := d.detail.toNat
  if d.bit = 0 ∨ d.bit = 7 ∨ (d.bit = 10 ∧ n ∈ [0x01, 0x0C, 0x1A]) ∨ (d.bit = 15 ∧ n = 0) then some .a
  else if d.bit = 1 ∨ d.bit = 8 ∨ (d.bit = 10 ∧ n ∈ [0x02, 0x0D, 0x1B]) ∨ (d.bit = 15 ∧ n = 1) then some .b
  else none

/-- A detection that takes the machine to SAFE HOLD: CLK, SUPPLY, OTEMP, SAFE_RB, LANE, and PATROL of any other mechanism. -/
def holds (d : Det) : Prop := d.bit ∈ [(5 : Fin 18), 6, 11, 14, 16] ∨ (d.bit = 10 ∧ losesMain d = none)

/-- A detection that restarts tandem G: LSG, WDG, and its THIRD. -/
def restarts (d : Det) : Prop := d.bit = 2 ∨ d.bit = 9 ∨ (d.bit = 15 ∧ losesMain d = none)

/-- The warden's record of a detection (the card of WRD_FREC). -/
def recordOf (s : State) (d : Det) : Nat :=
  2 ^ 63 + s.us / 1000 % 2 ^ 32 * 2 ^ 24 + s.wrd.mode.code * 2 ^ 16 + d.detail.toNat * 2 ^ 8 + d.bit.val

/-- Both main tandems are held. -/
def mainHeld (s : State) : Prop := s.cpuA.run = .held ∧ s.cpuB.run = .held

/-- No upset lies in the groomer's metadata. -/
def metadataSound (s : State) : Prop := ∀ u ∈ s.upset, ∀ c w, u.site ≠ .metadata c w

/-- The bus side of a controller runs. -/
def onWire (s : State) (c : Side) : Prop := s.canOn c = true ∧ s.wrd.mode ≠ .runOut ∧ s.clk.crystal = true

/-- Main tandem `h` reaches the registers of a controller that runs. -/
def canBy (s : State) (h c : Side) : Prop := reaches s h.tandem (canBlk c) ∧ onWire s c

/-- The controller changed. -/
def can (s : State) (c : Side) (f : Can → Can) : State := s.setCan c (f (s.can c))

/-- CAN_EVT bits set. -/
def raised (k : Can) (bits : BitVec 7) : Can := { k with evt := k.evt ||| bits }

/-- The controller is in a state, a change of state raising CAN_EVT.STATE (R789). -/
def entered (k : Can) (st : CanState) : Can := if k.st = st then k else raised { k with st := st } 1

/-- A mailbox that is not the tandem's own (R797). -/
def foreign (b : Mbox) (h : Side) : Prop := b.kind ≠ 2 ∧ b.owner ≠ h

/-- The safe channel's gate cut this mailbox off in HALF in this microsecond, before the other half's SUBMIT (Table 17-9). -/
def cutBefore (s : State) (b : Mbox) (h : Side) : Prop :=
  b.st = .withheld ∧ b.cutUs = some s.us ∧ b.submitted h.other = true ∧ b.submitted h = false

/-- The gate admits a frame of one half (R802): REDUCED, with neither the RC reference stopped nor an emergency-stop reaction. -/
def oneHalf (s : State) : Prop := s.wrd.rcStopped = false ∧ s.wrd.esGates = false ∧ s.wrd.mode = .reduced

/-- The error counters of CAN_ERRC, and what an error adds to them (R783). -/
def errCounts (k : Can) : List Nat := [k.eBit, k.eStuff, k.eForm, k.eCrc, k.eAck]
def errCounted (k : Can) : CanErr → Can
  | .bit => { k with eBit := min 0xFF (k.eBit + 1) }
  | .stuff => { k with eStuff := min 0xFF (k.eStuff + 1) }
  | .form => { k with eForm := min 0xFF (k.eForm + 1) }
  | .crc => { k with eCrc := min 0xFF (k.eCrc + 1) }
  | .ack => { k with eAck := min 0xFF (k.eAck + 1) }

/-- The controller receives no frame of another node. -/
def noFrame (k : Can) : Can := { k with rxBusy := false }

/-- A submitted half. -/
def half (b : Mbox) (h : Side) : Mbox := match h with | .a => { b with ha := true } | .b => { b with hb := true }

/-- A mailbox with its frame, ready for the bus. -/
def admitted (b : Mbox) (brsen : Bool) (h : Side) (deg : Bool) : Mbox :=
  { half b h with st := .pend, deg := deg, errs := 0, frame := some ((half b h).build brsen h deg) }

/-- Mailbox `m` may go on the bus. -/
def ready (k : Can) (m : Nat) : Prop := (k.getMb m).st = .pend ∧ ((k.getMb m).fdf = true → k.fden = true)

/-- What arbitrates for a mailbox. -/
def keyOf (k : Can) (m : Nat) : Nat := match (k.getMb m).frame with | some f => f.key | none => 0

/-- A received frame as the FIFO keeps it. -/
def entry (s : State) (f : CanFrame) (fl : Fin 128) (safe gap deg : Bool) (ch : Fin 32) : RxEntry :=
  { frame := f, safe := safe, gap := gap, deg := deg, rxc := ch, filt := fl, time := s.canTime }

/-- The tag changed. -/
def nfc (s : State) (f : Nfc → Nfc) : State := { s with nfc := f s.nfc }

/-- The island answers a request; an answer counts in SERVED once the die has been released and its host side runs (R145, R824). -/
def answered (s : State) (r : NfcResp) : State :=
  nfc s fun n => { n with resp := r, served := if r ≠ .none ∧ s.gate.released = true ∧ s.nfcOn = true then n.served + 1 else n.served }

/-- A violation of the NFC classes: counted once the die has been released. -/
def violation (s : State) (k : Nat) : State := if s.gate.released then s.vc k else s

/-- A field access holds the store for up to `us` microseconds, a free time that nothing counts while the die is unpowered (R836);
no host command is under way. -/
def held (s : State) (us : Nat) : State :=
  if s.gate.pgood then
    { nfc s (fun n => { n with waited := false, hold := some (s.us + 1 + (Config.free s.free).toNat % us) }) with free := s.free + 1 }
  else nfc s fun n => { n with waited := false }

/-- A reader's mask fits the UID; of 16 slots the next four bits of the UID number the one that answers (Table 18-1). -/
def maskFits (m : InvMask) (mask uid : W64) : Prop :=
  mask.toNat % 2 ^ m.len.val = uid.toNat % 2 ^ m.len.val ∧ ∀ k, m.slot = some k → uid.toNat / 2 ^ m.len.val % 16 = k.val

/-- The island hears the request: it answers a field, the coding is the one answered, and the tag listens (Table 18-1). -/
def hears (s : State) (r : NfcReq) : Prop := s.tagOn = true ∧ r.codingOk = true ∧ s.nfc.listens r = true

/-- The bytes that a read of blocks delivers: each block's status first, where Option_flag asks for it. -/
def readBytes (n : Nfc) (option : Bool) (first count : Nat) : List Byte :=
  (List.range count).flatMap fun i =>
    (if option then [if n.locked (first + i) then 1 else 0] else []) ++ bytesOf 4 (n.block (first + i)).toNat

/-- The blocks of the store after a write. -/
def wroteBlocks (n n' : Nfc) (first : Nat) (data : List (BitVec 32)) : Prop :=
  ∀ b, n'.block b = if first ≤ b ∧ b < first + data.length then data.getD (b - first) 0 else n.block b

/-- The USB block changed. -/
def usb (s : State) (f : Usb → Usb) : State := { s with usb := f s.usb }

/-- The pull-up may be connected: released, VDD_USB within its band, no RUN-OUT (R138, R142, R164). -/
def mayPull (s : State) : Bool := s.gate.released && s.wrd.rails.getLsbD 6 && decide (s.wrd.mode ≠ .runOut)

/-- The hub runs: its clocks run, nothing holds it in reset, and the mode is neither GATEHOUSE nor RUN-OUT (R186, R205, R738, R761). -/
def hubUp (s : State) : Prop :=
  s.blkOn blkUSB = true ∧ s.devBusy blkUSB = false ∧ s.wrd.mode ≠ .gatehouse ∧ s.wrd.mode ≠ .runOut ∧ s.clk.crystal = true

/-- The block answers its bus: it runs with its pull-up connected, and its upstream port is under no test (R739, R753). -/
def attached (s : State) : Prop := s.usb.pullup = true ∧ hubUp s ∧ s.usb.testmode = 0

/-- It is attached and not suspended. -/
def awake (s : State) : Prop := attached s ∧ s.usb.susp = false

/-- The answer on the bus. -/
def replied (s : State) (r : UsbResp) : State := usb s fun u => { u with resp := r }

/-- USB_EVT bits set. -/
def evts (u : Usb) (bits : BitVec 10) : Usb := { u with evt := u.evt ||| bits }

/-- An endpoint of the function resynchronised with its buffers discarded (Table 16-7, rows 1 and 2). -/
def emptied (p : Ep) : Prop :=
  p.toggle = false ∧ p.halt = false ∧ p.hwnext = false ∧ p.st0 = false ∧ p.st1 = false

/-- What a bus reset leaves of the block (R742, Table 16-7). -/
def busWasReset (u : Usb) : Prop :=
  u.hubaddr = 0 ∧ u.fnaddr = 0 ∧ u.hubcfg = false ∧ u.fncfg = false ∧ u.hubRwe = false ∧ u.fnRwe = false ∧ u.susp = false ∧
    (∀ n, (u.port n).st = .poweredOff) ∧ (∀ e, e < 5 → emptied (u.ep e))

/-- Device `d` hears its bus: the hub always, the function while port 1 is enabled. -/
def hearsBus (s : State) (d : UsbDev) : Prop := awake s ∧ (d = .fn → (s.usb.port 1).st = .enabled ∧ s.usb.fnTest = 0)

/-- The device is in Test_SE0_NAK. -/
def nakTested (s : State) (d : UsbDev) : Prop :=
  s.usb.pullup = true ∧ hubUp s ∧ (match d with
    | .hub => s.usb.testmode = 3
    | .fn => s.usb.testmode = 0 ∧ s.usb.fnTest = 3 ∧ (s.usb.port 1).st = .enabled)

/-- The link's lines without the pull-up. -/
def unplugged (u : Usb) : Usb := { u with pullup := false, kOut := false, wake := false, chirp := .none }

/-- In microframe 0 each of ports 2 to 4 that is enabled below high speed has the frame's SOF or keep-alive (R749). -/
def sofSent (u u' : Usb) : Prop :=
  { u' with ports := u.ports } = u ∧ ∀ n, u'.port n =
    if u.uframe = 0 ∧ 2 ≤ n ∧ n ≤ 4 ∧ (u.port n).st = .enabled ∧ (u.port n).speed ≠ .high then { u.port n with sof := some u.frame }
    else u.port n

/-- No device stands at the port. -/
def noDevice (p : Port) : Prop := p.st = .poweredOff ∨ p.st = .disconnected ∨ ∃ t w, p.st = .testing t w false

/-- USB_OCNn of port `k` is low, or high. -/
def ocTo (u : Usb) (k : Nat) (low : Bool) : Usb :=
  { u with ocPins := if low then u.ocPins ||| 1#5 <<< k else u.ocPins &&& ~~~(1#5 <<< k) }

/-- The console's USB session has nothing to send in EP3, and no reset waits for its last packet (R752, R873). -/
def consoleQuiet (s : State) : Prop :=
  ((s.ses 4).opn = false ∨ (s.ses 4).out = []) ∧ ¬ (s.uat.afterSes = 4 ∧ s.uat.afterLeft = some 0)

/-- The characters of a packet, received one by one by the USB session. -/
def typed : List Byte → State → State → Prop
  | [], s, t => t = s
  | b :: r, s, t => ∃ s', exec (.consoleCharacter 4 b false) s = .next s' ∧ typed r s' t

/-- An address or a test mode that an abandoned request would have set is forgotten (R755). -/
def forgets (d : UsbDev) (u : Usb) : Usb :=
  match d with | .hub => { u with hubNewAddr := none, testNew := 0 } | .fn => { u with fnNewAddr := none, fnTestNew := 0 }

/-- A SETUP answered ACK, after which EP0 of `d` stands at `e` and the block has changed by `f`. -/
def took (s : State) (d : UsbDev) (e : Ep0) (f : Usb → Usb) : State :=
  usb s fun u => { (f (forgets d u)).setEp0 d e with resp := .ack }

/-- The request is answered STALL and counted in VC_USB_REQ (R753). -/
def refusedReq (s : State) (d : UsbDev) : State := took (s.vc 4) d .stalled id

/-- The request has no data stage, and its status stage follows. -/
def doneReq (s : State) (d : UsbDev) (f : Usb → Usb) : State := took s d (.statusIn false) f

/-- The request returns `item`, cut to wLength, with the zero-length packet of R765. -/
def readReq (s : State) (d : UsbDev) (w : Setup) (item : List Byte) : State :=
  let n := min w.wLength.toNat item.length
  took s d (if w.wLength = 0 then .statusIn false
    else .dataIn (item.take n) (decide (n < w.wLength.toNat ∧ n % 64 = 0)) true false) id

/-- Interfaces 0 up to this number exist (Table 16-5). -/
def interfaces (d : UsbDev) : Nat := match d with | .hub => 1 | .fn => 3

/-- A port changed, with a change bit set and USB_EVT.PORTCHG. -/
def portTo (u : Usb) (n : Nat) (p : Port) (bit : BitVec 5) : Usb := evts (u.setPort n { p with change := p.change ||| bit }) 0x100

/-- The function's endpoint register behind EP1, EP2 and EP3 IN. -/
def inEp (e : Fin 3) : Fin 16 := ⟨e.val + 1, by omega⟩

/-- The function's endpoint register behind EP3 and EP4 OUT. -/
def outEp (e : Fin 2) : Fin 16 := ⟨e.val + 3, by omega⟩

/-- The state of an endpoint's buffer `b`, and the endpoint with that state changed. -/
def bufState (p : Ep) (b : Bool) : Bool := if b then p.st1 else p.st0
def withBuf (p : Ep) (b v : Bool) : Ep := if b then { p with st1 := v } else { p with st0 := v }

/-- One endpoint changed. -/
def epTo (s : State) (e : Nat) (p : Ep) : State := usb s fun u => u.setEp e p

/-- The console changed. -/
def uat (s : State) (f : Uat → Uat) : State := { s with uat := f s.uat }

/-- A session changed. -/
def sess (s : State) (n : Fin 5) (f : Session → Session) : State := uat s fun u => { u with ses := tset .reset u.ses n.val (f (tget .reset u.ses n.val)) }

/-- Text that is not a reply enters the output buffer only where it finds room (R862). -/
def withRoom (x : Session) (t : Text) : Session := if x.out.length + t.length ≤ 4096 then { x with out := x.out ++ t } else x

/-- The prompt and the echo are sent while QUIET is 0; a prompt is never dropped (R857, R862). -/
def prompted (x : Session) : Session := if x.quiet then x else { x with out := x.out ++ txt "umaon> " }
def echoed (x : Session) (t : Text) : Session := if x.quiet then x else withRoom x t

/-- A reply to an untagged line that carried no suffix: its lines, each with a suffix while QUIET is 1 (R860). -/
def replyText (x : Session) (first : Text) (data : List Text) : Text :=
  (first :: data.map (txt "+ " ++ ·)).flatMap fun l => (if x.quiet then withSuffix l else l) ++ crlf

/-- Where a reset awaits a reply of the session, the reply just queued is that one: its end is marked (R873). -/
def endMarked (s : State) (n : Fin 5) : State :=
  if s.uat.after ≠ .none ∧ s.uat.afterSes = n ∧ s.uat.afterLeft = none
  then uat s fun u => { u with afterLeft := some (s.ses n).out.length } else s

/-- A reply is queued, and the prompt follows it. -/
def queued (s : State) (n : Fin 5) (first : Text) (data : List Text) : State :=
  sess (endMarked (sess s n fun x => { x with out := x.out ++ replyText x first data }) n) n prompted

/-- A line has executed and been answered. -/
def told (s : State) (n : Fin 5) (first : Text) (data : List Text) : State :=
  queued (sess s n fun x => { x with lines := x.lines + 1 }) n first data

/-- It was queued OK with these words. -/
def okd (s : State) (n : Fin 5) (ws : List Text) : State := told s n (unwords (txt "OK" :: ws)) []

/-- It was queued NO, without and with a count in a violation counter (Table 19-8). -/
def nod (s : State) (n : Fin 5) (t : String) : State := told s n (txt t) []
def nodIn (s : State) (k : Nat) (n : Fin 5) (t : String) : State := told (s.vc k) n (txt t) []

/-- Tandem G serves the session, its clock runs, and no evaluation is awaited. -/
def listens (s : State) (n : Fin 5) : Prop :=
  s.serves = true ∧ s.clk.crystal = true ∧ (s.ses n).opn = true ∧ s.uat.evalFor = none

/-- The session holds the helm; it also holds the unlock; and the die is in SERVICE besides. -/
def steers (s : State) (n : Fin 5) : Prop := listens s n ∧ s.uat.helm = some n
def commands (s : State) (n : Fin 5) : Prop := steers s n ∧ s.uat.unlocked = true
def services (s : State) (n : Fin 5) : Prop := commands s n ∧ s.wrd.mode = .service

/-- Characters reach the session. -/
def hearsLine (s : State) (n : Fin 5) : Prop := (s.ses n).opn = true ∧ s.wrd.mode ≠ .runOut ∧ s.clk.crystal = true

/-- The session receives characters, none of a line that began before release. -/
def receives (s : State) (n : Fin 5) : Prop :=
  hearsLine s n ∧ (n.val < 4 → (s.ses n).preLine = false ∧ (s.ses n).preCr = false) ∧ s.bufUsed n < 256

/-- The die number of a session as text. -/
def digit (n : Fin 5) : Text := [Char.ofNat (48 + n.val)]

/-- The response that a challenge expects (R870). -/
def expected (s : State) (c : BitVec 32) (n : Fin 5) : Nat :=
  let key := [21, 22, 23, 24].flatMap fun r => bytesOf 8 (tget 0 s.gate.fuses r).toNat
  let msg : List Byte := [0x4B, 0x41, 0x4B, 0x31] ++ bytesBE 4 c.toNat ++ bytesOf 8 (tget 0 s.gate.shadow 25).toNat ++ [BitVec.ofNat 8 n.val]
  ofBytesBE ((hmacSha256 key msg).take 4)

/-- What remains of the 60 s of a lockout, in seconds begun (R871, Table 19-8). -/
def secondsLeft (s : State) : Nat := max 1 ((s.uat.lockAt + 60000000 - s.us + 999999) / 1000000)

/-- A line of names and values. -/
def valued (name : String) (l : List (String × Text)) : Text := unwords (txt name :: l.flatMap fun p => [txt p.1, p.2])

def flag (b : Bool) : Text := if b then txt "1" else txt "0"

def slotText (o : Option Side) : Text := match o with | none => txt "-" | some .a => txt "A" | some .b => txt "B"

/-- The five lines of STATUS. -/
def statusLines (s : State) : List Text :=
  let w := s.wrd
  let g := s.gate
  [valued "SAFE" [("HOLD", dec w.hold.val), ("LATCHED", flag w.latched), ("SWSTOP", flag w.swstop), ("RB_B", flag w.rbB),
     ("RB_A", flag w.rbA), ("RATE", flag w.rate), ("TOGGLING", flag w.toggling), ("PERMIT", flag s.permit)],
   valued "ESTOP" [("PULSE_B", flag w.pulseB), ("PULSE_A", flag w.pulseA), ("DISC", flag w.disc), ("DEMAND", flag w.demand),
     ("CLOSED_B", flag w.closedB), ("CLOSED_A", flag w.closedA)],
   valued "PATROL" [("FIRST", flag w.first), ("SWEEPS", dec w.sweeps.toNat), ("FAIL", flag w.fail), ("LAST", hex 2 w.last.toNat)],
   valued "GATE" [("RELEASED", flag g.released), ("OUTCOME", dec g.outcome.val), ("SLOT", slotText g.slot), ("LEDGERDONE", flag g.ledgerdone),
     ("FUSEOK", flag g.fuseok), ("STEP", dec g.step.val), ("SLOTA", hex 2 g.slotA.result.toNat), ("SLOTB", hex 2 g.slotB.result.toNat),
     ("NOCFG", hex 4 g.nocfg.toNat), ("DIS", hex 4 g.dis.toNat)],
   valued "LEDGER" [("DAMAGED", flag s.spk.damaged), ("APPLYING", flag (decide (s.spk.recovered = true ∧ s.spk.pending ≠ 0))),
     ("HOLDOK", flag s.spk.holdok), ("VINOK", flag s.spk.vinok), ("RECOVERED", flag s.spk.recovered),
     ("SEALING", dec (match s.spk.atPort with | some e => e.owner.idx + 1 | none => 0)),
     ("PENDING", dec (if s.spk.recovered then s.spk.pending else 0)), ("FREE", dec (if s.spk.recovered then s.logFree else 0))]]

/-- The lines of Table 19-4 but RESTART, in the table's order. -/
def reportOf (s : State) (n : Fin 5) : List Text :=
  let g := s.gate
  let units := ["USB", "CANA", "CANB", "NFC", "DRAMA", "DRAMB", "XSPIB", "UARTB", "UARTC", "UARTD"]
  [unwords [txt "UMAON", if Config.gradeMC then txt "MC" else txt "SC", txt "ROM", hex 2 4, txt "LIFE",
     match s.lifeState with | 0 => txt "BLANK" | 1 => txt "PROVISIONED" | 2 => txt "FIELD" | _ => txt "RETURNED"],
   unwords [txt "OUTCOME", dec g.outcome.val, g.relMode.name, txt "SLOT", slotText g.slot, txt "SEQ", hex 8 s.imgSeq],
   unwords [txt "SLOTA", hex 2 g.slotA.result.toNat, txt "SLOTB", hex 2 g.slotB.result.toNat]] ++
  (if g.outcome = 5 then [unwords [txt "HOLDCAUSE", match g.holdCause.val with
    | 1 => txt "DRAINFAIL" | 2 => txt "DAMAGED" | 3 => txt "MAPLOST" | 4 => txt "LEDGER" | _ => txt "UNIT"]] else []) ++
  ((List.range 10).filter fun k => g.nocfg.getLsbD k).map (fun k => unwords ([txt "NOCFG", txt (units.getD k "")] ++
    (if k = 0 ∧ s.usb.idok = false then [txt "NOUSBID"] else []))) ++
  ((List.range 16).filter fun k => g.pioBad.getLsbD k).map (fun k => unwords [txt "PIOBANK", dec k]) ++
  (if g.skip ≠ 0 then [unwords [txt "SKIP", dec g.skip]] else []) ++
  (if n.val < 4 then [unwords [txt "PRE", dec ([g.preA, g.preB, g.preC, g.preD].getD n.val 0)]] else []) ++
  [txt "READY"]

/-- The line of LOG for a slot: a fault record, a run-out record, or neither (Tables 2-5 and 13-8). -/
def logText (s : State) (slot : Nat) : Text :=
  let ws := tget [] s.spk.ring slot
  let w (i : Nat) : W64 := (ws[i]?).getD 0
  let head (name : String) : List Text := [dec slot, txt name, dec (wf (w 0) 0 48), txt "MS", dec (wf (w 1) 0 32),
    (([Mode.gatehouse, .run, .reduced, .safeHold, .service].getD (wf (w 0) 48 3) .runOut)).name]
  if w 7 = w64 (crc32cOf (((List.range 7).map w).flatMap fun x => bytesOf 8 x.toNat)) ∧ wf (w 0) 56 8 = 2 then
    unwords (head "FAULT" ++ [txt "CODE", dec (wf (w 2) 0 8), txt "DETAIL", dec (wf (w 2) 8 8)])
  else if w 7 = w64 (crc32cOf (((List.range 7).map w).flatMap fun x => bytesOf 8 x.toNat)) ∧ wf (w 0) 56 8 = 1 then
    unwords (head "RUNOUT" ++ [txt "ROLL", dec (wf (w 2) 0 16), dec (wf (w 2) 16 16), dec (wf (w 2) 32 16), txt "DURUS",
      dec (wf (w 3) 48 16), txt "LEFT", dec (wf (w 3) 40 8), txt "HOLD", flag ((w 3).getLsbD 39) ++ flag ((w 3).getLsbD 38)])
  else unwords [dec slot, txt "EMPTY"]

/-- The eight lines of LIFE: the seven mechanisms and the device (R667 to R669). -/
def lifeLines (s : State) : List Text :=
  let names := ["BTI", "EM", "SPK_ENDUR", "SPK_SPARE", "SPK_RETAIN", "FLASH", "PKG"]
  let d := s.grm.cur.dev
  ((List.range 7).map fun m =>
    let r := tget LifeRes.reset s.grm.cur.life m
    unwords [txt (names.getD m ""), dec r.d, dec r.lo, dec r.hi, txt (["VALID", "INSUFF", "NOREP", "FAILED"].getD r.st.val "")]) ++
  [unwords [txt "DEV", dec (wf d 0 16), dec (wf d 16 16), dec (wf d 40 24), txt (names.getD (wf d 36 4) "-")]]

/-- The line of WEAR, the fields of the groomer's cards (Table 14-1). -/
def wearLine (s : State) : List Text :=
  let f (off lo len : Nat) : Nat := fld (grmRead off s).1 lo len
  [txt "FREE", dec (f 0x10 21 11), txt "RETIRED", dec (f 0x10 10 11), txt "LOGRET", dec (f 0x10 0 7), txt "EMAX", hex 10 (f 0x50 0 40),
    txt "MARGIN", dec (f 0x58 0 24), txt "REFRESHED", dec (f 0x58 32 16)]

/-- A violation counter under its name of Table 20-2, or of its register where the table has none. -/
def counterText (s : State) (k : Nat) : Text :=
  unwords [((vcNames.lookup k).map txt).getD (txt "IRT_VC_" ++ dec k), dec (tget 0 s.irt.vc k)]

/-- The sectors of 4 KiB that a list names are erased in the flash of port `p`. -/
def erasedIn (s t : State) (p : Side) (sectors : List Nat) : Prop :=
  ∀ j, tget 0xFF (t.xsp.port p).flash j = if j / 4096 ∈ sectors then 0xFF else tget 0xFF (s.xsp.port p).flash j

/-- The image of port `p` is closed: WINOFF is clear and the window invalidated (R575, R875). -/
def closedImage (s : State) (p : Side) : State :=
  uat (State.invalidate { s with xsp := s.xsp.setPort p { s.xsp.port p with winoff := false } } p) fun u => { u with image := none }

/-- A notification of the new mode, where the session asked for it, follows the reply (Table 19-10). -/
def modeFollows (x y : Session) (reply mode : String) : Prop :=
  ∃ note, y.out = (prompted { x with out := x.out ++ replyText x (txt reply) [] }).out ++ note ∧
    (x.notify = false → note = []) ∧
    (x.notify = true → (prompted { x with out := x.out ++ replyText x (txt reply) [] }).out.length + 32 ≤ 4096 →
      note = txt "% MODE " ++ txt mode ++ crlf)

/-- The open image, its erase ended. -/
def imageOpen (s : State) (p : Side) : Prop := ∃ i, s.uat.image = some i ∧ i.port = p ∧ i.erase = []

/-- A transition of Table 4-1. -/
def transition : Mode → Mode → Prop
  | _, .gatehouse => True
  | m, .runOut => m ≠ .runOut
  | m, .run => m = .gatehouse
  | m, .reduced => m = .gatehouse ∨ m = .run
  | m, .safeHold => m = .gatehouse ∨ m = .run ∨ m = .reduced
  | m, .service => m = .safeHold

/-- An initiator's older buffered stores have gone ahead of its access to block `b` (Table 12-3). -/
def afterOlderStores (s : State) (who : Tandem) (b : Fin 17) : State := if s.acc who b then s.drainAll who else s

/-- Rails that are out of their bands may return, in any order; the pull-up follows VDD_USB's (R116, R935, R953). -/
def railsRise (s t : State) : Prop :=
  t.wrd.rails &&& s.wrd.rails = s.wrd.rails ∧
  (t.usb = s.usb ∨ (s.wrd.rails ≠ 0x7F ∨ s.clk.crystal = false) ∧ t.usb = if s.usb.atten = true ∧ s.usb.vbus = true ∧
      s.gate.released = true ∧ t.wrd.rails.getLsbD 6 = true ∧ s.wrd.mode ≠ .runOut
    then { s.usb with pullup := true } else unplugged s.usb)

/-- The warden but for its watchdogs' counts and the rails. -/
def sameWarden (w v : Wrd) : Prop := { w with wdA := v.wdA, wdB := v.wdB, wdG := v.wdG, rails := v.rails } = v

/-- A change of an emergency-stop channel that waited, if there is one, is recognised. -/
def recognised (s : State) (ch : Side) (c : Option Bool) (t : State) : Prop :=
  match c with
  | none => t = s
  | some c => exec (.estopChannelChange ch c) s = .next t

end Sys2Proof.Claims

open Sys2Proof Sys2Proof.Machine Sys2Proof.Claims

/-- Every two-source integer instruction whose sources hold data tags writes its result with an INT tag to gd (to g0: nothing),
and changes nothing else (Table 6-5, R283; shifts by the width log 50). -/
def Sys2Proof.Claims.TwoSourceIntegerResults : Prop :=
  ∀ row ∈ alu2Rows, ∀ (t : Tandem) (gd gs1 gs2 : Reg) (s s1 : State), Issues t .plain s s1 →
    (s.g t gs1).isData = true → (s.g t gs2).isData = true →
    Completes (row.1 t gd gs1 gs2) t s (s1.wrG t gd (.int (row.2 (s.g t gs1).bits (s.g t gs2).bits)))

/-- The one-source and immediate forms likewise (Tables 6-5 and 7-3, R285). -/
def Sys2Proof.Claims.OneSourceIntegerResults : Prop :=
  ∀ (t : Tandem) (gd gs : Reg) (s s1 : State), Issues t .plain s s1 → (s.g t gs).isData = true →
    (∀ row ∈ alu1Rows, Completes (row.1 t gd gs) t s (s1.wrG t gd (.int (row.2 (s.g t gs).bits)))) ∧
    (∀ row ∈ aluImmRows, ∀ i, Completes (row.1 t gd gs i) t s (s1.wrG t gd (.int (row.2 (s.g t gs).bits i)))) ∧
    (∀ row ∈ aluShiftRows, ∀ i, Completes (row.1 t gd gs i) t s (s1.wrG t gd (.int (row.2 (s.g t gs).bits i))))

/-- What the bit-counting and bit-reversing instructions compute (Tables 6-5 and 7-3). -/
def Sys2Proof.Claims.BitCountsAndReversals : Prop :=
  ∀ a : W64,
    (opClz a).toNat = ((List.range 64).find? fun i => a.getLsbD (63 - i)).getD 64 ∧
    (opCtz a).toNat = ((List.range 64).find? fun i => a.getLsbD i).getD 64 ∧
    (opPopc a).toNat = bitCount a ∧ (opPar a).toNat = bitCount a % 2 ∧
    (∀ i, i < 64 → (opBrev a).getLsbD i = a.getLsbD (63 - i)) ∧
    (∀ i, i < 64 → (opBrevb a).getLsbD i = a.getLsbD (i / 8 * 8 + (7 - i % 8))) ∧
    (∀ i, i < 64 → (opBswap a).getLsbD i = a.getLsbD ((7 - i / 8) * 8 + i % 8))

/-- Integer instructions whose sources hold data tags write their result of Tables 6-5 and 7-3 with an INT tag to gd (to g0:
nothing) and change nothing else: the two-source, the one-source and the immediate forms, with what the bit-counting and
bit-reversing ones compute (R283, R285). -/
def Obligations.IntegerResults : Prop :=
  Claims.TwoSourceIntegerResults ∧ Claims.OneSourceIntegerResults ∧ Claims.BitCountsAndReversals

/-- Moves of data: MOV carries the tag, MOVI sign-extends IMM20, INSH replaces 16 bits, GTAG reads any tag, and STAG writes the
data tag it names, INSN with SYS alone (R215, R218, R286). -/
def Sys2Proof.Claims.TagsAndMoves : Prop :=
  ∀ (t : Tandem) (gd gs : Reg) (s s1 : State), Issues t .plain s s1 →
    Completes (.mov t gd gs) t s (s1.wrG t gd (s.g t gs)) ∧
    (∀ imm, Completes (.movi t gd imm) t s (s1.wrG t gd (.int (imm.signExtend 64)))) ∧
    (∀ (k : BitVec 2) (imm : BitVec 16), (s.g t gd).isData = true → ∃ v : W64, Completes (.insh t gd k imm) t s (s1.wrG t gd (.int v)) ∧
      ∀ i, i < 64 → v.getLsbD i = if i / 16 = k.toNat then imm.getLsbD (i % 16) else (s.g t gd).bits.getLsbD i) ∧
    Completes (.gtag t gd gs) t s (s1.wrG t gd (.int (BitVec.ofNat 64 (tagCode (s.g t gs).tag)))) ∧
    (∀ (tag : BitVec 4) (g : Tag), (s.g t gs).isData = true → dataTagOf tag.toNat = some g →
      (g = .insn → (s.cpu t).sys = true) → Completes (.stag t gd gs tag) t s (s1.wrG t gd ⟨g, (s.g t gs).bits⟩))

/-- A source register that is UNWRITTEN or POISON faults the integer instruction that reads it, naming the first such source,
and the instruction does nothing else (R222, R283, Table 5-2). -/
def Sys2Proof.Claims.IntegerSourcesFaultByTheirTag : Prop :=
  ∀ (t : Tandem) (gd gs1 gs2 : Reg) (s s1 : State) (e : Exc), Issues t .plain s s1 →
    (sourceFault [(0, gs1.val, s.g t gs1), (0, gs2.val, s.g t gs2)] = some e →
      ∀ row ∈ alu2Rows, Faults (row.1 t gd gs1 gs2) t s e s1) ∧
    (sourceFault [(0, gs1.val, s.g t gs1)] = some e →
      (∀ row ∈ alu1Rows, Faults (row.1 t gd gs1) t s e s1) ∧ (∀ row ∈ aluImmRows, ∀ i, Faults (row.1 t gd gs1 i) t s e s1) ∧
      (∀ row ∈ aluShiftRows, ∀ i, Faults (row.1 t gd gs1 i) t s e s1) ∧ (∀ k imm, Faults (.insh t gs1 k imm) t s e s1) ∧
      ∀ tag : BitVec 4, dataTagOf tag.toNat ≠ none → Faults (.stag t gd gs1 tag) t s e s1)

/-- Moves of data: MOV carries the tag, MOVI sign-extends IMM20, INSH replaces 16 bits, GTAG reads any tag, and STAG writes the
data tag it names, INSN with SYS alone (R215, R218, R286). A source register that is UNWRITTEN or POISON faults the integer
instruction that reads it, naming the first such source, and the instruction does nothing else (R222, R283, Table 5-2). -/
def Obligations.TagAndMoveResults : Prop :=
  Claims.TagsAndMoves ∧ Claims.IntegerSourcesFaultByTheirTag

/-- A conditional branch goes on, after its slot word, at a + 4 × disp where its condition holds and at a + 8 where it does not,
and writes no register; an UNWRITTEN or POISON source of a branch or of JALR faults (R283, R298, R299, Table 5-2). -/
def Sys2Proof.Claims.BranchesResolveAtTheBranch : Prop :=
  ∀ (t : Tandem) (s s1 : State), Issues t (.cti none) s s1 →
    (∀ row ∈ branchRows, ∀ (gs1 gs2 : Reg) (d : BitVec 12), (s.g t gs1).isData = true → (s.g t gs2).isData = true →
      Transfers (row.1 t gs1 gs2 d) t s s1
        (if row.2 (s.g t gs1).bits (s.g t gs2).bits then (s.pc t : Int) + 4 * d.toInt else (s.pc t : Int) + 8) none) ∧
    (∀ row ∈ branchImmRows, ∀ (gs : Reg) (i : BitVec 8) (d : BitVec 9), (s.g t gs).isData = true →
      Transfers (row.1 t gs i d) t s s1
        (if row.2.2 (s.g t gs).bits (row.2.1 i) then (s.pc t : Int) + 4 * d.toInt else (s.pc t : Int) + 8) none) ∧
    (∀ (gd gs1 gs2 : Reg) (e : Exc),
      (sourceFault [(0, gs1.val, s.g t gs1), (0, gs2.val, s.g t gs2)] = some e →
        ∀ row ∈ branchRows, ∀ d, Faults (row.1 t gs1 gs2 d) t s e s1) ∧
      (sourceFault [(0, gs1.val, s.g t gs1)] = some e →
        (∀ row ∈ branchImmRows, ∀ i d, Faults (row.1 t gs1 i d) t s e s1) ∧ Faults (.jalr t gd gs1) t s e s1))

/-- J, JAL and JALR go on, after their slot word, at their target; JAL and JALR link a + 8 with an INT tag, JALR reading gs
before it writes gd; a JALR target that is no multiple of 4 raises CAP_ALIGN (R299, R300). -/
def Sys2Proof.Claims.JumpsLinkAndTransfer : Prop :=
  ∀ (t : Tandem) (s s1 : State),
    (∀ d : BitVec 25, Issues t (.cti (some d.toInt)) s s1 →
      Transfers (.j t d) t s s1 ((s.pc t : Int) + 4 * d.toInt) none ∧
      Transfers (.jal t d) t s (s1.wrG t 31 (.int (BitVec.ofNat 64 (s.pc t + 8)))) ((s.pc t : Int) + 4 * d.toInt) none) ∧
    (Issues t (.cti none) s s1 → ∀ gd gs, (s.g t gs).isData = true → (s.g t gs).bits.toNat % 4 = 0 →
      Transfers (.jalr t gd gs) t s (s1.wrG t gd (.int (BitVec.ofNat 64 (s.pc t + 8)))) ((s.g t gs).bits.toNat % 2 ^ 44 : Nat) none) ∧
    (Issues t (.cti none) s s1 → ∀ gd gs, (s.g t gs).isData = true → (s.g t gs).bits.toNat % 4 ≠ 0 →
      Faults (.jalr t gd gs) t s ⟨1, 0x15, 3, 0, false, 0⟩ s1)

/-- JALC through a VALID, unsealed, aligned code capability of the current ring links PCC at a + 8 in cd and goes on, after its
slot word, with cs as PCC (R244, R301). -/
def Sys2Proof.Claims.JalcCarriesTheCodeCapability : Prop :=
  ∀ (t : Tandem) (cd cs : CReg) (s s1 : State), Issues t (.cti none) s s1 →
    (s.c t cs).st = .valid → (s.c t cs).sealed = false → (s.c t cs).ring = (s.cpu t).ring → (s.c t cs).has pEX = true →
    (s.c t cs).cursor % 4 = 0 →
      Transfers (.jalc t cd cs) t s (s1.wrC t cd ((s.cpu t).lk.pcc.setCursor (s.pc t + 8))) ((s.c t cs).cursor : Nat)
        (some (s.c t cs))

/-- In a delay slot a long-running word raises SLOT_LONG and a control transfer SLOT_CTI, at the slot word and before it does
anything else (R315, R332). That the mark of the slot is what counts, whatever stood before it, is the model's (log 18, 33). -/
def Sys2Proof.Claims.DelaySlotsRefuseWords : Prop :=
  ∀ (t : Tandem) (gd gs1 gs2 : Reg) (cd cs : CReg) (s s1 : State), (s.cpu t).slot ≠ none →
    (Decodes t .long s s1 →
      (∀ i ∈ [Instr.div t gd gs1 gs2, .divu t gd gs1 gs2, .rem t gd gs1 gs2, .remu t gd gs1 gs2, .pfence t],
        Faults i t s ⟨2, 0x31, 3, 0, false, 0⟩ s1) ∧
      (∀ (m : Side) (p : FPrec) (rm : RM) (fd a b : FReg), t = m.tandem →
        Faults (.fdiv m p rm fd a b) t s ⟨2, 0x31, 3, 0, false, 0⟩ s1 ∧ Faults (.fsqrt m p rm fd a) t s ⟨2, 0x31, 3, 0, false, 0⟩ s1) ∧
      (∀ (z3 : Fin 3) (z : Fin 2) (k : Fin 4) (l : Option Nat), let c := gs1.val
        ∀ q ∈ [(Instr.sweepCopy t z3 cd cs gs1 l, sweepWord 0 z3.val cd.val cs.val c 0 0),
            (.sweepFill t z cd gs1 gs2 l, sweepWord 1 z.val cd.val 0 c gs2.val 0), (.sweepPoison t cd gs1 l, sweepWord 1 1 cd.val 0 c 0 1),
            (.sweepCmp t z cd cs gs1 gs2 l, sweepWord 2 z.val cd.val cs.val c gs2.val 0),
            (.sweepFind t z cs gs1 gs2 l, sweepWord 3 z.val 0 cs.val c gs2.val 0),
            (.sweepFindne t z cs gs1 gs2 l, sweepWord 3 z.val 0 cs.val c gs2.val 1),
            (.sweepCrc t z cs gs1 gs2 k l, sweepWord 4 z.val k.val cs.val c gs2.val 0)],
          reservedKind t q.2 = none → Faults q.1 t s ⟨2, 0x31, 3, 0, false, 0⟩ s1)) ∧
    (Decodes t (.cti none) s s1 →
      (∀ row ∈ branchRows, ∀ d, Faults (row.1 t gs1 gs2 d) t s ⟨2, 0x21, 3, 0, false, 0⟩ s1) ∧
      (∀ row ∈ branchImmRows, ∀ i d, Faults (row.1 t gs1 i d) t s ⟨2, 0x21, 3, 0, false, 0⟩ s1) ∧
      Faults (.jalr t gd gs1) t s ⟨2, 0x21, 3, 0, false, 0⟩ s1 ∧ Faults (.jalc t cd cs) t s ⟨2, 0x21, 3, 0, false, 0⟩ s1) ∧
    (∀ d : BitVec 25, Decodes t (.cti (some d.toInt)) s s1 →
      Faults (.j t d) t s ⟨2, 0x21, 3, 0, false, 0⟩ s1 ∧ Faults (.jal t d) t s ⟨2, 0x21, 3, 0, false, 0⟩ s1) ∧
    (Decodes t .ring s s1 →
      ∀ i ∈ [Instr.wcall t cs, .wret t cs, .eret t cs, .eretS t cs], Faults i t s ⟨2, 0x21, 3, 0, false, 0⟩ s1)

/-- A conditional branch goes on, after its slot word, at a + 4 × disp where its condition holds and at a + 8 where it does not,
and writes no register; an UNWRITTEN or POISON source of a branch or of JALR faults (R283, R298, R299, Table 5-2). J, JAL and
JALR go on, after their slot word, at their target; JAL and JALR link a + 8 with an INT tag, JALR reading gs before it writes
gd; a JALR target that is no multiple of 4 raises CAP_ALIGN (R299, R300). JALC through a VALID, unsealed, aligned code
capability of the current ring links PCC at a + 8 in cd and goes on, after its slot word, with cs as PCC (R244, R301). In a
delay slot a long-running word raises SLOT_LONG and a control transfer SLOT_CTI, at the slot word and before it does anything
else (R315, R332). That the mark of the slot is what counts, whatever stood before it, is the model's (log 18, 33). -/
def Obligations.ControlTransfersResolve : Prop :=
  Claims.BranchesResolveAtTheBranch ∧ Claims.JumpsLinkAndTransfer ∧ Claims.JalcCarriesTheCodeCapability ∧ Claims.DelaySlotsRefuseWords

/-- A pair word reads both halves' sources before it writes, then writes the first half's result and then the second's (R278 to
R280). -/
def Obligations.PairWordsReadBeforeTheyWrite : Prop :=
  ∀ (t : Tandem) (h1 h2 : ShortOp) (s s1 : State), Issues t .plain s s1 →
    shortReadable s t h1 = true → shortReadable s t h2 = true →
      Completes (.pairWord t h1 h2) t s (s1.modLk t fun l => shortWrite s t h2 (shortWrite s t h1 l))

/-- ILL raises the illegal-opcode fault, and a word that is a reserved encoding raises the emulation trap with the word, its
kind, the faulting half and the slot mark in EMUWORD (R276, R304). Three clauses are the model's choices: a command whose word
is no reserved encoding leaves the state as it was (log 3), a reserved word of majors 0x20 to 0x26 may stand where a control
transfer may (log 33), and a command runs the word its operands spell (log 2). -/
def Obligations.ReservedWordsTrap : Prop :=
  ∀ (t : Tandem) (s s1 : State),
    (Issues t .plain s s1 → Faults (.ill t) t s ⟨2, 0x20, 3, 0, false, 0⟩ s1) ∧
    (∀ (w : BitVec 32) (kind : Nat) (half : Bool), reservedKind t w.toNat = some (kind, half) →
      Issues t (reservedPlace w) s s1 →
      Faults (.emulationTrap t w) t s ⟨4, 0x48, 3, 0, half, 0⟩
        (s1.modCpu t fun c => { c with emuword := .int (BitVec.ofNat 64
          (w.toNat + b2n c.slot.isSome * 2 ^ 32 + b2n half * 2 ^ 33 + kind * 2 ^ 34)) })) ∧
    (∀ w : BitVec 32, reservedKind t w.toNat = none → exec (.emulationTrap t w) s = .next s)

/-- A data load that passes its checks and waits for nothing writes what it reads to gd, and nothing else changes: from memory
the words as the tandem sees them, from a device register its value, whose read-clear fields clear (R216, R287, R290, R554). The
bytes of a load lie in memory lowest first, which no rule of chapter 6 states (log 17). -/
def Sys2Proof.Claims.LoadsDeliverTheirValue : Prop :=
  ∀ row ∈ loadRows, ∀ (t : Tandem) (gd : Reg) (cs : CReg) (addr : MemAddr) (off : Int) (s s1 s2 s3 : State) (ea : Nat) (ph : Phys)
    (rg : Region) (v : TWord), Issues t .plain s s1 → memOffset s t addr = some off →
    Passes t .load .data cs ⟨pLD, false, row.2.1, 1⟩ off row.2.1 s1 s2 ea ph rg → ReadsNow t ph rg row.2.1 s2 →
    LoadGives t false rg ph row.2.1 ea row.2.2 (loading t s2) v s3 → Completes (row.1 t gd cs addr) t s (s3.wrG t gd v)

/-- What a data load of memory delivers: a whole aligned word with its tag, a capability half as BYTES; otherwise the bytes,
extended, as INT; UNWRITTEN and POISON are carried, POISON first; a reserved tag is corruption, reported as MCHK; and reading
changes no register, no word outside the flash windows and no unit (R216, R259, Table 5-2). -/
def Sys2Proof.Claims.LoadedTagsFollowTheWords : Prop :=
  ∀ (t : Tandem) (turn : Bool) (ph : Phys) (rg : Region) (n ea : Nat) (sgn : Bool) (s s' : State), rg.isDev = false →
    ReadsWords t turn rg ph n ea s s' →
    Quiet s s' ∧ (∀ w, isWindow (8 * w) = false → s'.viewWord t w = s.viewWord t w) ∧
    (n = 8 → ph.lo % 8 = 0 → n ≤ ph.n → ∀ tag bits, s'.viewWord t (ph.lo / 8) = ⟨tag, bits⟩ →
      (tag = .int ∨ tag = .bytes ∨ tag = .flt ∨ tag = .fixq ∨ tag = .insn →
        (loadValue t ph rg turn n ea sgn).run s = .ok ⟨tag, bits⟩ s') ∧
      (tag = .capa ∨ tag = .capb → (loadValue t ph rg turn n ea sgn).run s = .ok ⟨.bytes, bits⟩ s') ∧
      (tag = .unwritten → (loadValue t ph rg turn n ea sgn).run s = .ok .unwritten s') ∧
      (tag = .poison → (loadValue t ph rg turn n ea sgn).run s = .ok .poison s') ∧
      (∀ k, tag = .reserved k → (loadValue t ph rg turn n ea sgn).run s = .error ⟨0, 0x03, 3, 0, false, ea % 2 ^ 44⟩ (s'.mchk 0x12))) ∧
    (¬(n = 8 ∧ ph.lo % 8 = 0 ∧ n ≤ ph.n) → (∀ p ∈ ph.parts n, ∀ k, (s'.viewWord t (p.1 / 8)).tag ≠ .reserved k) →
      ((∃ p ∈ ph.parts n, (s'.viewWord t (p.1 / 8)).tag = .poison) → (loadValue t ph rg turn n ea sgn).run s = .ok .poison s') ∧
      ((∀ p ∈ ph.parts n, (s'.viewWord t (p.1 / 8)).tag ≠ .poison) →
        ((∃ p ∈ ph.parts n, (s'.viewWord t (p.1 / 8)).tag = .unwritten) → (loadValue t ph rg turn n ea sgn).run s = .ok .unwritten s') ∧
        ((∀ p ∈ ph.parts n, (s'.viewWord t (p.1 / 8)).tag ≠ .unwritten) →
          (loadValue t ph rg turn n ea sgn).run s = .ok (.int (if sgn then
            BitVec.ofInt 64 (signed (8 * n) (ofBytes (s'.loadBytes t ph n))) else BitVec.ofNat 64 (ofBytes (s'.loadBytes t ph n)))) s')))

/-- An access through a capability makes the checks of steps 2 to 8 of Table 5-8 in order, and the first that fails raises its
fault; one that passes them all gives the address CURSOR + offset, and the state stays (R243, R256, R964). Which of them name
the capability in ECAUSE is the model's choice (log 135). -/
def Sys2Proof.Claims.AccessChecksFollowTheTable : Prop :=
  ∀ (t : Tandem) (cs : CReg) (need : Need) (off : Int) (s : State),
    let ea : Int := (s.c t cs).cursor + off
    (access t cs need off).run s = match firstFault (accessRows (s.c t cs) (s.cpu t).ring cs need ea) with
      | some e => .error e s
      | none => .ok ea.toNat s

/-- A data load that passes its checks and waits for nothing writes what it reads to gd, and nothing else changes: from memory
the words as the tandem sees them, from a device register its value, whose read-clear fields clear (R216, R287, R290, R554). The
bytes of a load lie in memory lowest first, which no rule of chapter 6 states (log 17). What a data load of memory delivers: a
whole aligned word with its tag, a capability half as BYTES; otherwise the bytes, extended, as INT; UNWRITTEN and POISON are
carried, POISON first; a reserved tag is corruption, reported as MCHK; and reading changes no register, no word outside the
flash windows and no unit (R216, R259, Table 5-2). An access through a capability makes the checks of steps 2 to 8 of Table 5-8
in order, and the first that fails raises its fault; one that passes them all gives the address CURSOR + offset, and the state
stays (R243, R256, R964). Which of them name the capability in ECAUSE is the model's choice (log 135). -/
def Obligations.LoadsDeliverWordsAndTags : Prop :=
  Claims.LoadsDeliverTheirValue ∧ Claims.LoadedTagsFollowTheWords ∧ Claims.AccessChecksFollowTheTable

/-- Translation of an access within one page: tandem G's and a bypassed address is the physical one, a bypassed one at 2^40 or
above raises XL_RANGE; in the mapped state the one entry of the micro-TLB that covers the address makes the checks of rows 2 to
5 of Table 11-3 in order and gives its physical address, as does the one unified entry where no micro entry does, which an
access and a fetch for execution copy, TLB_MISS and MC_TLBMULTI being the other outcomes; then rows 6 to 10 follow; tandem G's
access to the Spenik store waits for the ledger's recovery (R509 to R513, R520, R522, R525, R527, R630). The order of the
micro-TLB's entries is the model's (log 46), and so is what tandem G finds at 2^40 and above (log 128). -/
def Sys2Proof.Claims.TranslationFollowsTheTable : Prop :=
  ∀ (k : AKind) (rule : RegionRule) (ring va n : Nat) (s : State), 1 ≤ n → va < 2 ^ 44 →
    (va + n ≤ 2 ^ 44 → (s.spk.recovered = true ∨ s.regionOf .g va n ≠ some .spenik) →
      regionJudged s .g k rule va n va 0 ((translate .g k rule ring va n).run s)) ∧
    (va + n ≤ 2 ^ 44 → s.spk.recovered = false → s.regionOf .g va n = some .spenik →
      (translate .g k rule ring va n).run s = .error Exc.waits s) ∧
    (∀ m : Side, let t := m.tandem
      let c := s.cpu t
      (c.xctl.getLsbD 0 = false →
        (2 ^ 40 ≤ va → (translate t k rule ring va n).run s = .error ⟨6, 0x51, 3, k.code, false, va⟩ s) ∧
        (va + n ≤ 2 ^ 40 → regionJudged s t k rule va n va 0 ((translate t k rule ring va n).run s))) ∧
      (c.xctl.getLsbD 0 = true → (∀ e, s.wrong (.itlb m e) = 0 ∧ s.wrong (.dtlb m e) = 0) → (∀ i, s.wrong (.tlb m i) = 0) →
        let micro := if k.isFetch then c.itlb else c.dtlb
        let fits (e : TlbEnt) : Prop := va % 2 ^ (e.hi.toNat / 2 ^ 44 % 2 ^ 6) + n ≤ 2 ^ (e.hi.toNat / 2 ^ 44 % 2 ^ 6)
        let takes (e : TlbEnt) (s' : State) : Prop := fits e →
          (∀ x, firstFault (pageRows k ring va e) = some x → (translate t k rule ring va n).run s = .error x s') ∧
          (firstFault (pageRows k ring va e) = none →
            regionJudged s' t k rule va n (mappedTo e va) (e.lo.toNat % 8) ((translate t k rule ring va n).run s))
        let site (e : TlbEnt) : Site := if k.isFetch then .itlb m e else .dtlb m e
        let copied (e : TlbEnt) : List TlbEnt := (e :: micro.filter fun x => decide (x ≠ e)).take (if k.isFetch then 8 else 16)
        let filled (s : State) (e : TlbEnt) : State :=
          s.modCpu t fun c => if k.isFetch then { c with itlb := copied e } else { c with dtlb := copied e }
        (∀ e, micro.filter (covers c va) = [e] → takes e (filled s e)) ∧
        (micro.filter (covers c va) = [] →
          let found := (c.tlb.filterMap (·.2)).filter (covers c va)
          (found = [] → (translate t k rule ring va n).run s = .error ⟨5, 0x50, 3, k.code, false, va⟩ s) ∧
          (∀ e, found = [e] → (k = .ahead → takes e s) ∧
            (k ≠ .ahead → takes e ((filled (s.clearSite (site e)) e).event t (if k.isFetch then 0x09 else 0x0A) 1))) ∧
          (2 ≤ found.length → (translate t k rule ring va n).run s = .error ⟨9, 0x71, 3, 0, false, va⟩
            ((s.modCpu t fun c => { c with xmulti := min 0xFFFF (c.xmulti + 1) }).mchk 0x10)))))

/-- A data store that passes its checks puts its bytes, in ascending address order, at the end of the store buffer, or one
device entry for a device register, the head entry of a full buffer leaving first; it changes no register and no memory of its
own (R287 to R291, R550, R551, R604). That a full buffer drains its head within the store, that step 11 judges the lower of two
words first, and the order of the bytes are the model's choices (log 22, 129, 17). -/
def Sys2Proof.Claims.StoresJoinTheBuffer : Prop :=
  ∀ row ∈ storeRows, ∀ (t : Tandem) (gs : Reg) (cs : CReg) (addr : MemAddr) (off : Int) (s s1 s2 s3 : State) (ea : Nat) (ph : Phys)
    (rg : Region), Issues t .plain s s1 → memOffset s t addr = some off →
    Passes t .store .data cs ⟨pST, false, row.2, 1⟩ off row.2 s1 s2 ea ph rg →
    (row.2 < 8 ∨ ea % 8 ≠ 0 ∨ rg.isDev = true → (s.g t gs).isData = true) → StoreGives t rg ph row.2 ea (s.g t gs) s2 s3 →
      Completes (row.1 t gs cs addr) t s s3

/-- Memory as the tandem's own loads see it changes, when an entry joins its buffer, in the words of that entry alone; the
entries of an aligned 8-byte store and of a store within one word hold what the store writes; and step 11 refuses POISON and a
partial store into UNWRITTEN, having emptied the buffer first where the line is not in the L1 data cache (R217, R291, R551,
R554; the order of the bytes is the model's, log 17). -/
def Sys2Proof.Claims.StoredWordsAsTheTandemSeesThem : Prop :=
  (∀ (t : Tandem) (s : State) (e : SbEnt) (w : Nat),
    (buffered s t [e]).viewWord t w = wordAfter e (s.viewWord t) w) ∧
  (∀ (ph : Phys) (tag : Tag) (v : W64) (before : Nat → TWord) (w : Nat), ph.lo % 8 = 0 → 8 ≤ ph.n →
    ∃ e, storeEntries ph 8 tag (bytesOf 8 v.toNat) = [e] ∧ wordAfter e before w = if w = ph.lo / 8 then ⟨tag, v⟩ else before w) ∧
  (∀ (ph : Phys) (n : Nat) (tag : Tag) (v : W64) (before : Nat → TWord) (w : Nat), 1 ≤ n → n ≤ ph.n → ph.lo % 8 + n ≤ 8 → n < 8 →
    ∃ e, storeEntries ph n tag (bytesOf n v.toNat) = [e] ∧ (w ≠ ph.lo / 8 → wordAfter e before w = before w) ∧
      (wordAfter e before (ph.lo / 8)).tag = .bytes ∧
      ∀ i, i < 64 → (wordAfter e before (ph.lo / 8)).bits.getLsbD i =
        if ph.lo % 8 * 8 ≤ i ∧ i < (ph.lo % 8 + n) * 8 then v.getLsbD (i - ph.lo % 8 * 8) else (before (ph.lo / 8)).bits.getLsbD i) ∧
  (∀ (t : Tandem) (w ea : Nat) (whole : Bool) (s s' : State), (storeLine t w ea).run s = .ok () s' →
    ((cachedAddr (8 * w) = true ∧ (s.cpu t).front.hasD (w / 4) = false → (s'.cpu t).sb = []) ∧
      (¬(cachedAddr (8 * w) = true ∧ (s.cpu t).front.hasD (w / 4) = false) → Quiet s s')) ∧
    ((s'.viewWord t w).tag = .poison → (targetTag t w whole ea).run s = .error ⟨0, 0x02, 3, 0, false, ea % 2 ^ 44⟩ s') ∧
    ((s'.viewWord t w).tag = .unwritten → whole = false →
      (targetTag t w whole ea).run s = .error ⟨0, 0x05, 3, 0, false, ea % 2 ^ 44⟩ s') ∧
    ((s'.viewWord t w).tag ≠ .poison → ((s'.viewWord t w).tag = .unwritten → whole = true) →
      (targetTag t w whole ea).run s = .ok () s'))

/-- A data store that passes its checks puts its bytes, in ascending address order, at the end of the store buffer, or one
device entry for a device register, the head entry of a full buffer leaving first; it changes no register and no memory of its
own (R287 to R291, R550, R551, R604). That a full buffer drains its head within the store, that step 11 judges the lower of two
words first, and the order of the bytes are the model's choices (log 22, 129, 17). Memory as the tandem's own loads see it
changes, when an entry joins its buffer, in the words of that entry alone; the entries of an aligned 8-byte store and of a store
within one word hold what the store writes; and step 11 refuses POISON and a partial store into UNWRITTEN, having emptied the
buffer first where the line is not in the L1 data cache (R217, R291, R551, R554; the order of the bytes is the model's, log 17).
-/
def Obligations.StoresAreBufferedAndSeen : Prop :=
  Claims.StoresJoinTheBuffer ∧ Claims.StoredWordsAsTheTandemSeesThem

/-- STORE_BUFFER_DRAIN: the head entry of a running tandem leaves the buffer; in the working SRAM it writes its own words and no
other; a device entry reaches its block (R553, Table 12-2). What a drain does to the holds of R343 is the model's choice (log
23). -/
def Sys2Proof.Claims.DrainingWritesTheHeadEntry : Prop :=
  ∀ (t : Tandem) (s : State) (e : SbEnt) (rest : List SbEnt), (s.cpu t).run = .running → s.clk.crystal = true →
    (s.cpu t).sb = e :: rest →
    (e.tag ≠ .dev → s.heldFor t e.addr = false →
      (∀ p ∈ e.writes s.memWord, 0x4000000 ≤ p.1 ∧ p.1 < 0x4080000) →
      ∃ s', exec (.storeBufferDrain t) s = .next s' ∧ (s'.cpu t).sb = rest ∧
        (∀ w, isWindow (8 * w) = false → s'.memWord w = wordAfter e s.memWord w)) ∧
    (e.tag = .dev → s.stalls t e.addr = false →
      exec (.storeBufferDrain t) s =
        .next ((devStore (s.modCpu t fun c => { c with sb := rest }) t e.addr e.bytes.length (ofBytes e.bytes)).event t 0x04
          (if sbCap t ≤ (s.cpu t).sb.length then 1 else 0)))

/-- A load that partly overlaps its youngest older store, or meets older device stores, a block in reset or a command on its
flash port, waits in place, and LOAD_OVERLAP_RESUME completes it once what it waits for has ended, or once its turn at the port
has come (R190, R554 to R556, R577, R586). Which entry a load waits for is the model's reading (log 21), as are a wait at a
block in reset (log 16) and at a flash port under a command (log 26). -/
def Sys2Proof.Claims.WaitingLoadsResume : Prop :=
  (∀ row ∈ loadRows, ∀ (t : Tandem) (gd : Reg) (cs : CReg) (addr : MemAddr) (off : Int) (s s1 s2 : State) (ea : Nat) (ph : Phys)
    (rg : Region), Issues t .plain s s1 → memOffset s t addr = some off →
    Passes t .load .data cs ⟨pLD, false, row.2.1, 1⟩ off row.2.1 s1 s2 ea ph rg →
    ((s2.cpu t).loadWaits (rg.isDev) ph row.2.1 = true ∨ (rg.isDev && s2.stalls t ph.lo) = true ∨
      s2.windowWaits t rg ph row.2.1 = true) →
      exec (row.1 t gd cs addr) s = .next (fetchAhead t
        ((s2.modCpu t fun c => { c with wait := .load ⟨ea, ph, row.2.1, .g gd row.2.2, rg.isDev, false⟩ }).event t 0x0B
          (if rg.isDev = false ∧ (s2.cpu t).loadWaits false ph row.2.1 = true then 1 else 0)))) ∧
  (∀ (t : Tandem) (q : LoadReq) (gd : Reg) (sgn : Bool) (rg : Region) (s : State),
    (s.cpu t).run = .running → s.clk.crystal = true → (s.cpu t).wait = .load q → q.kind = .g gd sgn →
    (s.cpu t).loadWaits q.dev q.phys q.size = false → (q.dev && s.stalls t q.phys.lo) = false →
    s.regionOf t q.phys.lo q.phys.n = some rg → s.windowWaits t rg q.phys q.size = false ∨ q.turn = true →
    ∀ v s1, LoadGives t q.turn rg q.phys q.size q.va sgn (loading t (s.modCpu t fun c => { c with wait := .none })) v s1 →
      Completes (.loadOverlapResume t) t s (s1.wrG t gd v))

/-- STORE_BUFFER_DRAIN: the head entry of a running tandem leaves the buffer; in the working SRAM it writes its own words and no
other; a device entry reaches its block (R553, Table 12-2). What a drain does to the holds of R343 is the model's choice (log
23). A load that partly overlaps its youngest older store, or meets older device stores, a block in reset or a command on its
flash port, waits in place, and LOAD_OVERLAP_RESUME completes it once what it waits for has ended, or once its turn at the port
has come (R190, R554 to R556, R577, R586). Which entry a load waits for is the model's reading (log 21), as are a wait at a
block in reset (log 16) and at a flash port under a command (log 26). -/
def Obligations.BuffersDrainAndLoadsResume : Prop :=
  Claims.DrainingWritesTheHeadEntry ∧ Claims.WaitingLoadsResume

/-- Capability loads and stores, SPOIS and CLRP: a pair is read as the capability its tags spell and written as a pair of CAPA
and CAPB; SPOIS and CLRP write one whole POISON or UNWRITTEN word (R226, R228, R241, R242, R293, R294). -/
def Obligations.CapabilityAndTagAccesses : Prop :=
  ∀ (t : Tandem) (r cs : CReg) (s s1 s2 s3 : State) (ea : Nat) (ph : Phys) (rg : Region), Issues t .plain s s1 →
    (∀ (off : BitVec 12) (c : Cap),
      Passes t .capLoad .noDev cs ⟨pLD + pLDC, false, 16, 16⟩ (off.toInt * 16) 16 s1 s2 ea ph rg →
      ReadsNow t ph rg 16 s2 → ReadsWords t false rg ph 16 ea (loading t s2) s3 →
      capOfPair (s3.viewWord t (ph.lo / 8)) (s3.viewWord t (ph.lo / 8 + 1)) = some c →
        Completes (.clc t r cs off) t s ((if c.st = .malformed then s3.mchk 0x12 else s3).wrC t r c)) ∧
    (∀ (off : BitVec 12) (k : Spk),
      Passes t .capStore .noDev cs ⟨pST + pSTC, (s.c t r).tethered, 16, 16⟩ (off.toInt * 16) 16 s1 s2 ea ph rg →
      ((s.c t r).st = .valid → (rg = .spenik → (s.c t r).has pDUR = true) ∧ ((s.c t r).tether = true → rg = .sram)) →
      (do targetTag t (ph.lo / 8) true ea; targetTag t (ph.lo / 8 + 1) true ea : Cm Unit).run s2 = .ok () s3 →
      s3.spk.ledgerAdmit t (persistentWords [ph.lo / 8, ph.lo / 8 + 1]) = some k → joinsNow t [capEntry ph.lo (s.c t r)] { s3 with spk := k } →
        Completes (.csc t r cs off) t s (joined t { s3 with spk := k } (capEntry ph.lo (s.c t r)))) ∧
    (∀ (off : BitVec 13) (k : Spk), Passes t .store .noDev cs ⟨pST, false, 8, 8⟩ off.toInt 8 s1 s2 ea ph rg →
      (storeLine t (ph.lo / 8) ea).run s2 = .ok () s3 →
      s3.spk.ledgerAdmit t (persistentWords [ph.lo / 8]) = some k → joinsNow t [⟨ph.lo, bytesOf 8 0, .whole .poison⟩] { s3 with spk := k } →
        Completes (.spois t cs off) t s (joined t { s3 with spk := k } ⟨ph.lo, bytesOf 8 0, .whole .poison⟩) ∧
        ((s.cpu t).sys = true → (s.cpu t).ring = 0 →
          Completes (.clrp t cs off) t s (joined t { s3 with spk := k } ⟨ph.lo, bytesOf 8 0, .whole .unwritten⟩)))

/-- The capability getters read the fields of any capability that is not UNWRITTEN as INT; CGETSTATE reads the state code;
CSUBSET compares bounds and permissions; KFITLEN and KFITMASK give the rounded length and the mask of R236 (Table 5-7). -/
def Obligations.CapabilityGettersReadTheFields : Prop :=
  ∀ (t : Tandem) (gd gs : Reg) (cs cb : CReg) (s s1 : State), Issues t .plain s s1 →
    (∀ row ∈ getterRows, (s.c t cs).st ≠ .unwritten →
      Completes (row.1 t gd cs) t s (s1.wrG t gd (.int (BitVec.ofNat 64 (row.2 (s.c t cs)))))) ∧
    Completes (.cgetstate t gd cs) t s (s1.wrG t gd (.int (match (s.c t cs).st with
      | .valid => 0 | .unwritten => 1 | .notcap => 2 | .poison => 3 | .malformed => 4 | .null => 5))) ∧
    (derivable (s.c t cs) = true → derivable (s.c t cb) = true →
      Completes (.csubset t gd cs cb) t s (s1.wrG t gd (.int (if (s.c t cs).base ≤ (s.c t cb).base ∧ (s.c t cb).top ≤ (s.c t cs).top ∧
        (s.c t cs).has (s.c t cb).perms = true then 1 else 0)))) ∧
    ((s.g t gs).isData = true → (s.g t gs).bits.toNat ≤ 2 ^ 44 →
      let n := (s.g t gs).bits.toNat
      Completes (.kfitlen t gd gs) t s (s1.wrG t gd (.int (BitVec.ofNat 64 (roundedTop 0 n)))) ∧
      Completes (.kfitmask t gd gs) t s (s1.wrG t gd (.int (BitVec.ofNat 64 (2 ^ 64 - 2 ^ fitExp 0 n)))))

/-- The exponent that KNARROW uses is the smallest that fits the length into 15 bits, and it fits 5 bits (R236). -/
def Sys2Proof.Claims.KnarrowUsesTheSmallestExponent : Prop :=
  ∀ b t : Nat, b ≤ t → t ≤ 2 ^ 44 →
    fitExp b t ≤ 30 ∧ (t + 2 ^ fitExp b t - 1) / 2 ^ fitExp b t - b / 2 ^ fitExp b t ≤ 32767 ∧
    (∀ e, e < fitExp b t → 32767 < (t + 2 ^ e - 1) / 2 ^ e - b / 2 ^ e) ∧ (t - b ≤ 32767 → fitExp b t = 0)

/-- CMOV copies any capability or PCC; CINC, CINCI and CSETCUR move the cursor modulo 2^44; CANDPERM, CSETRING and KTETHER
change their field; each writes cd alone (Table 5-7, R295). -/
def Sys2Proof.Claims.CapabilityFieldDerivations : Prop :=
  ∀ (t : Tandem) (cd cs : CReg) (gs : Reg) (s s1 : State), Issues t .plain s s1 →
    let c := s.c t cs
    let g := (s.g t gs).bits
    Completes (.cmov t cd (some cs)) t s (s1.wrC t cd c) ∧
    Completes (.cmov t cd none) t s (s1.wrC t cd (s.cpu t).lk.pcc) ∧
    (derivable c = true →
      (∀ i : BitVec 17, Completes (.cinci t cd cs i) t s (s1.wrC t cd (c.setCursor (((c.cursor : Int) + i.toInt) % 2 ^ 44).toNat))) ∧
      Completes (.ktether t cd cs) t s (s1.wrC t cd c.setTether) ∧
      ((s.g t gs).isData = true →
        Completes (.cinc t cd cs gs) t s (s1.wrC t cd (c.setCursor (((c.cursor : Int) + g.toInt) % 2 ^ 44).toNat)) ∧
        Completes (.csetcur t cd cs gs) t s (s1.wrC t cd (c.setCursor g.toNat)) ∧
        Completes (.candperm t cd cs gs) t s (s1.wrC t cd (c.setPerms (c.perms &&& g.toNat % 2 ^ 10))) ∧
        (c.ring ≤ g.toNat % 4 → Completes (.csetring t cd cs gs) t s (s1.wrC t cd (c.setRing (g.toNat % 4))))))

/-- Setting a field of a capability changes that field to the value, cut to its width, and no other field; the bounds word
changes with KNARROW alone (Tables 5-3 and 5-4). -/
def Sys2Proof.Claims.CapabilityFieldsAreDisjoint : Prop :=
  ∀ (c : Cap) (x : Nat),
    ((c.setCursor x).cursor = x % 2 ^ 44 ∧ (c.setCursor x).perms = c.perms ∧ (c.setCursor x).ring = c.ring ∧
      (c.setCursor x).sealed = c.sealed ∧ (c.setCursor x).tether = c.tether ∧ (c.setCursor x).otype = c.otype ∧
      (c.setCursor x).b = c.b ∧ (c.setCursor x).st = c.st) ∧
    ((c.setPerms x).perms = x % 2 ^ 10 ∧ (c.setPerms x).cursor = c.cursor ∧ (c.setPerms x).ring = c.ring ∧
      (c.setPerms x).sealed = c.sealed ∧ (c.setPerms x).tether = c.tether ∧ (c.setPerms x).otype = c.otype ∧
      (c.setPerms x).b = c.b ∧ (c.setPerms x).st = c.st) ∧
    ((c.setRing x).ring = x % 4 ∧ (c.setRing x).cursor = c.cursor ∧ (c.setRing x).perms = c.perms ∧
      (c.setRing x).sealed = c.sealed ∧ (c.setRing x).tether = c.tether ∧ (c.setRing x).otype = c.otype ∧
      (c.setRing x).b = c.b ∧ (c.setRing x).st = c.st) ∧
    (c.setTether.tether = true ∧ c.setTether.cursor = c.cursor ∧ c.setTether.perms = c.perms ∧ c.setTether.ring = c.ring ∧
      c.setTether.sealed = c.sealed ∧ c.setTether.otype = c.otype ∧ c.setTether.b = c.b ∧ c.setTether.st = c.st) ∧
    ((c.sealWith x).sealed = true ∧ (c.sealWith x).otype = x % 2 ^ 6 ∧ (c.sealWith x).cursor = c.cursor ∧
      (c.sealWith x).perms = c.perms ∧ (c.sealWith x).ring = c.ring ∧ (c.sealWith x).tether = c.tether ∧ (c.sealWith x).b = c.b ∧
      (c.sealWith x).st = c.st) ∧
    (c.unseal.sealed = false ∧ c.unseal.otype = 0 ∧ c.unseal.cursor = c.cursor ∧ c.unseal.perms = c.perms ∧
      c.unseal.ring = c.ring ∧ c.unseal.tether = c.tether ∧ c.unseal.b = c.b ∧ c.unseal.st = c.st)

/-- CMOV copies any capability or PCC; CINC, CINCI and CSETCUR move the cursor modulo 2^44; CANDPERM, CSETRING and KTETHER
change their field; each writes cd alone (Table 5-7, R295). Setting a field of a capability changes that field to the value, cut
to its width, and no other field; the bounds word changes with KNARROW alone (Tables 5-3 and 5-4). -/
def Obligations.CapabilityFieldsAreDerived : Prop :=
  Claims.CapabilityFieldDerivations ∧ Claims.CapabilityFieldsAreDisjoint

/-- KNARROW, KNARROWI and KNARROW.X give the bounds of R236 where they lie within the source's; KNARROW.X also wants them exact;
a top above 2^44 or bounds beyond the source's raise CAP_MONO, and rounding raises CAP_INEXACT, with nothing written (R236,
R237). -/
def Sys2Proof.Claims.KnarrowRoundsOutward : Prop :=
  ∀ (t : Tandem) (cd cs : CReg) (gs : Reg) (i : BitVec 17) (s s1 : State), Issues t .plain s s1 → derivable (s.c t cs) = true →
    (s.g t gs).isData = true →
    let c := s.c t cs
    let mono : Exc := ⟨1, 0x16, 3, 0, false, 0⟩
    let n := (s.g t gs).bits.toNat
    (narrowTop c n → Faults (.knarrow t cd cs gs) t s mono s1 ∧ Faults (.knarrowX t cd cs gs) t s mono s1) ∧
    (narrowTop c i.toNat → Faults (.knarrowi t cd cs i) t s mono s1) ∧
    (¬narrowTop c n → narrowWithin c n → Completes (.knarrow t cd cs gs) t s (s1.wrC t cd (narrowed c n))) ∧
    (¬narrowTop c n → ¬narrowWithin c n → Faults (.knarrow t cd cs gs) t s mono s1) ∧
    (¬narrowTop c i.toNat → narrowWithin c i.toNat → Completes (.knarrowi t cd cs i) t s (s1.wrC t cd (narrowed c i.toNat))) ∧
    (¬narrowTop c i.toNat → ¬narrowWithin c i.toNat → Faults (.knarrowi t cd cs i) t s mono s1) ∧
    (¬narrowTop c n → ¬narrowExact c n → Faults (.knarrowX t cd cs gs) t s ⟨1, 0x17, 3, 0, false, 0⟩ s1) ∧
    (¬narrowTop c n → narrowExact c n → narrowWithin c n → Completes (.knarrowX t cd cs gs) t s (s1.wrC t cd (narrowed c n))) ∧
    (¬narrowTop c n → narrowExact c n → ¬narrowWithin c n → Faults (.knarrowX t cd cs gs) t s mono s1)

/-- The exponent that KNARROW uses is the smallest that fits the length into 15 bits, and it fits 5 bits (R236). KNARROW,
KNARROWI and KNARROW.X give the bounds of R236 where they lie within the source's; KNARROW.X also wants them exact; a top above
2^44 or bounds beyond the source's raise CAP_MONO, and rounding raises CAP_INEXACT, with nothing written (R236, R237). -/
def Obligations.KnarrowFitsTheBounds : Prop :=
  Claims.KnarrowUsesTheSmallestExponent ∧ Claims.KnarrowRoundsOutward

/-- CSEAL and CUNSEAL through an authority that meets R232 seal with the authority's cursor and unseal the type it names; CDUR,
in ring 0 with SYS, adds DUR alone to a capability within DWIN_P, or to a code capability within DWIN_X (R232, R233, R239, R962;
the order of its checks log 29). -/
def Obligations.SealingAndDurability : Prop :=
  ∀ (t : Tandem) (cd cs ca : CReg) (s s1 : State), Issues t .plain s s1 →
    let c := s.c t cs
    let a := s.c t ca
    let ring := (s.cpu t).ring
    (derivable c = true → derivable a = true → a.has pSEAL = true → ring ≤ a.ring → a.base ≤ a.cursor → a.cursor < a.top →
      a.cursor < 64 → (0x38 ≤ a.cursor → ring = 0) → Completes (.cseal t cd cs ca) t s (s1.wrC t cd (c.sealWith a.cursor))) ∧
    (c.st = .valid → c.sealed = true → c.otype < 0x38 → derivable a = true → a.has pUNSEAL = true → ring ≤ a.ring →
      a.base ≤ a.cursor → a.cursor < a.top → a.cursor = c.otype → Completes (.cunseal t cd cs ca) t s (s1.wrC t cd c.unseal)) ∧
    (derivable c = true → (s.cpu t).sys = true → ring = 0 → t ≠ .g →
      (let w := (s.cpu t).dwinP; w.toNat % 2 ^ 32 * 4096 ≤ c.base ∧ c.top ≤ w.toNat / 2 ^ 32 * 4096) ∨
      ((let w := (s.cpu t).dwinX; w.toNat % 2 ^ 32 * 4096 ≤ c.base ∧ c.top ≤ w.toNat / 2 ^ 32 * 4096) ∧ c.has pEX = true ∧
        c.perms &&& (pST + pSTC + pTTH + pSEAL + pUNSEAL) = 0) →
      Completes (.cdur t cd cs) t s (s1.wrC t cd (c.setPerms (c.perms ||| pDUR))))

/-- Every derivation but CDUR is monotonic: on every operand it either writes cd alone, with a capability that gives no more
than its source, or takes a fault that has written nothing (R235). -/
def Obligations.DerivationsNeverWiden : Prop :=
  ∀ (t : Tandem) (gs : Reg) (ca cd cs : CReg) (i17 : BitVec 17), ∀ row ∈ derivationRows t gs ca i17, ∀ (s s1 : State),
    Issues t .plain s s1 →
      (∃ d, Completes (row cd cs) t s (s1.wrC t cd d) ∧ Narrows (s.c t cs) d) ∨ (∃ e, Faults (row cd cs) t s e s1)

/-- Availability of floating point: LIVE changes nothing, OFF raises FP_UNAVAIL, DEFERRED swaps the state of the context in
first (R489, R490). -/
def Obligations.FloatingPointAvailability : Prop :=
  ∀ (m : Side) (s : State), let l := (s.sch m).getLk (s.cpu m.tandem).cur.val
    (l.fpst = .live → (fpAvail m).run s = .ok () s) ∧
    (l.fpst = .off → (fpAvail m).run s = .error ⟨7, 0x60, 3, 0, false, 0⟩ s) ∧
    (∀ k, l.fpst = .deferred → l.occ = some k → (fpAvail m).run s = .ok () (s.fpSwap m k))

/-- Add, subtract, multiply and the fused forms give the once-rounded result of Table 7-4 in the rounding mode of RM or FCSR.RM,
tag it FLT, and add its flags to FCSR (R347 to R349; tininess and a NaN addend log 30). -/
def Sys2Proof.Claims.FloatingPointSums : Prop :=
  ∀ (m : Side) (p : FPrec) (rm : RM) (fd a b c : FReg) (s s1 s2 : State), Issues m.tandem .plain s s1 → FpReady m s1 s2 →
    (s2.f m.tandem a).isData = true → (s2.f m.tandem b).isData = true →
    let x := fpArg s2 m p a
    let y := fpArg s2 m p b
    let z := fpArg s2 m p c
    let f := fmtOf p
    let r := fpMode s2 m rm
    Completes (.fadd m p rm fd a b) m.tandem s (fpPut s2 m fd (faddV f r x y)) ∧
    Completes (.fsub m p rm fd a b) m.tandem s (fpPut s2 m fd (faddV f r x y.negate)) ∧
    Completes (.fmul m p rm fd a b) m.tandem s (fpPut s2 m fd (fmulV f r x y)) ∧
    ((s2.f m.tandem c).isData = true →
      Completes (.fmadd m p rm fd a b c) m.tandem s (fpPut s2 m fd (ffmaV f r x y z)) ∧
      Completes (.fmsub m p rm fd a b c) m.tandem s (fpPut s2 m fd (ffmaV f r x y z.negate)) ∧
      Completes (.fnmadd m p rm fd a b c) m.tandem s (fpPut s2 m fd (ffmaV f r x.negate y z)))

/-- Divide and square root, which may not stand in a delay slot, likewise (R332, R347 to R349; tininess log 30). -/
def Sys2Proof.Claims.FloatingPointDivideAndRoot : Prop :=
  ∀ (m : Side) (p : FPrec) (rm : RM) (fd a b : FReg) (s s1 s2 : State), Issues m.tandem .long s s1 → FpReady m s1 s2 →
    (s2.f m.tandem a).isData = true →
    ((s2.f m.tandem b).isData = true →
      Completes (.fdiv m p rm fd a b) m.tandem s (fpPut s2 m fd (fdivV (fmtOf p) (fpMode s2 m rm) (fpArg s2 m p a) (fpArg s2 m p b)))) ∧
    Completes (.fsqrt m p rm fd a) m.tandem s (fpPut s2 m fd (fsqrtV (fmtOf p) (fpMode s2 m rm) (fpArg s2 m p a)))

/-- Minimum and maximum, sign operations, conversions, comparisons and the class give the results of Table 7-4 (R347 to R349;
FABS and FNEG of a NaN and the order of the bits of FCLASS log 31, minimum and maximum log 32, the conversions log 50). -/
def Sys2Proof.Claims.FloatingPointSelectConvertCompare : Prop :=
  ∀ (m : Side) (p : FPrec) (rm : RM) (fd a b : FReg) (gd : Reg) (s s1 s2 : State), Issues m.tandem .plain s s1 → FpReady m s1 s2 →
    (s2.f m.tandem a).isData = true →
    let x := fpArg s2 m p a
    let y := fpArg s2 m p b
    let f := fmtOf p
    let xb := fbits p (s2.f m.tandem a).bits
    let yb := fbits p (s2.f m.tandem b).bits
    ((s2.f m.tandem b).isData = true →
      Completes (.fmin m p fd a b) m.tandem s (fpPut s2 m fd (fminmaxV f false xb yb)) ∧
      Completes (.fmax m p fd a b) m.tandem s (fpPut s2 m fd (fminmaxV f true xb yb)) ∧
      Completes (.feq m p gd a b) m.tandem s (fpPutG s2 m gd (b2n (feqV x y), nvFlag (x.isSig || y.isSig))) ∧
      Completes (.flt m p gd a b) m.tandem s (fpPutG s2 m gd (b2n (fltV x y), nvFlag (x.isNan || y.isNan))) ∧
      Completes (.fle m p gd a b) m.tandem s (fpPutG s2 m gd (b2n (fltV x y || feqV x y), nvFlag (x.isNan || y.isNan)))) ∧
    Completes (.fabs m p fd a) m.tandem s (fpPut s2 m fd (withSign p xb false, 0)) ∧
    Completes (.fneg m p fd a) m.tandem s (fpPut s2 m fd (withSign p xb (xb / 2 ^ (f.eb + f.mb) % 2 == 0), 0)) ∧
    Completes (.fcvtp m .f64 rm fd a) m.tandem s (fpPut s2 m fd (fcvtV (fmtOf .f64) (fpMode s2 m rm) (fpArg s2 m .f32 a))) ∧
    Completes (.fcvtp m .f32 rm fd a) m.tandem s (fpPut s2 m fd (fcvtV (fmtOf .f32) (fpMode s2 m rm) (fpArg s2 m .f64 a))) ∧
    Completes (.fcvtfi m p rm fd a) m.tandem s (fpPut s2 m fd (froundInt f (fpMode s2 m rm) (s2.f m.tandem a).bits.toInt 0 false)) ∧
    Completes (.fcvtif m p rm fd a) m.tandem s (fpPut s2 m fd (let r := ftointV (fpMode s2 m rm) x; ((r.1 % 2 ^ 64).toNat, r.2))) ∧
    Completes (.fclass m p gd a) m.tandem s (fpPutG s2 m gd (2 ^ fclassV f xb, 0))

/-- An UNWRITTEN or POISON f source faults the instruction of major 0x34 that reads it, naming the first such source, and an
UNWRITTEN FCSR faults it after them; floating point that is off raises FP_UNAVAIL first; the instruction does nothing else
(R222, R283, R349, R489, Table 5-2; that FCSR comes after the sources is log 28). -/
def Sys2Proof.Claims.FloatingPointSourcesFaultByTheirTag : Prop :=
  ∀ (m : Side) (p : FPrec) (rm : RM) (fd a b c : FReg) (gd : Reg) (s s1 s2 : State),
    let one : List Instr := [.fabs m p fd a, .fneg m p fd a, .fcvtp m p rm fd a, .fcvtfi m p rm fd a, .fcvtif m p rm fd a, .fclass m p gd a]
    let two : List Instr := [.fadd m p rm fd a b, .fsub m p rm fd a b, .fmul m p rm fd a b, .fmin m p fd a b, .fmax m p fd a b,
      .feq m p gd a b, .flt m p gd a b, .fle m p gd a b]
    let three : List Instr := [.fmadd m p rm fd a b c, .fmsub m p rm fd a b c, .fnmadd m p rm fd a b c]
    let groups (k : Kind) : List (List Instr × List FReg) :=
      if k = .long then [([.fdiv m p rm fd a b], [a, b]), ([.fsqrt m p rm fd a], [a])] else [(one, [a]), (two, [a, b]), (three, [a, b, c])]
    ∀ k ∈ [Kind.plain, .long], Issues m.tandem k s s1 → ∀ g ∈ groups k, ∀ i ∈ g.1,
      (((s1.sch m).getLk (s1.cpu m.tandem).cur.val).fpst = .off → Faults i m.tandem s ⟨7, 0x60, 3, 0, false, 0⟩ s1) ∧
      (FpFrom m s1 s2 → let fault := sourceFault (g.2.map fun r => (2, r.val, s2.f m.tandem r))
        (∀ e, fault = some e → Faults i m.tandem s e s2) ∧
        (fault = none → (s2.cpu m.tandem).lk.fcsr.tag = .unwritten → Faults i m.tandem s ⟨0, 0x01, 3, 0, false, 0⟩ s2))

/-- Add, subtract, multiply and the fused forms give the once-rounded result of Table 7-4 in the rounding mode of RM or FCSR.RM,
tag it FLT, and add its flags to FCSR (R347 to R349; tininess and a NaN addend log 30). Divide and square root, which may not
stand in a delay slot, likewise (R332, R347 to R349; tininess log 30). Minimum and maximum, sign operations, conversions,
comparisons and the class give the results of Table 7-4 (R347 to R349; FABS and FNEG of a NaN and the order of the bits of
FCLASS log 31, minimum and maximum log 32, the conversions log 50). An UNWRITTEN or POISON f source faults the instruction of
major 0x34 that reads it, naming the first such source, and an UNWRITTEN FCSR faults it after them; floating point that is off
raises FP_UNAVAIL first; the instruction does nothing else (R222, R283, R349, R489, Table 5-2; that FCSR comes after the sources
is log 28). -/
def Obligations.FloatingPointArithmetic : Prop :=
  Claims.FloatingPointSums ∧ Claims.FloatingPointDivideAndRoot ∧ Claims.FloatingPointSelectConvertCompare ∧ Claims.FloatingPointSourcesFaultByTheirTag

/-- Moves between g, f and memory: MOVFG carries the word, MOVGF tags data FLT, FLD tags what it loads FLT, FST stores the
register's word; UNWRITTEN and POISON are carried (R219, R284, R292). -/
def Obligations.FloatingPointMoves : Prop :=
  ∀ (m : Side) (gd gs : Reg) (fr : FReg) (cs : CReg) (off : BitVec 13) (s s1 s2 s3 s4 : State) (ea : Nat) (ph : Phys) (rg : Region),
    Issues m.tandem .plain s s1 → FpFrom m s1 s2 →
    Completes (.movfg m gd fr) m.tandem s (s2.wrG m.tandem gd (s2.f m.tandem fr)) ∧
    Completes (.movgf m fr gs) m.tandem s (s2.wrF m.tandem fr
      (if isDataTag (s2.g m.tandem gs).tag then ⟨.flt, (s2.g m.tandem gs).bits⟩ else s2.g m.tandem gs)) ∧
    (∀ v, Passes m.tandem .load .fp cs ⟨pLD, false, 8, 1⟩ off.toInt 8 s2 s3 ea ph rg → ReadsNow m.tandem ph rg 8 s3 →
      LoadGives m.tandem false rg ph 8 ea false (loading m.tandem s3) v s4 →
        Completes (.fld m fr cs off) m.tandem s
          (s4.wrF m.tandem fr (if v.tag = .unwritten ∨ v.tag = .poison then v else ⟨.flt, v.bits⟩))) ∧
    (Passes m.tandem .store .fp cs ⟨pST, false, 8, 1⟩ off.toInt 8 s2 s3 ea ph rg →
      (ea % 8 ≠ 0 → (s2.f m.tandem fr).isData = true) → StoreGives m.tandem rg ph 8 ea (s2.f m.tandem fr) s3 s4 →
        Completes (.fst m fr cs off) m.tandem s s4)

/-- Rounding a representable value gives it back with no flag, in every mode (R347, R348). -/
def Sys2Proof.Claims.RepresentableValuesRoundToThemselves : Prop :=
  ∀ (p : FPrec) (rm : RMode) (v : Nat), v < 2 ^ ((fmtOf p).eb + (fmtOf p).mb + 1) →
    (∀ neg k e, fdecode (fmtOf p) v = .fin neg k e → fround (fmtOf p) rm neg k e = (v, 0)) ∧
    (∀ neg, fdecode (fmtOf p) v = .inf neg → fInf (fmtOf p) neg = v)

/-- Every NaN that a function of Table 7-4 gives is the canonical one; a NaN operand gives it, with NV where one is signalling,
and so does each invalid operation, with NV; minimum and maximum give the operand that is no NaN; a conversion of a NaN to an
integer gives 0 with NV (R347, R348; minimum and maximum log 32, the conversion log 50, the flag of a fused operation with a NaN
addend log 30). -/
def Sys2Proof.Claims.NansAreCanonical : Prop :=
  ∀ (p : FPrec) (rm : RMode) (x y z : FVal) (vx vy : Nat) (mx a b : Bool) (m n : Nat) (e g : Int),
    let f := fmtOf p
    let sig := x.isSig || y.isSig
    fNan (fmtOf .f64) = 0x7FF8000000000000 ∧ fNan (fmtOf .f32) = 0x7FC00000 ∧
    (∀ r ∈ [faddV f rm x y, fmulV f rm x y, fdivV f rm x y, ffmaV f rm x y z, fsqrtV f rm x, fcvtV f rm x, fminmaxV f mx vx vy],
      (fdecode f r.1).isNan = true → r.1 = fNan f) ∧
    (x.isNan = true ∨ y.isNan = true →
      faddV f rm x y = nanOf f sig ∧ fmulV f rm x y = nanOf f sig ∧ fdivV f rm x y = nanOf f sig ∧
      ffmaV f rm x y z = nanOf f (sig || z.isSig)) ∧
    (x.isNan = true → fsqrtV f rm x = nanOf f x.isSig ∧ fcvtV f rm x = nanOf f x.isSig ∧ ftointV rm x = (0, 16)) ∧
    (z.isNan = true → (ffmaV f rm x y z).1 = fNan f ∧ (z.isSig = true ∨ sig = true → (ffmaV f rm x y z).2 = 16) ∧
      (z.isSig = false → isFin x = true → isFin y = true → ffmaV f rm x y z = (fNan f, 0))) ∧
    faddV f rm (.inf a) (.inf !a) = (fNan f, 16) ∧
    fmulV f rm (.inf a) (.fin b 0 e) = (fNan f, 16) ∧ fmulV f rm (.fin b 0 e) (.inf a) = (fNan f, 16) ∧
    fdivV f rm (.inf a) (.inf b) = (fNan f, 16) ∧ fdivV f rm (.fin a 0 e) (.fin b 0 g) = (fNan f, 16) ∧
    fsqrtV f rm (.inf true) = (fNan f, 16) ∧ (m ≠ 0 → fsqrtV f rm (.fin true m e) = (fNan f, 16)) ∧
    (z.isNan = false → ffmaV f rm (.inf a) (.fin b 0 e) z = (fNan f, 16) ∧ ffmaV f rm (.fin b 0 e) (.inf a) z = (fNan f, 16)) ∧
    (n ≠ 0 → ffmaV f rm (.inf a) (.fin b n e) (.inf (a == b)) = (fNan f, 16) ∧
      ffmaV f rm (.fin b n e) (.inf a) (.inf (a == b)) = (fNan f, 16)) ∧ ffmaV f rm (.inf a) (.inf b) (.inf (a == b)) = (fNan f, 16) ∧
    (let nx := (fdecode f vx).isNan
     let ny := (fdecode f vy).isNan
     let fl := if (fdecode f vx).isSig || (fdecode f vy).isSig then 16 else 0
     (nx = true → ny = true → fminmaxV f mx vx vy = (fNan f, fl)) ∧ (nx = true → ny = false → fminmaxV f mx vx vy = (vy, fl)) ∧
       (nx = false → ny = true → fminmaxV f mx vx vy = (vx, fl)))

/-- Sums, products, fused operations, quotients, square roots and conversions give the exact result rounded once in the mode,
with the sign of an exact zero, DZ on a quotient by zero, and NV on an integer out of range (R347, R348, Table 7-4; tininess log
30, conversions log 50). -/
def Sys2Proof.Claims.ArithmeticIsOnceRounded : Prop :=
  ∀ (p o : FPrec) (rm : RMode) (vx vy vz : Nat) (i : Int),
    let f := fmtOf p
    let x := fdecode f vx
    let y := fdecode f vy
    let z := fdecode f vz
    let w := fdecode (fmtOf o) vx
    let differ (a b : Bool) : Bool := if a = b then a else decide (rm = .rdn)
    (isFin x = true → isFin y = true →
      isRounded f rm (fpValue x + fpValue y) (differ x.isNeg y.isNeg) (faddV f rm x y) ∧
      isRounded f rm (fpValue x * fpValue y) (x.isNeg != y.isNeg) (fmulV f rm x y) ∧
      (isFin z = true → isRounded f rm (fpValue x * fpValue y + fpValue z) (differ (x.isNeg != y.isNeg) z.isNeg) (ffmaV f rm x y z)) ∧
      (fpValue y ≠ 0 → isRounded f rm (fpValue x / fpValue y) (x.isNeg != y.isNeg) (fdivV f rm x y)) ∧
      (fpValue y = 0 → fpValue x ≠ 0 → fdivV f rm x y = (fInf f (x.isNeg != y.isNeg), 8))) ∧
    (isFin x = true → fpValue x = 0 → fsqrtV f rm x = (if x.isNeg then 2 ^ (f.eb + f.mb) else 0, 0)) ∧
    (isFin x = true → 0 < fpValue x →
      onceRounded f rm false (fun c => c < 0 ∨ c * c < fpValue x) (fun c => 0 ≤ c ∧ c * c = fpValue x) (fsqrtV f rm x)) ∧
    (isFin w = true → isRounded f rm (fpValue w) w.isNeg (fcvtV f rm w)) ∧
    isRounded f rm i false (froundInt f rm i 0 false) ∧
    (isFin w = true → let v := fpValue w
      let a : Rat := if v < 0 then -v else v
      (v = 0 → ftointV rm w = (0, 0)) ∧
      (v ≠ 0 → ∃ n : Nat, roundsTo rm (decide (v < 0)) (· < a) (· = a) 1 n ∧
        let k : Int := if v < 0 then -(n : Int) else n
        ftointV rm w = if k < -(2 ^ 63) then (-(2 ^ 63), 16) else if 2 ^ 63 ≤ k then (2 ^ 63 - 1, 16) else (k, if (n : Rat) = a then 0 else 1))) ∧
    (∀ neg, ftointV rm (.inf neg) = (if neg then -(2 ^ 63) else 2 ^ 63 - 1, 16) ∧ fcvtV f rm (.inf neg) = (fInf f neg, 0) ∧
      (isFin x = true → faddV f rm (.inf neg) x = (fInf f neg, 0) ∧ faddV f rm x (.inf neg) = (fInf f neg, 0) ∧
        fdivV f rm (.inf neg) x = (fInf f (neg != x.isNeg), 0) ∧
        fdivV f rm x (.inf neg) = (if x.isNeg != neg then 2 ^ (f.eb + f.mb) else 0, 0) ∧
        (fpValue x ≠ 0 → fmulV f rm (.inf neg) x = (fInf f (neg != x.isNeg), 0) ∧ fmulV f rm x (.inf neg) = (fInf f (neg != x.isNeg), 0)))) ∧
    fsqrtV f rm (.inf false) = (fInf f false, 0)

/-- Rounding a representable value gives it back with no flag, in every mode (R347, R348). Every NaN that a function of Table
7-4 gives is the canonical one; a NaN operand gives it, with NV where one is signalling, and so does each invalid operation,
with NV; minimum and maximum give the operand that is no NaN; a conversion of a NaN to an integer gives 0 with NV (R347, R348;
minimum and maximum log 32, the conversion log 50, the flag of a fused operation with a NaN addend log 30). Sums, products,
fused operations, quotients, square roots and conversions give the exact result rounded once in the mode, with the sign of an
exact zero, DZ on a quotient by zero, and NV on an integer out of range (R347, R348, Table 7-4; tininess log 30, conversions log
50). -/
def Obligations.RoundingKeepsRepresentableValues : Prop :=
  Claims.RepresentableValuesRoundToThemselves ∧ Claims.NansAreCanonical ∧ Claims.ArithmeticIsOnceRounded

/-- A SWEEP with count 0 finishes at once; one whose elements all complete runs exactly gc of them; one whose element stops it
finishes with the cursors and gc of that element; and one that is interrupted stays at its word with the elements done so far
(R333, R362; which fault comes first log 28). -/
def Sys2Proof.Claims.SweepsRunTheirElements : Prop :=
  ∀ (t : Tandem) (z3 : Fin 3) (z : Fin 2) (cd cs : CReg) (gc gv : Reg) (k : Fin 4), ∀ op ∈ sweepOps t z3 z cd cs gc gv k,
    ∀ (s s1 : State), Issues t .long s s1 → reservedKind t op.word = none → (s.g t gc).isData = true →
      ((s.g t gc).bits = 0 → Completes (op.instr none) t s (op.fin s1)) ∧
      ((s.g t gc).bits ≠ 0 → (∀ r, op.reads = some r → (s.g t r).isData = true) →
        (∀ s2, ElementsRun t op (s.g t gc).bits.toNat s1 s2 → Completes (op.instr none) t s (op.fin s2)) ∧
        (∀ n s2 s3, n < (s.g t gc).bits.toNat → ElementsRun t op n s1 s2 → op.el.run s2 = .ok .stop s3 →
          (s3.cpu t).ring = (s.cpu t).ring → (s3.cpu t).pmctl = (s.cpu t).pmctl → Completes (op.instr none) t s s3) ∧
        (∀ n s2, n < (s.g t gc).bits.toNat → ElementsRun t op n s1 s2 →
          exec (op.instr (some n)) s = .next (fetchAhead t s2)))

/-- The elements: FILL and POISON store gv or POISON; COPY stores what it loads; CMP, FIND and CRC take the loaded value (R335
to R337, Table 7-2; of COPY, cs is judged before cd, log 134). -/
def Sys2Proof.Claims.SweepElementsFollowTheTable : Prop :=
  ∀ (t : Tandem) (z : Fin 2) (cd cs : CReg) (gv : Reg) (k : Fin 4) (s s1 s2 : State),
    (ElementStores t cd z (s.g t gv) false s s1 → (fillElem t z.val cd gv).run s = .ok .done s1) ∧
    (ElementStores t cd 1 .poison true s s1 → (poisonElem t cd).run s = .ok .done s1) ∧
    (∀ v, ElementLoads t cs z s v s1 → (z = 0 → v.isData = true) → ElementStores t cd z v false s1 s2 →
      (copyElem t z.val cd cs).run s = .ok .done s2) ∧
    (∀ x, ElementReads t cs z s x s1 →
      let y := if z = 0 then BitVec.ofNat 64 ((s.g t gv).bits.toNat % 256) else (s.g t gv).bits
      (findElem t z.val cs gv false).run s = .ok (if x = y then .stop else .done) s1 ∧
      (findElem t z.val cs gv true).run s = .ok (if x = y then .done else .stop) s1) ∧
    (∀ x y, ElementReads t cd z s x s1 → ElementReads t cs z s1 y s2 →
      (x = y → (cmpElem t z.val cd cs gv).run s = .ok .done s2) ∧
      (y.toNat < x.toNat → (cmpElem t z.val cd cs gv).run s = .ok .stop (s2.wrG t gv (.int 1))) ∧
      (x.toNat < y.toNat → (cmpElem t z.val cd cs gv).run s = .ok .stop (s2.wrG t gv (.int (BitVec.allOnes 64))))) ∧
    (∀ c x, crcConfig s t k = some c → ElementReads t cs z s x s1 →
      (crcElem t z.val cs gv k).run s = .ok .done (s1.wrG t gv (.int (BitVec.ofNat 64
        (crcBytes c ((s.g t gv).bits.toNat % 2 ^ c.width) (bytesOf (elemSize z) x.toNat))))))

/-- A SWEEP with count 0 finishes at once; one whose elements all complete runs exactly gc of them; one whose element stops it
finishes with the cursors and gc of that element; and one that is interrupted stays at its word with the elements done so far
(R333, R362; which fault comes first log 28). The elements: FILL and POISON store gv or POISON; COPY stores what it loads; CMP,
FIND and CRC take the loaded value (R335 to R337, Table 7-2; of COPY, cs is judged before cd, log 134). -/
def Obligations.SweepsRunElementByElement : Prop :=
  Claims.SweepsRunTheirElements ∧ Claims.SweepElementsFollowTheTable

/-- CRCB and CRCW feed 1 or 8 bytes of gs, the lowest first, into the CRC in gd; configuration 3 is CRC-32C and 0 to 2 come from
CRCP0 to CRCP2, an UNWRITTEN one faulting; a fed byte is eight of R337's steps after it has been combined with the CRC, at its
top end or, where REFL is 1, at its bottom, for each width 8, 16 and 32 (R337). -/
def Obligations.CrcStepsFollowTheConfiguration : Prop :=
  (∀ (t : Tandem) (gd gs : Reg) (k : Fin 4) (s s1 : State), Issues t .plain s s1 → (s.g t gd).isData = true →
    (s.g t gs).isData = true →
      (∀ c, crcConfig s t k = some c →
        Completes (.crcb t gd gs k) t s (s1.wrG t gd (.int (BitVec.ofNat 64
          (crcByte c ((s.g t gd).bits.toNat % 2 ^ c.width) ((s.g t gs).bits.toNat % 256))))) ∧
        Completes (.crcw t gd gs k) t s (s1.wrG t gd (.int (BitVec.ofNat 64
          ((List.range 8).foldl (fun x i => crcByte c x ((s.g t gs).bits.toNat / 2 ^ (8 * i) % 256))
            ((s.g t gd).bits.toNat % 2 ^ c.width)))))) ∧
      (crcConfig s t k = none →
        Faults (.crcb t gd gs k) t s ⟨0, 1, 3, 0, false, 0⟩ s1 ∧ Faults (.crcw t gd gs k) t s ⟨0, 1, 3, 0, false, 0⟩ s1)) ∧
  (∀ (c : CrcCfg) (x b : Nat), c.width = 8 ∨ c.width = 16 ∨ c.width = 32 → c.poly < 2 ^ c.width → x < 2 ^ c.width → b < 256 →
    crcByte c x b = Nat.repeat (crcStep c) 8 (if c.refl then x ^^^ b else x ^^^ (b * 2 ^ (c.width - 8))) ∧
    (x < 2 ^ c.width → crcShift c x = crcStep c x) ∧ crcByte c x b < 2 ^ c.width) ∧
  (∀ (s : State) (t : Tandem) (k : Fin 4) (c : CrcCfg), crcConfig s t k = some c → c.width = 8 ∨ c.width = 16 ∨ c.width = 32)

/-- DIV, DIVU, REM and REMU give the quotient and remainder of R344 for every operand, division by zero and overflow included,
and may not stand in a delay slot. -/
def Sys2Proof.Claims.DivisionNeverFaultsOnValues : Prop :=
  ∀ row ∈ divRows, ∀ (t : Tandem) (gd gs1 gs2 : Reg) (s s1 : State), Issues t .long s s1 →
    (s.g t gs1).isData = true → (s.g t gs2).isData = true →
    Completes (row.1 t gd gs1 gs2) t s (s1.wrG t gd (.int (row.2 (s.g t gs1).bits (s.g t gs2).bits)))

/-- An UNWRITTEN or POISON source of a division or of a fixed-point function faults it, naming the first such source, and an
UNWRITTEN QSTAT faults a fixed-point function after them; the instruction does nothing else (R222, R283, R350, Table 5-2; that
QSTAT comes after the sources is log 28). -/
def Sys2Proof.Claims.DivisionSourcesFaultByTheirTag : Prop :=
  ∀ (t : Tandem) (gd gs1 gs2 : Reg) (frac : BitVec 6) (s s1 : State),
    let first := (0, gs1.val, s.g t gs1)
    let fault2 := sourceFault [first, (0, gs2.val, s.g t gs2)]
    (Issues t .long s s1 → ∀ e, fault2 = some e → ∀ row ∈ divRows, Faults (row.1 t gd gs1 gs2) t s e s1) ∧
    (Issues t .plain s s1 →
      (∀ i ∈ [Instr.qadd t gd gs1 gs2, .qsub t gd gs1 gs2, .qmul t gd gs1 gs2 frac], (∀ e, fault2 = some e → Faults i t s e s1) ∧
        (fault2 = none → (s.cpu t).lk.qstat.tag = .unwritten → Faults i t s ⟨0, 0x01, 3, 0, false, 0⟩ s1)) ∧
      (∀ i ∈ [Instr.qshl t gd gs1 frac, .qabs t gd gs1, .qneg t gd gs1], (∀ e, sourceFault [first] = some e → Faults i t s e s1) ∧
        (sourceFault [first] = none → (s.cpu t).lk.qstat.tag = .unwritten → Faults i t s ⟨0, 0x01, 3, 0, false, 0⟩ s1)))

/-- The fixed-point functions give the exact result saturated to 64 signed bits, tagged FIXQ, and set QSTAT.SAT exactly where
they saturate (R350, Table 7-5). -/
def Sys2Proof.Claims.FixedPointSaturates : Prop :=
  ∀ (frac : BitVec 6), ∀ row ∈ fixRows frac, ∀ (t : Tandem) (gd gs1 gs2 : Reg) (s s1 : State), Issues t .plain s s1 →
    (s.g t gs1).isData = true → (s.g t gs2).isData = true → (s.cpu t).lk.qstat.tag ≠ .unwritten →
    let x := row.2 (s.g t gs1).bits.toInt (s.g t gs2).bits.toInt
    Completes (row.1 t gd gs1 gs2) t s
      ((if saturated x = x then s1 else s1.modLk t satSet).wrG t gd
        ⟨.fixq, BitVec.ofInt 64 (saturated x)⟩)

/-- DIV, DIVU, REM and REMU give the quotient and remainder of R344 for every operand, division by zero and overflow included,
and may not stand in a delay slot. An UNWRITTEN or POISON source of a division or of a fixed-point function faults it, naming
the first such source, and an UNWRITTEN QSTAT faults a fixed-point function after them; the instruction does nothing else (R222,
R283, R350, Table 5-2; that QSTAT comes after the sources is log 28). The fixed-point functions give the exact result saturated
to 64 signed bits, tagged FIXQ, and set QSTAT.SAT exactly where they saturate (R350, Table 7-5). -/
def Obligations.DivisionAndFixedPoint : Prop :=
  Claims.DivisionNeverFaultsOnValues ∧ Claims.DivisionSourcesFaultByTheirTag ∧ Claims.FixedPointSaturates

/-- MLD, MST and MSTEP access through the cursor and then step it by the descriptor, modulo LEN or in bit-reversed order. Their
checks run in the order of R352: a descriptor that is UNWRITTEN or POISON faults first, as tandem G's always do, then the checks
of Table 5-8, then MOD_RANGE for a cursor outside the buffer (R351, R352, R370, R964). Which fault names a source is the model's
choice (log 135). -/
def Obligations.ModuloAddressingSteps : Prop :=
  (∀ (d : ModDesc) (cursor sh : Nat), d.mode = 1 → d.buf ≤ cursor → cursor < d.buf + d.len →
    modStep d cursor sh = some (d.buf + (((cursor : Int) - d.buf + d.step) % d.len).toNat)) ∧
  (∀ (d : ModDesc) (cursor sh k : Nat), d.mode = 2 → d.len = 2 ^ k → sh ≤ k → d.buf ≤ cursor → cursor < d.buf + d.len →
    (cursor - d.buf) % 2 ^ sh = 0 →
    let n := k - sh
    let i := (cursor - d.buf) / 2 ^ sh
    let j := (d.step / 2 ^ sh % 2 ^ n).toNat
    modStep d cursor sh = some (d.buf + 2 ^ sh * mirror n ((mirror n i + mirror n j) % 2 ^ n))) ∧
  (∀ (d : ModDesc) (cursor sh : Nat), (d.mode ≠ 1 ∧ d.mode ≠ 2) ∨ cursor < d.buf ∨ d.buf + d.len ≤ cursor ∨
    (d.mode = 2 ∧ ((∀ k, sh ≤ k → d.len ≠ 2 ^ k) ∨ (cursor - d.buf) % 2 ^ sh ≠ 0)) → modStep d cursor sh = none) ∧
  (∀ (t : Tandem) (r : Reg) (cs : CReg) (md : Fin 2) (d : ModDesc) (x : Nat) (s s1 s2 s3 : State) (ea : Nat) (ph : Phys) (rg : Region),
    Issues t .plain s s1 → descriptor s t md = some d →
    (∀ (sz : Fin 7) (v : TWord), Passes t .load .data cs ⟨pLD, false, modSize sz.val, 1⟩ 0 (modSize sz.val) s1 s2 ea ph rg →
      modStep d ea (szExp sz.val) = some x → ReadsNow t ph rg (modSize sz.val) s2 →
      LoadGives t false rg ph (modSize sz.val) ea (decide (4 ≤ sz.val)) (loading t s2) v s3 →
        Completes (.mld t r cs md sz) t s ((s3.wrG t r v).wrC t cs ((s.c t cs).setCursor (x % 2 ^ 44)))) ∧
    (∀ (sz : Fin 4), Passes t .store .data cs ⟨pST, false, 2 ^ sz.val, 1⟩ 0 (2 ^ sz.val) s1 s2 ea ph rg →
      (2 ^ sz.val < 8 ∨ ea % 8 ≠ 0 ∨ rg.isDev = true → (s.g t r).isData = true) → modStep d ea sz.val = some x →
      StoreGives t rg ph (2 ^ sz.val) ea (s.g t r) s2 s3 →
        Completes (.mst t r cs md sz) t s (s3.wrC t cs ((s.c t cs).setCursor x))) ∧
    (∀ (sz : Fin 4), (s.c t cs).st = .valid → (s.c t cs).sealed = false →
      (modStep d (s.c t cs).cursor sz.val = some x → Completes (.mstep t cs md sz) t s (s1.wrC t cs ((s.c t cs).setCursor x))) ∧
      (modStep d (s.c t cs).cursor sz.val = none → Faults (.mstep t cs md sz) t s ⟨3, 0x30, 3, 0, false, 0⟩ s1))) ∧
  (∀ (t : Tandem) (r : Reg) (cs : CReg) (md : Fin 2) (sz : Fin 4) (sl : Fin 7) (e : Exc) (s s1 : State), Issues t .plain s s1 →
    let c := s.c t cs
    (sourceFault (descWords s t md) = some e → Faults (.mld t r cs md sl) t s e s1 ∧ Faults (.mstep t cs md sz) t s e s1 ∧
      ((s.g t r).isData = true → Faults (.mst t r cs md sz) t s e s1)) ∧
    (∀ d, descriptor s t md = some d →
      (∀ bad, let at44 := c.cursor % 2 ^ 44
        (firstFault (accessRows c (s.cpu t).ring cs ⟨pLD, false, modSize sl.val, 1⟩ c.cursor) = some bad →
          Faults (.mld t r cs md sl) t s bad s1) ∧
        (firstFault (accessRows c (s.cpu t).ring cs ⟨pLD, false, modSize sl.val, 1⟩ c.cursor) = none →
          modStep d c.cursor (szExp sl.val) = none → Faults (.mld t r cs md sl) t s ⟨3, 0x30, 3, 0, false, at44⟩ s1) ∧
        ((s.g t r).isData = true →
          (firstFault (accessRows c (s.cpu t).ring cs ⟨pST, false, 2 ^ sz.val, 1⟩ c.cursor) = some bad →
            Faults (.mst t r cs md sz) t s bad s1) ∧
          (firstFault (accessRows c (s.cpu t).ring cs ⟨pST, false, 2 ^ sz.val, 1⟩ c.cursor) = none →
            modStep d c.cursor sz.val = none → Faults (.mst t r cs md sz) t s ⟨3, 0x30, 3, 0, false, at44⟩ s1)))))

/-- LR loads and reserves its line, holding it where no other tandem does; SC stores and answers 0 where the reservation is
held, answers 1 where there is none, and clears it either way, step 11 having judged its word before; L2_RESERVATION_HOLD_END
ends a hold (R340, R341, R343, R551; a hold is given up by its command, log 23, a reservation ends with its line, log 24, the
order of SC and the checks of its word logs 25 and 129). -/
def Sys2Proof.Claims.ReservationsPairLrWithSc : Prop :=
  ∀ (t : Tandem) (gd gs : Reg) (cs : CReg) (off : BitVec 8) (s s1 s2 s3 : State) (ea : Nat) (ph : Phys) (rg : Region),
    (s.clk.crystal = true → exec (.l2ReservationHoldEnd t) s = .next (s.modCpu t fun c => { c with hold := none })) ∧
    (Issues t .plain s s1 →
      (∀ v, Passes t .load .lrsc cs ⟨pLD, false, 8, 8⟩ (off.toInt * 8) 8 s1 s2 ea ph rg → ReadsNow t ph rg 8 s2 →
        LoadGives t false rg ph 8 ea false (loading t s2) v s3 →
          Completes (.lr t gd cs off) t s ((s3.modCpu t (reserved (ph.lo / 64) (s3.heldFor t ph.lo))).wrG t gd v)) ∧
      (Passes t .store .lrsc cs ⟨pST, false, 8, 8⟩ (off.toInt * 8) 8 s1 s2 ea ph rg →
        (targetTag t (ph.lo / 8) true ea).run s2 = .ok () s3 →
        let s4 := s3.modCpu t fun c => { c with resv := none }
        let e : SbEnt := ⟨ph.lo, bytesOf 8 (s.g t gs).bits.toNat, .whole (s.g t gs).tag⟩
        ((s3.cpu t).resv = some (ph.lo / 64) → joinsNow t [e] s4 →
          Completes (.sc t gd gs cs off) t s ((joined t s4 e).wrG t gd (.int 0))) ∧
        ((s3.cpu t).resv ≠ some (ph.lo / 64) → Completes (.sc t gd gs cs off) t s (s4.wrG t gd (.int 1)))))

/-- TAS, once its store buffer is empty, returns the persistent word it read and writes it back with bit 0 set and an INT tag;
at a device register it reads the register and writes it back with bit 0 set (R342; the buffer empties inside the command, log
23). -/
def Sys2Proof.Claims.TasSetsBitZero : Prop :=
  ∀ (t : Tandem) (gd : Reg) (cs : CReg) (off : BitVec 8) (s s1 s2 : State) (ea : Nat) (ph : Phys) (rg : Region),
    Issues t .plain s s1 → Passes t .store .tas cs ⟨pLD + pST, false, 8, 8⟩ (off.toInt * 8) 8 s1 s2 ea ph rg →
    let s3 := s2.drainAll t
    (s3.cpu t).sb = [] →
    (∀ (s4 : State) (k : Spk), rg = .spenik → (readOne t rg false (ph.lo / 8) ea).run s3 = .ok () s4 →
      let w := s4.memWord (ph.lo / 8)
      (∀ n, w.tag ≠ .reserved n) → w.isData = true → s4.spk.ledgerAdmit t (persistentWords [ph.lo / 8]) = some k →
      Completes (.tas t gd cs off) t s
        ((({ s4 with spk := k } : State).writeWords t [(ph.lo / 8, .int (w.bits ||| 1))]).wrG t gd (asLoaded w))) ∧
    (∀ (b : Fin 17), rg = .dev b → s3.devBusy b = false →
      let r := devRead s3 t b (ph.lo % 0x10000)
      Completes (.tas t gd cs off) t s ((devStore r.2 t ph.lo 8 (r.1 ||| 1)).wrG t gd (.int (BitVec.ofNat 64 r.1))))

/-- LR loads and reserves its line, holding it where no other tandem does; SC stores and answers 0 where the reservation is
held, answers 1 where there is none, and clears it either way, step 11 having judged its word before; L2_RESERVATION_HOLD_END
ends a hold (R340, R341, R343, R551; a hold is given up by its command, log 23, a reservation ends with its line, log 24, the
order of SC and the checks of its word logs 25 and 129). TAS, once its store buffer is empty, returns the persistent word it
read and writes it back with bit 0 set and an INT tag; at a device register it reads the register and writes it back with bit 0
set (R342; the buffer empties inside the command, log 23). -/
def Obligations.ReservationsAndTas : Prop :=
  Claims.ReservationsPairLrWithSc ∧ Claims.TasSetsBitZero

/-- FENCE, IFLUSH and TBAR complete with the store buffer drained, IFLUSH with no code word held anywhere but in memory, TBAR
with empty micro-TLBs, both with nothing fetched ahead; PFENCE also closes the tandem's epoch, unless an older one is
uncommitted, and waits where one is (R353, R354, R389, R611; the buffer empties inside the command, log 23, the code words of a
line that was overwritten log 19, a PFENCE that waits log 44). -/
def Obligations.FencesDrainTheBuffer : Prop :=
  ∀ (t : Tandem) (s s1 : State), let d := s1.drainAll t
    (d.cpu t).sb = [] →
    (Issues t .plain s s1 → Completes (.fence t) t s d ∧
      (∃ s', exec (.iflush t) s = .next (fetchAhead t s') ∧ Retired t d s' ∧ (s'.cpu t).front.l1i = [] ∧
        (s'.cpu t).front.btb = [] ∧ (s'.cpu t).front.fq = [] ∧ ∀ w, s'.codeWord t w = s'.memWord w) ∧
      (∃ s', exec (.tbar t) s = .next (fetchAhead t s') ∧ Retired t (d.modCpu t fun c => { c with itlb := [], dtlb := [] }) s' ∧
        (s'.cpu t).itlb = [] ∧ (s'.cpu t).dtlb = [] ∧ (s'.cpu t).front.fq = [])) ∧
    (Issues t .long s s1 →
      let k := if d.spk.uncommitted t then d.spk else d.spk.close t
      (k.uncommitted t = false → Completes (.pfence t) t s { d with spk := k }) ∧
      (k.uncommitted t = true →
        exec (.pfence t) s = .next (fetchAhead t (({ d with spk := k } : State).modCpu t fun c => { c with wait := .pfence }))))

/-- WCALL through a wicket capability of a more privileged ring leaves the resumption capability of the next word in c15 and
takes the unsealed target as PCC; WRET through a resumption capability of no more privileged a ring takes it as PCC (R437,
R438). The test of the cursor's alignment is made once, at the transfer (log 130). -/
def Sys2Proof.Claims.WicketCallsAndReturns : Prop :=
  ∀ (t : Tandem) (cs : CReg) (s s1 : State), Issues t .ring s s1 →
    (goodTarget (s.c t cs) (s.cpu t).ring (fun n => decide (0x38 ≤ n ∧ n ≤ 0x3E)) (fun r cur => decide (r < cur)) →
      ∃ s', exec (.wcall t cs) s = .next s' ∧ Settled t
        (s1.modLk t fun l => { l.setC 15 (resumesAt l.pcc (l.pcc.cursor + 4)) with pcc := (s.c t cs).unseal }) s') ∧
    (goodTarget (s.c t cs) (s.cpu t).ring (fun n => decide (n = 0x3F)) (fun r cur => decide (cur ≤ r)) →
      ∃ s', exec (.wret t cs) s = .next s' ∧ Settled t (s1.modLk t fun l => { l with pcc := (s.c t cs).unseal }) s')

/-- ERET and ERET.S restore the locker, the priority level and the marks of ESTAT, end the glide and the reservation, clear
VALID and LKRSV.PEND of the handler's locker, and go on at the address of R433's table, ERET.S one word on; without VALID they
raise the fault of R433, with the target's CURSOR in EADDR, and an uncorrectable error in the saved state is MC_ECC (R457,
R964). A PLOCK that names no locker of the tandem keeps its low bits, which is the model's choice (log 36). -/
def Sys2Proof.Claims.EretRestoresTheInterruptedState : Prop :=
  ∀ (t : Tandem) (cs : CReg) (skip : Bool) (s s1 : State), Issues t .ring s s1 →
    let l := (s.cpu t).lk
    let es := l.estat.bits.toNat
    let i : Instr := if skip then .eretS t cs else .eret t cs
    (¬ savedGood s1 t (s.cpu t).cur.val →
      ∃ s2, Quiet s1 s2 ∧ Faults i t s ⟨9, 0x70, 3, 0, false, (s.c t cs).cursor % 2 ^ 44⟩ s2) ∧
    (savedGood s1 t (s.cpu t).cur.val → l.estat.bits.getLsbD 63 = false →
      ∃ s2, Quiet s1 s2 ∧ Faults i t s ⟨2, 0x23, 3, 0, false, (s.c t cs).cursor % 2 ^ 44⟩ s2) ∧
    (savedGood s1 t (s.cpu t).cur.val → l.estat.bits.getLsbD 63 = true →
      goodTarget (s.c t cs) (s.cpu t).ring (fun n => decide (n = 0x3F)) (fun r cur => decide (cur ≤ r)) →
      ∃ s', exec i s = .next s' ∧ Quiet s (s'.setCpu t ((s.cpu t).hw (s'.cpu t))) ∧
        let c := s'.cpu t
        let slot := l.estat.bits.getLsbD 61
        let a := (s.c t cs).cursor
        c.cur.val = es / 2 ^ 16 % 16 % (if t = .g then 2 else 8) ∧ c.cpl.toNat = es / 2 ^ 8 % 16 ∧ c.glide = 0 ∧ c.resv = none ∧
        c.dfActive = ((s.cpu t).dfActive && !l.estat.bits.getLsbD 62) ∧ c.run = .running ∧ c.entering = none ∧
        c.lk.pcc = (s.c t cs).unseal.setCursor (if skip then (if slot then l.enext.bits.toNat % 2 ^ 44 else a + 4) else a) ∧
        c.slot = (if slot && !skip then some ⟨BitVec.ofNat 44 l.enext.bits.toNat, false, none⟩ else none) ∧
        (c.locker (s.cpu t).cur.val).estat.bits.getLsbD 63 = false ∧ (c.locker (s.cpu t).cur.val).lkrsv.bits.getLsbD 0 = false ∧
        (∀ r, (c.locker (s.cpu t).cur.val).getG r = s.g t r) ∧ (∀ r, (c.locker (s.cpu t).cur.val).getC r = s.c t r) ∧
        (∀ n r, n ≠ (s.cpu t).cur.val → (c.locker n).getG r = ((s.cpu t).locker n).getG r))

/-- WCALL through a wicket capability of a more privileged ring leaves the resumption capability of the next word in c15 and
takes the unsealed target as PCC; WRET through a resumption capability of no more privileged a ring takes it as PCC (R437,
R438). The test of the cursor's alignment is made once, at the transfer (log 130). ERET and ERET.S restore the locker, the
priority level and the marks of ESTAT, end the glide and the reservation, clear VALID and LKRSV.PEND of the handler's locker,
and go on at the address of R433's table, ERET.S one word on; without VALID they raise the fault of R433, with the target's
CURSOR in EADDR, and an uncorrectable error in the saved state is MC_ECC (R457, R964). A PLOCK that names no locker of the
tandem keeps its low bits, which is the model's choice (log 36). -/
def Obligations.WicketsAndEretTransfer : Prop :=
  Claims.WicketCallsAndReturns ∧ Claims.EretRestoresTheInterruptedState

/-- An entry whose reads are good and whose checks pass writes the saved state into the handler's locker, loads c14 where STK is
1, and continues at HANDLER, with the held first block as the words to execute and the entry's glide under way; no general
register, no other locker and nothing outside the tandem changes but what caches and check bits change (R426, R428, R430, R439).
The address in EADDR, a resumption in the slot of a JALC and the copy of the vector are the model's readings (log 27, 35, 38,
136). -/
def Sys2Proof.Claims.ExceptionEntrySavesAndTransfers : Prop :=
  ∀ (t : Tandem) (vec : Nat) (e : Exc) (cpl : Option Nat) (v : VecEnt) (n : Nat) (s : State),
    entryCheck s t vec false = .ok (v, n) → shadowGood s t vec → savedGood s t n →
    n < 8 → e.det < 2 ^ 8 → e.cls < 16 → e.num < 32 → e.kind < 4 → vec < 2 ^ 9 →
      let s' := enterVector t vec e cpl s
      let c := s.cpu t
      let c' := s'.cpu t
      SavedState vec e none c (c'.locker n) ∧ c'.cur.val = n ∧ (c'.locker n).pcc = v.handler ∧
      (c'.locker n).getC 14 = (if v.stk then v.stack else (c.locker n).getC 14) ∧
      (∀ r, (c'.locker n).getG r = (c.locker n).getG r) ∧ (∀ r, r ≠ 14 → r ≠ 15 → (c'.locker n).getC r = (c.locker n).getC r) ∧
      (∀ m, m ≠ n → c'.locker m = c.locker m) ∧ c'.glide = v.glideLen ∧ c'.slot = none ∧ c'.wait = .none ∧ c'.resv = none ∧
      c'.cpl = (match cpl with | some l => BitVec.ofNat 4 l | none => c.cpl) ∧ c'.dfActive = c.dfActive ∧
      (∀ x y, v.held = some (x, y) → let a := v.handler.cursor
        c'.front.fq = [⟨a, x, none, false⟩, ⟨a + 4, x, none, false⟩, ⟨a + 8, y, none, false⟩, ⟨a + 12, y, none, false⟩]) ∧
      Quiet s (s'.setCpu t (c.hw c'))

/-- A fault outside any entry goes to the vector of its class; a fault met while an entry is under way, an entry whose checks
fail, or one that meets an uncorrectable error in the vector shadow, goes to the double-fault vector at CPL 15 with the original
cause kept and is reported to the warden; a further one stops the tandem and is reported as THIRD, after what words fetched
ahead and now discarded report (R415, R422, R439 to R441, R457). What the tandem keeps when it stops is the model's reading (log
47), as are the reports' details (log 45). -/
def Sys2Proof.Claims.FaultsEscalate : Prop :=
  ∀ (t : Tandem) (e : Exc) (s : State), e ≠ Exc.waits →
    ((s.cpu t).dfActive = false → (s.cpu t).entering = none → e.cls ≠ 0xA → takeFault t e s = enterVector t e.cls e none s) ∧
    (∀ vec cpl, (s.cpu t).dfActive = false →
      (∀ d, entryCheck s t vec false = .error d → shadowGood s t vec →
        (∀ n, savedGood s t n) → ∃ s1, Quiet s s1 ∧
          enterVector t vec e cpl s = doubleFault t ⟨0xA, d, 3, 0, false, 0⟩ (e.cls, e.det) s1) ∧
      (¬ shadowGood s t vec → ∃ s1, Quiet s s1 ∧ ⟨4, BitVec.ofNat 8 (ownGroup t)⟩ ∈ s1.wrd.arrived ∧
        enterVector t vec e cpl s = doubleFault t ⟨9, 0x70, 3, 0, false, 0⟩ (e.cls, e.det) s1)) ∧
    (∀ k d, (s.cpu t).dfActive = false → (s.cpu t).entering = some (k, d) →
      takeFault t e s = doubleFault t e (k.toNat, d.toNat) s) ∧
    (∀ orig, shadowGood s t 0x10 → let s' := doubleFault t e orig s
      ∃ l : List Det, (∀ x ∈ l, x.bit = 17) ∧
      (∀ v n, entryCheck s t 0x10 true = .ok (v, n) → n < 8 →
        (s'.cpu t).cpl = 15 ∧ (s'.cpu t).dfActive = true ∧ (s'.cpu t).cur.val = n ∧ ((s'.cpu t).locker n).pcc = v.handler ∧
          s'.wrd.arrived = s.wrd.arrived ++ l ++ [⟨17, 0x11⟩]) ∧
      (∀ d, entryCheck s t 0x10 true = .error d →
        (s'.cpu t).run = .stopped ∧ s'.wrd.arrived = s.wrd.arrived ++ l ++ [⟨15, BitVec.ofNat 8 t.idx⟩])) ∧
    ((s.cpu t).dfActive = true →
      (takeFault t e s).cpu t = { s.cpu t with run := .stopped, entering := none } ∧
      (takeFault t e s).wrd.arrived = s.wrd.arrived ++ [⟨15, BitVec.ofNat 8 t.idx⟩])

/-- EXCEPTION_ENTRY, INTERRUPT_ENTRY and GLIDE_EXPIRY: an uncorrectable error of a fetch is taken as MC_ECC with ECCU for its
group; the presented source above CPL enters its vector at its level, outside a glide, an uncorrectable error in the vector
shadow being a fault during that entry; an expired glide ends and is counted (R425, R430, R439, R443). The groups that the
errors report are the model's reading (log 45). -/
def Sys2Proof.Claims.EntriesWithoutAWord : Prop :=
  ∀ (t : Tandem) (s s1 s2 : State),
    (Issues t .plain s s1 → exec (.exceptionEntry t .fetch) s = .next (fetchAhead t s1)) ∧
    (∀ (g : Fin 8) (ph : Phys) (rg : Region), Issues t .plain s s1 →
      (translate t .fetch .none (s.cpu t).ring (s.pc t) 1).run s1 = .ok (ph, rg) s2 →
      (g.val = s2.memGroup (ph.lo / 8) → Faults (.exceptionEntry t (.eccFetch g)) t s ⟨9, 0x70, 3, 0, false, s.pc t % 2 ^ 44⟩
        (eccMetIn (s2.hw (s2.countWord (ph.lo / 8) 3 true)) g.val)) ∧
      (g.val ≠ s2.memGroup (ph.lo / 8) → g.val = 4 ∨ g.val = ownGroup t →
        Faults (.exceptionEntry t (.eccFetch g)) t s ⟨9, 0x70, 3, 0, false, s.pc t % 2 ^ 44⟩ (eccMetIn s2 g.val))) ∧
    (∀ k level, (s.cpu t).run = .running → s.clk.crystal = true → (s.cpu t).slot = none → (s.cpu t).wait = .none →
      (s.cpu t).glide = 0 → s.presented t = some (k, level) →
      ((s.cpu t).cpl.toNat < level →
        exec (.interruptEntry t false) s =
          .next (enterVector t (0x20 + k) ⟨0xF, k, 3, 0, false, 0⟩ (some level) (s.event t 0x0D 1)) ∧
        ((s.cpu t).dfActive = false → exec (.interruptEntry t true) s =
          .next (doubleFault t ⟨9, 0x70, 3, 0, false, 0⟩ (0xF, k) (eccMetIn (s.event t 0x0D 1) (ownGroup t))))) ∧
      (level ≤ (s.cpu t).cpl.toNat → ∀ bad, exec (.interruptEntry t bad) s = .next s)) ∧
    ((s.cpu t).run = .running → s.clk.crystal = true → (s.cpu t).glide ≠ 0 → (s.cpu t).slot = none →
      exec (.glideExpiry t) s = .next (s.setCpu t { s.cpu t with
        glide := 0, govCount := min 0xFFFFFFFF ((s.cpu t).govCount + 1), govLast := (s.cpu t).glideVec }))

/-- An entry whose reads are good and whose checks pass writes the saved state into the handler's locker, loads c14 where STK is
1, and continues at HANDLER, with the held first block as the words to execute and the entry's glide under way; no general
register, no other locker and nothing outside the tandem changes but what caches and check bits change (R426, R428, R430, R439).
The address in EADDR, a resumption in the slot of a JALC and the copy of the vector are the model's readings (log 27, 35, 38,
136). A fault outside any entry goes to the vector of its class; a fault met while an entry is under way, an entry whose checks
fail, or one that meets an uncorrectable error in the vector shadow, goes to the double-fault vector at CPL 15 with the original
cause kept and is reported to the warden; a further one stops the tandem and is reported as THIRD, after what words fetched
ahead and now discarded report (R415, R422, R439 to R441, R457). What the tandem keeps when it stops is the model's reading (log
47), as are the reports' details (log 45). EXCEPTION_ENTRY, INTERRUPT_ENTRY and GLIDE_EXPIRY: an uncorrectable error of a fetch
is taken as MC_ECC with ECCU for its group; the presented source above CPL enters its vector at its level, outside a glide, an
uncorrectable error in the vector shadow being a fault during that entry; an expired glide ends and is counted (R425, R430,
R439, R443). The groups that the errors report are the model's reading (log 45). -/
def Obligations.ExceptionsAreTaken : Prop :=
  Claims.ExceptionEntrySavesAndTransfers ∧ Claims.FaultsEscalate ∧ Claims.EntriesWithoutAWord

/-- SYSRD with SYS reads each register that one field holds, with an INT tag where its card states none, and changes nothing
else but the counts of GLIDE overruns and of XSTAT, which it clears; an unassigned number raises the emulation trap with KIND 3
(R302, R303, R304, the cards). The INT tag is the model's reading where a card states no tag (log 41). -/
def Sys2Proof.Claims.SysrdReadsTheRegisters : Prop :=
  ∀ (t : Tandem) (gd : Reg) (n : BitVec 12) (s s1 : State), Issues t .plain s s1 →
    (∀ row ∈ plainReads s1 t, row.1 = n.toNat → sregOn t n.toNat = true → (s.cpu t).sys = true →
      (0x040 ≤ n.toNat ∧ n.toNat ≤ 0x043 → savedGood s1 t (s.cpu t).cur.val) →
      Completes (.sysrd t gd n) t s (s1.wrG t gd row.2)) ∧
    ((s.cpu t).sys = true → let c := s1.cpu t
      Completes (.sysrd t gd 0x04C) t s ((s1.modCpu t fun c => { c with govCount := 0 }).wrG t gd
        (.int (BitVec.ofNat 64 (c.govLast * 2 ^ 32 + c.govCount)))) ∧
      (sregOn t 0x104 = true → Completes (.sysrd t gd 0x104) t s ((s1.modCpu t fun c => { c with xmulti := 0, xrej := 0 }).wrG t gd
        (.int (BitVec.ofNat 64 (c.xmulti * 2 ^ 16 + c.xrej)))))) ∧
    (sregOn t n.toNat = false → Faults (.sysrd t gd n) t s ⟨4, 0x48, 3, 0, false, 0⟩
      (s1.modCpu t fun c => { c with emuword := .int (BitVec.ofNat 64
        ((3 * 4 + (if c.slot.isSome then 1 else 0)) * 2 ^ 32 + 0x27 * 2 ^ 25 + gd.val * 2 ^ 20 + n.toNat)) })) ∧
    (sregOn t n.toNat = true → n ≠ 0x148 → (s.cpu t).sys = false → Faults (.sysrd t gd n) t s ⟨1, 0x1D, 3, 0, false, 0⟩ s1)

/-- SYSWR, with the privilege of the card, writes the named bits of its register alone; the writes of ESTAT, IECTL, VTAB, VRLD
and XCTL are those commands', and tandem G's copy of a table in the Spenik store waits for the ledger's recovery (R302, R630,
the cards). When an entry is copied, and what a bad one leaves, is the model's reading (log 38), as is a PLOCK that names no
locker (log 36). -/
def Sys2Proof.Claims.SyswrWritesTheRegisters : Prop :=
  ∀ (t : Tandem) (gs : Reg) (s s1 : State), let v := (s.g t gs).bits
    (∀ (n : BitVec 12), ∀ row ∈ plainWrites t v, row.1 = n.toNat → Issues t .plain s s1 → sregOn t n.toNat = true →
      (s.g t gs).isData = true → mayWrite s t n.toNat → Completes (.syswr t n gs) t s (row.2 s1)) ∧
    (exec (.syswr t 0x043 gs) s = exec (.estatWrite t gs) s ∧ exec (.syswr t 0x048 gs) s = exec (.iectlWrite t gs) s ∧
      exec (.syswr t 0x049 gs) s = exec (.vtabWrite t gs none []) s ∧ exec (.syswr t 0x04A gs) s = exec (.vrldWrite t gs false) s ∧
      ∀ m : Side, exec (.syswr m.tandem 0x102 gs) s = exec (.xctlWrite m gs) s) ∧
    (Issues t .plain s s1 → (s.g t gs).isData = true → privileged s t →
      (v.toNat % 16 ≠ 15 → Completes (.iectlWrite t gs) t s (s1.modCpu t fun c =>
        { c with cpl := BitVec.ofNat 4 v.toNat, glide := if v.getLsbD 9 then 0 else c.glide })) ∧
      (v.toNat % 16 = 15 → Completes (.iectlWrite t gs) t s s1) ∧
      (v.getLsbD 63 = true ∨ (s.cpu t).lk.lkrsv.bits.getLsbD 0 = false →
        Completes (.estatWrite t gs) t s (s1.modLk t fun l =>
          { l with estat := .int ((v &&& 0xE0000000000F0F00) ||| (l.estat.bits &&& 3)) })) ∧
      (∀ m : Side, t = m.tandem →
        Completes (.xctlWrite m gs) t s (s1.modCpu t fun c => { c with xctl := v &&& 0xFF01, itlb := [], dtlb := [] })) ∧
      (∀ bad, v.toNat % 2 ^ 9 ≤ 0x11F → t ≠ .g ∨ s1.spk.recovered = true → Completes (.vrldWrite t gs bad) t s (s1.copyEntry t (s1.cpu t).vtabBase (v.toNat % 2 ^ 9) bad))) ∧
    (Issues t .long s s1 → (s.g t gs).isData = true → privileged s t → ∀ bad,
      (v.getLsbD 0 = false → v.toNat / 2 % 32 = 0 → tableFits (tableBase v) →
        Completes (.vtabWrite t gs none bad) t s (s1.modCpu t fun c => { c with vtab := v &&& 0xFFFFFFFFC0, shadow := [] })) ∧
      (v.getLsbD 0 = true → v.toNat / 2 % 32 = 0 → tableFits (tableBase v) → t = .g → s1.spk.recovered = false →
        0x40000000 ≤ tableBase v → exec (.vtabWrite t gs none bad) s = .next s) ∧
      (v.getLsbD 0 = true → v.toNat / 2 % 32 = 0 → tableFits (tableBase v) → t ≠ .g ∨ s1.spk.recovered = true →
        Completes (.vtabWrite t gs none bad) t s
          ((copied t (tableBase v) 0x120 bad s1).modCpu t fun c => { c with vtab := v &&& 0xFFFFFFFFC1 }) ∧
        (∀ n, n < 0x120 → exec (.vtabWrite t gs (some n) bad) s = .next (fetchAhead t (copied t (tableBase v) n bad s1)))) ∧
      (v.toNat / 2 % 32 ≠ 0 ∨ ¬ tableFits (tableBase v) → ∀ limit, Completes (.vtabWrite t gs limit bad) t s s1))

/-- SYSRD with SYS reads each register that one field holds, with an INT tag where its card states none, and changes nothing
else but the counts of GLIDE overruns and of XSTAT, which it clears; an unassigned number raises the emulation trap with KIND 3
(R302, R303, R304, the cards). The INT tag is the model's reading where a card states no tag (log 41). SYSWR, with the privilege
of the card, writes the named bits of its register alone; the writes of ESTAT, IECTL, VTAB, VRLD and XCTL are those commands',
and tandem G's copy of a table in the Spenik store waits for the ledger's recovery (R302, R630, the cards). When an entry is
copied, and what a bad one leaves, is the model's reading (log 38), as is a PLOCK that names no locker (log 36). -/
def Obligations.SystemRegistersAreReadAndWritten : Prop :=
  Claims.SysrdReadsTheRegisters ∧ Claims.SyswrWritesTheRegisters

/-- FRSV and FRLD do nothing where no fill is pending and no frame is valid; a pending fill writes the eight words of Table 10-1
at the reserved address through c14, then marks the frame and clears PEND and VALID; FRLD restores c15 and the saved registers
from the frame, reserved bits staying 0 (R11, R472 to R474). Its loads wait inside the word for a store they partly overlap, as
log 21 reads it. -/
def Obligations.FramesAreFilledWhenPending : Prop :=
  ∀ (m : Side) (s s1 : State), Issues m.tandem .plain s s1 → let t := m.tandem
    let l := (s.cpu t).lk
    (l.lkrsv.bits.getLsbD 0 = false → Completes (.frsv m) t s s1) ∧
    (l.lkfrm.bits.getLsbD 0 = false → Completes (.frld m) t s s1) ∧
    (∀ s2, l.lkrsv.bits.getLsbD 0 = true → let pa := l.lkrsv.bits.toNat / 16 % 2 ^ 40 * 16
      FrameFilled t pa s1 s2 → Completes (.frsv m) t s (s2.modLk t fun l => { l with
        lkfrm := .int (BitVec.ofNat 64 (pa + 1)), lkrsv := ⟨l.lkrsv.tag, l.lkrsv.bits &&& ~~~1#64⟩,
        estat := ⟨l.estat.tag, l.estat.bits &&& ~~~(1#64 <<< 63)⟩ })) ∧
    (∀ c a b d e f s2, l.lkfrm.bits.getLsbD 0 = true → FrameRead t (l.lkfrm.bits.toNat / 16 % 2 ^ 40 * 16) s1 c [a, b, d, e, f] s2 →
      Completes (.frld m) t s (s2.modLk t fun l => { l.setC 15 c with
        ecause := ⟨a.tag, a.bits &&& 0x00000FFF3FEFFFFF⟩, eaddr := ⟨b.tag, b.bits &&& 0x00000FFFFFFFFFFF⟩,
        enext := ⟨d.tag, d.bits &&& 0x00000FFFFFFFFFFF⟩, estat := ⟨e.tag, e.bits &&& 0xE0000000000F0F03⟩,
        lkfrm := ⟨f.tag, f.bits &&& 0x00000FFFFFFFFFF1⟩ }))

/-- XSET writes the staged entry at its index and XSETN at the first unlocked entry from XWPTR on, moving XWPTR past it; an
illegal entry, an index above 127 or no unlocked entry is rejected and counted. XREAD stages an entry, XLOOK finds one, XKILL,
XKILLA and XKILLALL clear V; XREAD of an entry with an uncorrectable error is MC_ECC. All need SYS and ring 0 (R515 to R518,
R531, R534). -/
def Sys2Proof.Claims.TlbInstructionsActOnEntries : Prop :=
  ∀ (m : Side) (gd gs : Reg) (s s1 : State), Issues m.tandem .plain s s1 → let t := m.tandem
    let c := s.cpu t
    let v := (s.g t gs).bits.toNat
    let hi := c.tlbhi.bits
    let lo := c.tlblo.bits
    ((s.g t gs).isData = true → privileged s t →
      (c.tlbhi.isData = true → c.tlblo.isData = true →
        (v ≤ 127 → entryLegal hi lo → Completes (.xset m gd gs) t s (tlbWritten t gd v hi lo (fun c => c.xwptr) s1)) ∧
        (127 < v ∨ ¬ entryLegal hi lo → Completes (.xset m gd gs) t s (tlbRejected t gd s1)) ∧
        (∀ k, k < 128 → unlockedAt c ((c.xwptr + k) % 128) → (∀ j, j < k → ¬ unlockedAt c ((c.xwptr + j) % 128)) →
          entryLegal hi lo → Completes (.xsetn m gd) t s
            (tlbWritten t gd ((c.xwptr + k) % 128) hi lo (fun _ => ((c.xwptr + k) % 128 + 1) % 128) s1)) ∧
        ((∀ i, i < 128 → ¬ unlockedAt c i) ∨ ¬ entryLegal hi lo → Completes (.xsetn m gd) t s (tlbRejected t gd s1))) ∧
      (127 < v →
        Completes (.xread m gs) t s (s1.modCpu t fun c => { c with xrej := min 0xFFFF (c.xrej + 1) }) ∧
        Completes (.xkill m gs) t s (s1.modCpu t fun c => { c with xrej := min 0xFFFF (c.xrej + 1) })) ∧
      (v ≤ 127 →
        (1 < s1.wrong (.tlb m v) → ∃ s2, Quiet s1 s2 ∧ Faults (.xread m gs) t s ⟨9, 0x70, 3, 0, false, 0⟩ s2) ∧
        (∀ e, tget none c.tlb v = some e → s1.wrong (.tlb m v) ≤ 1 →
          Completes (.xread m gs) t s (s1.modCpu t fun c => { c with tlbhi := .int e.hi, tlblo := .int e.lo })) ∧
        (tget none c.tlb v = none → s1.wrong (.tlb m v) ≤ 1 →
          Completes (.xread m gs) t s (s1.modCpu t fun c => { c with tlbhi := .unwritten, tlblo := .unwritten })) ∧
        Completes (.xkill m gs) t s
          (s1.modCpu t fun c => { c with tlb := tset none c.tlb v ((tget none c.tlb v).map killed) })) ∧
      (c.tlbhi.isData = true → (∀ i, s1.wrong (.tlb m i) ≤ 1) →
        let found := c.matches (hi.toNat / 2 ^ 56) (hi.toNat / 2 ^ 12 % 2 ^ 32 * 2 ^ 12)
        (found = [] → Completes (.xlook m gd) t s (s1.wrG t gd (.int (BitVec.allOnes 64)))) ∧
        (∀ p, found = [p] → Completes (.xlook m gd) t s (s1.wrG t gd (.int (BitVec.ofNat 64 p.1)))) ∧
        (∀ p q r, found = p :: q :: r → Completes (.xlook m gd) t s (s1.wrG t gd (.int (BitVec.ofNat 64 (p.1 + 256)))))) ∧
      Completes (.xkilla m gs) t s (s1.modCpu t fun c => { c with tlb := c.tlb.map fun q => (q.1, q.2.map fun e =>
        if e.hi.getLsbD 54 = false ∧ e.hi.toNat / 2 ^ 56 = v % 256 then killed e else e) }) ∧
      Completes (.xkillall m) t s (s1.modCpu t fun c => { c with tlb := c.tlb.map fun q => (q.1, q.2.map killed) })) ∧
    ((s.g t gs).isData = true → ¬ privileged s t →
      ∀ i ∈ [Instr.xset m gd gs, .xsetn m gd, .xread m gs, .xlook m gd, .xkill m gs, .xkilla m gs, .xkillall m],
        Faults i t s ⟨1, 0x1D, 3, 0, false, 0⟩ s1)

/-- Translation of an access within one page: tandem G's and a bypassed address is the physical one, a bypassed one at 2^40 or
above raises XL_RANGE; in the mapped state the one entry of the micro-TLB that covers the address makes the checks of rows 2 to
5 of Table 11-3 in order and gives its physical address, as does the one unified entry where no micro entry does, which an
access and a fetch for execution copy, TLB_MISS and MC_TLBMULTI being the other outcomes; then rows 6 to 10 follow; tandem G's
access to the Spenik store waits for the ledger's recovery (R509 to R513, R520, R522, R525, R527, R630). The order of the
micro-TLB's entries is the model's (log 46), and so is what tandem G finds at 2^40 and above (log 128). XSET writes the staged
entry at its index and XSETN at the first unlocked entry from XWPTR on, moving XWPTR past it; an illegal entry, an index above
127 or no unlocked entry is rejected and counted. XREAD stages an entry, XLOOK finds one, XKILL, XKILLA and XKILLALL clear V;
XREAD of an entry with an uncorrectable error is MC_ECC. All need SYS and ring 0 (R515 to R518, R531, R534). -/
def Obligations.TlbInstructionsFollowTheirRules : Prop :=
  Claims.TranslationFollowsTheTable ∧ Claims.TlbInstructionsActOnEntries

/-- YIELD, WAIT, WAKE, CTXINIT and CTXKILL have their effects, and one without effect is counted in BADOP (R480, R481, R491 to
R493, R499; ties log 42, the order marks log 43). -/
def Obligations.SchedulerInstructionsMoveContexts : Prop :=
  ∀ (m : Side) (g : Reg) (cs ca : CReg) (s s1 : State), let t := m.tandem
    let h := s.sch m
    let v := (s.g t g).bits.toNat
    let k : Fin 64 := ⟨v % 64, Nat.mod_lt _ (by decide)⟩
    let x := h.getCtx k.val
    (Issues t .long s s1 →
      ((∀ j, ¬ actsAs s m j) → Completes (.yield m) t s (badop m s1) ∧ Completes (.wait m) t s (badop m s1)) ∧
      (∀ j, actsAs s m j →
        ((∃ r ∈ h.queue, (h.getCtx j.val).pri ≤ (h.getCtx r.val).pri) →
          Completes (.yield m) t s (s1.modSch m fun h => { h with yielded := true })) ∧
        ((∀ r ∈ h.queue, (h.getCtx r.val).pri < (h.getCtx j.val).pri) → Completes (.yield m) t s s1) ∧
        ((h.getCtx j.val).pend = true →
          Completes (.wait m) t s (s1.modSch m fun h => h.setCtx j.val { h.getCtx j.val with pend := false })) ∧
        ((h.getCtx j.val).pend = false → exec (.wait m) s = .next (fetchAhead t
          ((s1.modSch m fun h => h.setCtx j.val { h.getCtx j.val with
            st := if (h.getCtx j.val).st = .faulted then .faulted else .blocked }).modCpu t fun c => { c with wait := .parked }))))) ∧
    (Issues t .plain s s1 → (s.g t g).isData = true →
      ((s.cpu t).sys = true →
        (h.en = false → Completes (.wake m g) t s (badop m s1)) ∧
        (h.en = true → x.st = .blocked →
          Completes (.wake m g) t s (s1.modSch m fun h => { h.setCtx k.val { x with st := .ready } with queue := h.queue ++ [k] })) ∧
        (h.en = true → x.st = .ready ∨ x.st = .running →
          Completes (.wake m g) t s (s1.modSch m fun h => h.setCtx k.val
            (if x.pend then { x with merge := min 0xFF (x.merge + 1) } else { x with pend := true }))) ∧
        (h.en = true → x.st = .free ∨ x.st = .faulted →
          Completes (.wake m g) t s (s1.modSch m fun h => { h with wfree := min 0xFF (h.wfree + 1) }))) ∧
      (privileged s t →
        ((s.c t cs).st = .valid → (s.c t cs).sealed = false → (s.c t cs).has pEX = true →
          (x.st = .free → Completes (.ctxinit m g cs ca) t s (s1.modSch m fun h => h.setCtx k.val { x with
            st := .blocked, pend := false, res := none,
            slot := { Locker.blank with pcc := s.c t cs, c := tset .unwritten [] 14 (s.c t ca), fcsr := .int 0, qstat := .int 0 } })) ∧
          (x.st ≠ .free → Completes (.ctxinit m g cs ca) t s (badop m s1))) ∧
        (h.running = some k → Completes (.ctxkill m g) t s (badop m s1)) ∧
        (h.running ≠ some k → ∃ h' : Sch, Completes (.ctxkill m g) t s (s1.setSch m h') ∧
          { h' with ctx := h.ctx, lk := h.lk, queue := h.queue } = h ∧ h'.queue = h.queue.filter (fun j => decide (j ≠ k)) ∧
          h'.getCtx k.val = { x with
            st := .free, pend := false, merge := 0, pin := false, res := none,
            slot := { x.slot with f := [], fcsr := .unwritten } } ∧
          (∀ j, j ≠ k.val → h'.getCtx j = h.getCtx j) ∧
          (∀ n : Fin 8, h'.getLk n.val = if h.lkmask.getLsbD n.val then forget k (h.getLk n.val) else h.getLk n.val))) ∧
      (¬ privileged s t → Faults (.ctxkill m g) t s ⟨1, 0x1D, 3, 0, false, 0⟩ s1))

/-- A scheduler's own tandem enables it in the locker it is in, with the boot context running there, and a write that would
enable it against the conditions takes no effect; an expired slice makes a switch due where a READY context of equal or higher
PRI waits; and a due switch to a resident context makes it current in its locker, with the outgoing context READY first of all,
or last after a YIELD (R478, R482 to R486; ties log 42, the order marks that stand for least recently run log 43). -/
def Obligations.SchedulerEnablesAndSwitches : Prop :=
  ∀ (m : Side) (s : State), let t := m.tandem
    let h := s.sch m
    let c := s.cpu t
    (∀ who val, who ≠ t → exec (.schedulerEnable who m val) s = .next s) ∧
    (∀ val : BitVec 32, reaches s t (match m with | .a => blkSCHA | .b => blkSCHB) → h.en = true →
      exec (.schedulerEnable t m val) s = .next (s.setSch m { h with slice := BitVec.ofNat 8 val.toNat })) ∧
    (∀ (val : BitVec 32) (boot : Fin 64), reaches s t (match m with | .a => blkSCHA | .b => blkSCHB) → h.en = false →
      boot.val = val.toNat / 2 ^ 8 % 64 →
      let mask := BitVec.ofNat 8 (val.toNat / 2 ^ 16)
      (val.getLsbD 31 = true → mask.getLsbD c.cur.val = true → c.cpl = 0 → (h.getCtx boot.val).st = .free →
        ∃ h' : Sch, exec (.schedulerEnable t m val) s = .next (s.setSch m h') ∧ h'.en = true ∧ h'.running = some boot ∧
          h'.runlk = c.cur ∧ h'.lkmask = mask ∧ h'.slice = BitVec.ofNat 8 val.toNat ∧
          (h'.getCtx boot.val).st = .running ∧ (h'.getCtx boot.val).res = some c.cur ∧
          (h'.getLk c.cur.val).occ = some boot ∧ (h'.getLk c.cur.val).fpown = some boot ∧
          (∀ n : Fin 8, n ≠ c.cur → mask.getLsbD n.val = true → h'.getLk n.val = LkInfo.reset)) ∧
      (val.getLsbD 31 = true → mask.getLsbD c.cur.val = false ∨ c.cpl ≠ 0 ∨ (h.getCtx boot.val).st ≠ .free →
        exec (.schedulerEnable t m val) s = .next s) ∧
      (val.getLsbD 31 = false → exec (.schedulerEnable t m val) s = .next (s.setSch m { h with
          lkmask := mask, boot := BitVec.ofNat 6 (val.toNat / 2 ^ 8), slice := BitVec.ofNat 8 val.toNat }))) ∧
    (∀ r, h.running = some r → h.en = true → h.slice ≠ 0 → (h.getCtx r.val).st = .running → c.run = .running → s.clk.crystal = true →
      c.cpl = 0 → c.cur = h.runlk → ((∃ k ∈ h.queue, (h.getCtx r.val).pri ≤ (h.getCtx k.val).pri) →
        exec (.sliceExpiry m) s = .next (s.modSch m fun h => { h with yielded := true })) ∧
      ((∀ k ∈ h.queue, (h.getCtx k.val).pri < (h.getCtx r.val).pri) → exec (.sliceExpiry m) s = .next s)) ∧
    (∀ out inc n bank, h.running = some out → h.best = some inc → out ≠ inc → h.en = true → c.run = .running → s.clk.crystal = true →
      c.slot = none →
      c.wait = .none → c.cpl = 0 → c.glide = 0 → c.cur = h.runlk → (h.getCtx out.val).st = .running →
      (h.getCtx inc.val).res = some n →
      ((h.getCtx out.val).pri < (h.getCtx inc.val).pri ∨
        (h.yielded = true ∧ (h.getCtx out.val).pri = (h.getCtx inc.val).pri)) →
      ∃ s', exec (.schedulerSwitch m bank) s = .next s' ∧ (s'.cpu t).cur = n ∧ (s'.cpu t).resv = none ∧
        (∀ i, (s'.cpu t).locker i = c.locker i) ∧ Quiet s ((s'.setCpu t (c.hw (s'.cpu t))).setSch m h) ∧
        let h' := s'.sch m
        h'.running = some inc ∧ h'.runlk = n ∧ h'.yielded = false ∧ h'.resCnt = min 0xFFFFFFFF (h.resCnt + 1) ∧
        h'.nonres = h.nonres ∧ (h'.getCtx inc.val).st = .running ∧ (h'.getCtx inc.val).runs = (h.getCtx inc.val).runs + 1 ∧
        (h'.getCtx out.val).st = .ready ∧ (h'.getLk n.val).occ = some inc ∧
        h'.queue = (let q := h.queue.filter (fun k => decide (k ≠ inc)); if h.yielded then q ++ [out] else out :: q))

/-- Doorbells and software sources are set and cleared by writes of 1, a doorbell recording who set it; a route is written
unless it names tandem G and a main tandem writes it, which is counted; violation counters clear only under their key; the
router sees a source as its condition stands and wakes a bound context once while it is pending, both only while the crystal
runs (R205, R899 to R906; the conditions themselves log 112, the counts of a resume in place log 138, a command that its state
rules out log 3). -/
def Obligations.RouterAndDoorbellCommands : Prop :=
  ∀ (who : Tandem) (v : BitVec 32) (k : Fin 256) (m : Side) (s : State),
    (reaches s who blkIRT →
      (∃ r : BitVec 32, exec (.irtDbWrite who v) s = .next { s with irt := { s.irt with db := s.irt.db ||| v.setWidth 16, dbring := r } } ∧
        ∀ j, j < 16 → r.toNat / 2 ^ (2 * j) % 4 = if v.getLsbD j then who.idx else s.irt.dbring.toNat / 2 ^ (2 * j) % 4) ∧
      exec (.irtDbclrWrite who v) s = .next { s with irt := { s.irt with db := s.irt.db &&& ~~~(v.setWidth 16) } } ∧
      exec (.irtSwWrite who v) s = .next { s with irt := { s.irt with sw := s.irt.sw ||| v.setWidth 16 } } ∧
      exec (.irtSwclrWrite who v) s = .next { s with irt := { s.irt with sw := s.irt.sw &&& ~~~(v.setWidth 16) } } ∧
      (who ≠ .g → routeNames (s.routeOf k.val) .g = true ∨ routeNames v .g = true ∨ (208 ≤ k.val ∧ k.val < 216) →
        exec (.irtRouteWrite who k v) s = .next (denied s)) ∧
      (who = .g ∨ (routeNames (s.routeOf k.val) .g = false ∧ routeNames v .g = false ∧ ¬ (208 ≤ k.val ∧ k.val < 216)) →
        ∃ s', exec (.irtRouteWrite who k v) s = .next s' ∧
          unlatched s (fun i => { i with route := tset 0 i.route k.val (v &&& 0x8007000F) }) s') ∧
      (v.toNat / 2 ^ 16 ≠ 0x5C1A → exec (.irtVcclrWrite who v) s = .next (denied s)) ∧
      (v.toNat / 2 ^ 16 = 0x5C1A → exec (.irtVcclrWrite who v) s = .next { s with irt := { s.irt with
        vc := if v.getLsbD 8 then [] else tset 0 s.irt.vc (v.toNat % 64) 0 } })) ∧
    (s.clk.crystal = false → exec (.sourcePending k) s = .next s ∧ exec (.sourceWake m k) s = .next s) ∧
    (s.clk.crystal = true → ¬ (208 ≤ k.val ∧ k.val < 216) → ∃ s', exec (.sourcePending k) s = .next s' ∧
      unlatched s (fun i => { i with seen := tset false i.seen k.val (s.srcCond k.val) }) s') ∧
    (s.clk.crystal = true → 208 ≤ k.val ∧ k.val < 216 → ∃ s', exec (.sourcePending k) s = .next s' ∧
      unlatched { s with free := s'.free } (fun i => { i with seen := tset false i.seen k.val ((Config.free s.free).getLsbD 0) }) s') ∧
    (s.boundTo m.tandem k.val = none ∨ s.isPending m.tandem k.val = false ∨ tget false (s.irt.woken m) k.val = true →
      exec (.sourceWake m k) s = .next s) ∧
    (∀ c, s.clk.crystal = true → s.boundTo m.tandem k.val = some c → s.isPending m.tandem k.val = true → tget false (s.irt.woken m) k.val = false →
      exec (.sourceWake m k) s =
        .next (({ s with irt := s.irt.setWoken m (tset false (s.irt.woken m) k.val true) } : State).wake m c))

/-- The channel registers of an ungated group take their writes, a held group ignores them; a read of CNT also copies the count
of a cascaded next channel; GSTART, GSTOP and SNAP act on the channels they name in one cycle; a COUNT_EVENT takes one down
event in each channel whose prescaler steps or whose PINA shows an edge that CTL.EDGE selects, with a LOAD, RELOAD or CMP write
of that cycle as Table 15-6 has it; edges of an input pin capture the count or the pulse's width (R687 to R700, R714, R717,
R718; what a write and an event of one cycle leave in CMPLATE, and the other readings, log 93). -/
def Obligations.CounterChannelsCountAndCapture : Prop :=
  ∀ (who : Tandem) (n : Fin 32) (v : BitVec 32) (s : State),
    let c := s.chan n.val
    (reaches s who blkCTA →
      (s.chanHeld n.val = true →
        ∀ i ∈ [Instr.chnCtlWrite who n v, .chnLoad who n v, .chnReload who n v, .chnCmp who n v], exec i s = .next s) ∧
      (s.chanHeld n.val = false →
        (ctlIgnored n.val v.toNat → exec (.chnCtlWrite who n v) s = .next s) ∧
        (¬ ctlIgnored n.val v.toNat → exec (.chnCtlWrite who n v) s = .next (field s n fun c => { c with ctl := v })) ∧
        exec (.chnLoad who n v) s = .next (field s n fun c => { c with cnt := v }) ∧
        exec (.chnReload who n v) s = .next (field s n fun c => { c with reload := v }) ∧
        exec (.chnCmp who n v) s = .next (field s n fun c =>
          { c with cmp := v, cmplate := c.cmplate || (decide (c.mode ≠ 2 ∧ c.mode ≠ 3) && decide (c.cnt.toNat ≤ v.toNat)) })) ∧
      (∃ s', exec (.chnCntRead who n) s = .next s' ∧ s'.rdata = c.cnt.setWidth 64 ∧
        chansBecome { s with rdata := s'.rdata } s' (fun j => decide (j = n.val + 1 ∧ (s.chan j).mode = 2)) (fun c => { c with hold := c.cnt })) ∧
      (∃ s', exec (.ctaGstart who v) s = .next s' ∧ chansBecome s s' (fun j => v.getLsbD j && !s.chanHeld j)
        (fun c => { c with ctl := BitVec.ofNat 32 (c.ctl.toNat % 2 ^ 31 + 2 ^ 31) })) ∧
      (∃ s', exec (.ctaGstop who v) s = .next s' ∧ chansBecome s s' (fun j => v.getLsbD j && !s.chanHeld j)
        (fun c => { c with ctl := BitVec.ofNat 32 (c.ctl.toNat % 2 ^ 31) })) ∧
      (∃ s', exec (.ctaSnap who v) s = .next s' ∧ chansBecome s s' (fun j => v.getLsbD j && !s.chanHeld j)
        (fun c => { c with hold := c.cnt }))) ∧
    (∀ up down, s.wrd.mode = .runOut → exec (.countEvent ⟨up, down, none⟩) s = .next s) ∧
    (∀ up down, let k : CountCycle := ⟨up, down, none⟩
      s.wrd.mode ≠ .runOut → (∀ j, j < 32 → alone (s.chan j)) →
        (∃ s', exec (.countEvent k) s = .next s' ∧ chansBecome s s' (downIn s k) countedDown) ∧
        (reaches s who blkCTA → s.chanHeld n.val = false →
          let counted (c : Chan) : Chan := if downIn s k n.val then countedDown c else c
          let others (s' : State) (c' : Chan) : Prop :=
            { s' with cta := s.cta } = s ∧ s'.chan n.val = c' ∧
              ∀ j, j < 32 → j ≠ n.val → s'.chan j = if downIn s k j then countedDown (s.chan j) else s.chan j
          (∃ s', exec (.countEvent ⟨up, down, some ⟨who, n, .load, v⟩⟩) s = .next s' ∧ others s' { c with cnt := v }) ∧
          (∃ s', exec (.countEvent ⟨up, down, some ⟨who, n, .reload, v⟩⟩) s = .next s' ∧ others s' (counted { c with reload := v })) ∧
          (∃ s', exec (.countEvent ⟨up, down, some ⟨who, n, .cmp, v⟩⟩) s = .next s' ∧
            let d := counted { c with cmp := v }
            others s' { d with cmplate := d.cmplate || (decide (c.mode ≠ 3) && decide (d.cnt.toNat ≤ v.toNat)) }))) ∧
    (∀ a b, (c.mode ≠ 3 ∨ s.chanHeld n.val = true → exec (.quadratureStep n a b) s = .next s) ∧
      (c.mode = 3 → s.chanHeld n.val = false → (a = true → inputPin s (pinA c) = true) → (b = true → inputPin s (pinB c) = true) →
        (a ≠ c.a → b ≠ c.b → exec (.quadratureStep n a b) s = .next (field s n fun c => { c with a := a, b := b, qerr := min 0xFF (c.qerr + 1) })) ∧
        (a = c.a → b = c.b → exec (.quadratureStep n a b) s = .next (field s n fun c => { c with a := a, b := b })) ∧
        ((a ≠ c.a ∧ b = c.b) ∨ (a = c.a ∧ b ≠ c.b) → exec (.quadratureStep n a b) s =
          .next ((field s n fun c => { c with a := a, b := b }).chanCycle fun j =>
            if j = n.val then some (decide (a ≠ c.a ∧ a ≠ b)) else none))) ∧
      exec (.quadratureStep n a b) s =
        exec (.quadratureStep n (a && inputPin s (pinA c)) (b && inputPin s (pinB c))) s) ∧
    (∀ rising, let want := if rising then c.capedge = 1 ∨ c.capedge = 3 else c.capedge = 2 ∨ c.capedge = 3
      (n.val < 16 → s.chanHeld n.val = false → inputPin s (capPin c) = true → want → exec (.captureEdge n rising) s = .next (field s n fun c => captured c c.cnt false)) ∧
      (16 ≤ n.val ∨ s.chanHeld n.val = true ∨ inputPin s (capPin c) = false ∨ ¬ want → exec (.captureEdge n rising) s = .next s)) ∧
    (∀ rising, let opening := c.capedge = (if rising then 1 else 2)
      let put (c : Chan) : Chan := if rising then { c with rise := c.cnt } else { c with fall := c.cnt }
      (n.val < 16 ∨ s.chanHeld n.val = true ∨ inputPin s (capPin c) = false ∨ (c.capedge ≠ 1 ∧ c.capedge ≠ 2) → exec (.pulseCaptureEdge n rising) s = .next s) ∧
      (16 ≤ n.val → s.chanHeld n.val = false → inputPin s (capPin c) = true → c.capedge = 1 ∨ c.capedge = 2 →
        (opening → exec (.pulseCaptureEdge n rising) s = .next (field s n fun c => { put c with opened := true, unfs := 0 })) ∧
        (¬ opening → c.opened = true → exec (.pulseCaptureEdge n rising) s = .next (field s n fun c =>
          { captured (put c) (BitVec.ofInt 32 (((if rising then c.fall.toNat else c.rise.toNat : Nat) - (c.cnt.toNat : Int)) % (c.reload.toNat + 1)))
              (decide (2 ≤ c.unfs)) with opened := false }))))

/-- A bank's outputs are written, set and cleared; PIO_BCFG switches each bank on where its supply senses the wanted voltage; a
change of supply switches a bank off with its VMIS; a pin's level is seen in enabled banks and followed unless it is debounced;
a key that KDEB scans in a row find changed enters the key FIFO, or LOST where that is full, and two wet tests change a wet
state; the FIFO delivers its oldest entry; a PWM value with PERIOD below 2 is ignored (R702 to R711, R720, R723, R934; the
readings of logs 94 and 95). -/
def Obligations.PanelPinsBanksAndKeys : Prop :=
  ∀ (who : Tandem) (k : Fin 16) (v : BitVec 32) (w : W64) (j : Fin 64) (n : Fin 512) (s : State),
    (reaches s who blkPIO →
      exec (.pioOutWrite who k v) s = .next (pio s (outWord k fun _ => v)) ∧
      exec (.pioSet who k v) s = .next (pio s (outWord k fun x => x ||| v)) ∧
      exec (.pioClr who k v) s = .next (pio s (outWord k fun x => x &&& ~~~v)) ∧
      (∃ p : Pio, exec (.pioBcfgWrite who v) s = .next { s with pio := p } ∧ ∀ b, b < 16 →
        let want := v.getLsbD (16 + b)
        let fits := v.getLsbD b == s.pio.sense33.getLsbD b && !s.pio.bare.getLsbD b
        p.vsel.getLsbD b = v.getLsbD b ∧ p.en.getLsbD b = (want && fits) ∧ p.sense33 = s.pio.sense33 ∧ p.bare = s.pio.bare ∧
        p.vmis.getLsbD b = (s.pio.vmis.getLsbD b || (want && !fits)) ∧
        tget 0 p.inn b = (if want && fits then tget 0 s.pio.inn b else 0) ∧
        tget 0 p.deb b = (if want && fits then tget 0 s.pio.deb b else 0)) ∧
      exec (.pioScfgWrite who w) s = .next (pio s fun p =>
        if w.getLsbD 63 && p.scfgBad w.toNat then { p with scfg := w &&& 0x7FFFFFFFFFFFFFFF, badcfg := true } else { p with scfg := w }) ∧
      (s.pio.fifo = [] → exec (.pioSfifoRead who) s = .next { s with rdata := 0 }) ∧
      (∀ e r, s.pio.fifo = e :: r →
        exec (.pioSfifoRead who) s = .next { pio s (fun p => { p with fifo := r }) with rdata := e.setWidth 64 }) ∧
      (w.toNat % 2 ^ 16 < 2 → exec (.pwmWrite who j w) s = .next s) ∧
      (2 ≤ w.toNat % 2 ^ 16 → let old := tget 0 s.pio.pwm j.val
        let new := w &&& 0x8000000FFFFFFFFF
        exec (.pwmWrite who j w) s = .next (pio s fun p => { p with
          pwm := tset 0 p.pwm j.val new,
          pwmEff := if old.toNat % 2 ^ 16 = w.toNat % 2 ^ 16 ∧ old.getLsbD 63 = w.getLsbD 63 then p.pwmEff
            else tset 0 p.pwmEff j.val new }))) ∧
    (∀ level, let b := n.val / 32
      (s.pio.en.getLsbD b = false ∨ s.clk.crystal = false →
        exec (.pioInEdge n level) s = .next s ∧ exec (.debounceChange n) s = .next s) ∧
      (s.pio.en.getLsbD b = true → s.clk.crystal = true →
        (∃ p : Pio, exec (.pioInEdge n level) s = .next { s with pio := p } ∧ pinSet s.pio.inn p.inn n.val level ∧
          pinSet s.pio.deb p.deb n.val (if s.pio.func n.val = 1 then bankBit s.pio.deb n.val else level) ∧
          (∀ m, m < 512 → bankBit p.evt m = (bankBit s.pio.evt m || decide (m = n.val ∧ s.pio.func n.val ≠ 1 ∧
            bankBit s.pio.deb n.val ≠ level ∧ (s.pio.cfgOf n.val).getLsbD (if level then 9 else 10) = true)))) ∧
        (s.pio.func n.val = 1 → ∃ p : Pio, exec (.debounceChange n) s = .next { s with pio := p } ∧ p.inn = s.pio.inn ∧
          pinSet s.pio.deb p.deb n.val (bankBit s.pio.inn n.val)) ∧
        (s.pio.func n.val ≠ 1 → exec (.debounceChange n) s = .next s))) ∧
    (∀ sense : BankSense, ∃ p : Pio, exec (.bankSupplyMismatch k sense) s = .next { s with pio := p, free := s.free + 1 } ∧
      p.en.getLsbD k.val = false ∧ p.bare.getLsbD k.val = decide (sense = .none) ∧
      (sense = .v33 → p.sense33.getLsbD k.val = true) ∧ (sense = .v18 → p.sense33.getLsbD k.val = false) ∧ p.vmis.getLsbD k.val = (s.pio.vmis.getLsbD k.val || s.pio.en.getLsbD k.val) ∧
      (s.pio.en.getLsbD k.val = true → tget 0 p.inn k.val = 0 ∧ tget 0 p.deb k.val = 0) ∧
      (∀ b, b < 16 → b ≠ k.val → p.en.getLsbD b = s.pio.en.getLsbD b ∧ p.vmis.getLsbD b = s.pio.vmis.getLsbD b ∧
        p.sense33.getLsbD b = s.pio.sense33.getLsbD b ∧ p.bare.getLsbD b = s.pio.bare.getLsbD b ∧ tget 0 p.inn b = tget 0 s.pio.inn b)) ∧
    (∀ sensed, s.scans = false → exec (.keyScan sensed) s = .next s ∧ exec (.wetFilmTest sensed) s = .next s) ∧
    (∀ sensed, s.scans = true →
      (∃ p : Pio, exec (.keyScan sensed) s = .next { s with pio := p } ∧ p.scans = s.pio.scans + 1 ∧ p.scfg = s.pio.scfg ∧ p.wet = s.pio.wet ∧
        (∀ r c, r < 32 → c < 32 →
          keyBit p.keys r c = (if keyTurns s.pio sensed r c then sense sensed r c else keyBit s.pio.keys r c) ∧
          tget 0 p.keyRun (32 * r + c) =
            if scanned s.pio r c = false then tget 0 s.pio.keyRun (32 * r + c)
            else if sense sensed r c = keyBit s.pio.keys r c ∨ keyTurns s.pio sensed r c = true then 0
            else tget 0 s.pio.keyRun (32 * r + c) + 1) ∧
        (s.pio.fifo.length ≤ 64 → let es := keyEntries s.pio (s.us / 1000) sensed
          let excess := s.pio.fifo.length + es.length - 64
          p.fifo = (s.pio.fifo ++ es).take 64 ∧ p.lost = if excess = 0 then s.pio.lost else min 0xFF (s.pio.lost + excess))) ∧
      ((w.toNat % 2 ^ 8 = 0 → s.pio.scfg = w → exec (.wetFilmTest sensed) s = .next s) ∧
        (s.pio.scfg = w → w.toNat % 2 ^ 8 ≠ 0 → w.toNat % 2 ^ 8 ≤ s.pio.scans →
          ∃ p : Pio, exec (.wetFilmTest sensed) s = .next { s with pio := p } ∧ p.scans = 0 ∧ p.keys = s.pio.keys ∧ p.fifo = s.pio.fifo ∧
            p.lost = s.pio.lost ∧
            (∀ r c, r < 32 → c < 32 →
              keyBit p.wet r c = (if wetTurns s.pio sensed r c then sense sensed r c else keyBit s.pio.wet r c) ∧
              tget 0 p.wetRun (32 * r + c) =
                if scanned s.pio r c = false then tget 0 s.pio.wetRun (32 * r + c)
                else if sense sensed r c = keyBit s.pio.wet r c ∨ wetTurns s.pio sensed r c = true then 0 else 1) ∧
            p.wetcnt = if wetted s.pio sensed = 0 then s.pio.wetcnt else min 0xFFFF (s.pio.wetcnt + wetted s.pio sensed)))) ∧
    exec (.pwmPeriodEnd j) s = .next (pio s fun p =>
      if s.clk.crystal = true ∧ (tget 0 p.pwmEff j.val).getLsbD 63 = true then { p with pwmEff := tset 0 p.pwmEff j.val (tget 0 p.pwm j.val) } else p)

/-- A write of an ordinary register stores the value in its RW fields, clears where 1 is written to W1C fields and sets where it
is written to W1S ones; a read delivers the register's value, and its RC fields are 0 afterwards: the cards of the WRD, CLK,
SCH, SPK, DRC, XSP, USB, CAN, NFC and IRT blocks (R9, R12, R13, Table 0-3; what a read delivers is a field of the model's own,
log 7, and a write of a 32-bit register takes bits [31:0], log 15). -/
def Sys2Proof.Claims.RegistersFollowTheirAccessCodes : Prop :=
  ∀ (who : Tandem) (w : W64) (s : State),
    let write (b : Fin 17) (off : BitVec 16) (t : State) : Prop := reaches s who b → exec (.registerWrite who b off w) s = .next t
    let read (b : Fin 17) (off : BitVec 16) (v : Nat) (t : State) : Prop :=
      reaches s who b → exec (.registerReadClear who b off) s = .next { t with rdata := w64 v }
    let lo32 : BitVec 32 := w.setWidth 32
    -- RW
    write blkXSP 0x20 (xsp s fun x => { x with addr := lo32 }) ∧ read blkXSP 0x20 s.xsp.addr.toNat s ∧
    write blkUSB 0x1C { s with usb := { s.usb with ie := w.setWidth 10 } } ∧ read blkUSB 0x1C s.usb.ie.toNat s ∧
    write blkSPK 0x60 (spk s fun k => { k with sel := w.setWidth 8 }) ∧
    (s.gate.released = true → write blkNFC 0x34 { s with nfc := { s.nfc with ie := w.setWidth 3 } }) ∧ read blkNFC 0x34 s.nfc.ie.toNat s ∧
    (∀ c : Side, let b := match c with | .a => blkCANA | .b => blkCANB
      (who ≠ .g → write b 0x44 (s.setCan c { s.can c with ie := w.setWidth 7 }) ∧
        write b 0x48 (s.setCan c { s.can c with mbie := lo32 })) ∧
      (who = .g → write b 0x44 s ∧ write b 0x48 s) ∧
      read b 0x44 (s.can c).ie.toNat s ∧ read b 0x48 (s.can c).mbie.toNat s) ∧
    -- W1C
    write blkWRD 0x18 { s with wrd := { s.wrd with det := s.wrd.det &&& ~~~(w.setWidth 18) } } ∧ read blkWRD 0x18 s.wrd.det.toNat s ∧
    write blkWRD 0x20 (if w.getLsbD 63 then { s with wrd := { s.wrd with frec := 0 } } else s) ∧
    write blkIRT 0x8 { s with irt := { s.irt with
      wevtEstop := s.irt.wevtEstop && !w.getLsbD 2, wevtSafe := s.irt.wevtSafe && !w.getLsbD 1,
      wevtMode := s.irt.wevtMode && !w.getLsbD 0 } } ∧
    write blkIRT 0xC { s with irt := { s.irt with
      gevtScrub := s.irt.gevtScrub && !w.getLsbD 3, gevtLife := s.irt.gevtLife && !w.getLsbD 2,
      gevtRetire := s.irt.gevtRetire && !w.getLsbD 1, gevtEval := s.irt.gevtEval && !w.getLsbD 0 } } ∧
    write blkXSP 0x8 (xsp s fun x => { x with
      timeout := x.timeout && !w.getLsbD 4, refused := x.refused && !w.getLsbD 3, done := x.done && !w.getLsbD 2 }) ∧
    write blkGRM 0x18 (grm s fun g => { g with spkLate := g.spkLate && !w.getLsbD 1, sramLate := g.sramLate && !w.getLsbD 0 }) ∧
    write blkDRC 0x20 { s with drc := { s.drc with late := s.drc.late && !w.getLsbD 0 } } ∧
    write blkUSB 0x18 { s with usb := { s.usb with evt := s.usb.evt &&& ~~~(w.setWidth 10) } } ∧ read blkUSB 0x18 s.usb.evt.toNat s ∧
    (s.gate.released = true → write blkNFC 0x30 { s with nfc := { s.nfc with evt := s.nfc.evt &&& ~~~(w.setWidth 3) } }) ∧
    (∀ c : Side, who ≠ .g → write (match c with | .a => blkCANA | .b => blkCANB) 0x40
      (s.setCan c { s.can c with evt := (s.can c).evt &&& ~~~(w.setWidth 7) })) ∧
    -- W1S and its W1C partner
    write blkIRT 0x30 { s with irt := { s.irt with sw := s.irt.sw ||| w.setWidth 16 } } ∧
    write blkIRT 0x34 { s with irt := { s.irt with sw := s.irt.sw &&& ~~~(w.setWidth 16) } } ∧ read blkIRT 0x30 s.irt.sw.toNat s ∧
    -- RC
    read blkWRD 0x28 (s.wrd.gloss * 2 ^ 16 + s.wrd.faults) { s with wrd := { s.wrd with faults := 0 } } ∧
    (∃ v, v / 2 ^ 16 = s.clk.badkey ∧ read blkCLK 0x8 v { s with clk := { s.clk with badkey := 0 } }) ∧
    (∀ m : Side, let b := match m with | .a => blkSCHA | .b => blkSCHB
      read b 0x18 ((s.sch m).nonres * 2 ^ 32 + (s.sch m).resCnt) (s.modSch m fun h => { h with nonres := 0, resCnt := 0 }) ∧
      read b 0x20 ((s.sch m).bankecc * 2 ^ 24 + (s.sch m).pinref * 2 ^ 16 + (s.sch m).wfree * 2 ^ 8 + (s.sch m).badop)
        (s.modSch m fun h => { h with bankecc := 0, pinref := 0, wfree := 0, badop := 0 })) ∧
    read blkSPK 0x48 s.spk.waitUs (spk s fun k => { k with waitUs := 0 }) ∧
    read blkSPK 0x50 (s.spk.c1 * 2 ^ 56 + s.spk.c2 * 2 ^ 48 + s.spk.unc * 2 ^ 40 + s.spk.eccLast.toNat)
      (spk s fun k => { k with c1 := 0, c2 := 0, unc := 0 }) ∧
    read blkDRC 0x10 (s.drc.a.corr * 2 ^ 56 + s.drc.a.unc * 2 ^ 48 + s.drc.a.last.toNat)
      { s with drc := { s.drc with a := { s.drc.a with corr := 0, unc := 0 } } } ∧
    read blkDRC 0x18 (s.drc.b.corr * 2 ^ 56 + s.drc.b.unc * 2 ^ 48 + s.drc.b.last.toNat)
      { s with drc := { s.drc with b := { s.drc.b with corr := 0, unc := 0 } } } ∧
    read blkUSB 0x28 (s.usb.line * 2 ^ 16 + s.usb.noack) { s with usb := { s.usb with line := 0, noack := 0 } } ∧
    read blkNFC 0x38 (s.nfc.line * 2 ^ 16 + s.nfc.served.toNat) { s with nfc := { s.nfc with line := 0 } } ∧
    (∀ c : Side, let k := s.can c
      let b := match c with | .a => blkCANA | .b => blkCANB
      read b 0x20 (k.eBit * 2 ^ 56 + k.eStuff * 2 ^ 48 + k.eForm * 2 ^ 40 + k.eCrc * 2 ^ 32 + k.eAck * 2 ^ 24 + k.boff * 2 ^ 16 + k.lonely)
        (s.setCan c { k with eBit := 0, eStuff := 0, eForm := 0, eCrc := 0, eAck := 0, boff := 0, lonely := 0 }) ∧
      read b 0x28 (k.dsmis * 2 ^ 16 + k.dslate) (s.setCan c { k with dsmis := 0, dslate := 0 }) ∧
      read b 0x30 (k.ovf * 2 ^ 24 + k.noMatch * 2 ^ 16 + k.rtr * 2 ^ 8 + k.fifo.length) (s.setCan c { k with ovf := 0, noMatch := 0, rtr := 0 })) ∧
    -- an offset that no card lists (R12)
    (∀ off : BitVec 16, 0x28 ≤ off.toNat → off.toNat < 0x100 → off.toNat % 4 = 0 → write blkXSP off s ∧ read blkXSP off 0 s)

/-- A register read delivers the block's identification at offset 0, which no write changes; a register that a gate or a stopped
tandem keeps from the initiator is neither read nor written, and nothing is at a misaligned offset; an access that older stores
hold back comes after them, and one that a unit reset holds back, or a store that such a reset holds back, waits: a write in the
store buffer where it has room, a read with its tandem; XSP_CMD starts a command, refuses it under R576, or only takes its
fields; a command ends with its bytes or, a read in 8D mode without a strobe, with TIMEOUT, and INV empties the window's lines;
DRAM is refreshed where a channel is ready, and the background clear clears the lowest fresh block (R9 to R12, R186, R190, R557,
R568, R569, R575 to R577, R586, R589; an access of the command table comes from a tandem that executes, log 15, what waits
behind a unit reset or a command is log 16 and log 26, a strobe's absence log 89, the flash a command changes log 90). -/
def Sys2Proof.Claims.RegisterAccessesReachTheirBlock : Prop :=
  ∀ (who : Tandem) (b : Fin 17) (off : BitVec 16) (w : W64) (v : BitVec 32) (rx : List Byte) (ch : List (Nat × Byte)) (s : State),
    (reaches s who b → b ≠ 2 →
      exec (.registerReadClear who b 0) s = .next { s with rdata := blockId b } ∧ exec (.registerWrite who b 0 w) s = .next s) ∧
    (s.acc who b = false ∨ (reaches s who b ∧ off.toNat % 4 ≠ 0) →
      exec (.registerReadClear who b off) s = .next s ∧ exec (.registerWrite who b off w) s = .next s) ∧
    (s.acc who b = true → let d := (blkUnits b).foldl State.urstEnd (s.drainAll who)
      let c := d.cpu who
      (d.acc who b = true → c.sb = [] → d.unitGated b = false →
        exec (.registerReadClear who b off) s = exec (.registerReadClear who b off) d ∧
        exec (.registerWrite who b off w) s = exec (.registerWrite who b off w) d) ∧
      (d.acc who b = false ∨ (¬ wholeRegister b off.toNat ∧ (c.sb ≠ [] ∨ d.unitGated b = true)) →
        exec (.registerReadClear who b off) s = .next d ∧ exec (.registerWrite who b off w) s = .next d) ∧
      (d.acc who b = true → c.sb ≠ [] ∨ d.unitGated b = true → wholeRegister b off.toNat →
        exec (.registerWrite who b off w) s = .next (if c.sb.length < sbCap who then
          buffered d who [⟨0x80000000 + 0x10000 * b.val + off.toNat, bytesOf (if devWide b off.toNat then 8 else 4) w.toNat, .dev⟩] else d) ∧
        exec (.registerReadClear who b off) s =
          .next (if c.wait = .none then d.modCpu who fun c => { c with wait := .read b off.toNat } else d))) ∧
    (reaches s who blkXSP → let held := v.getLsbD 29 && (s.gated 22 || s.gated 24)
      (v.getLsbD 31 = false ∨ held = true → exec (.xspCommand who v) s = .next (xsp s fun x => { x with cmd := v &&& 0x7FDFF0FF })) ∧
      (v.getLsbD 31 = true → held = false → cmdRefused s who v →
        exec (.xspCommand who v) s = .next (xsp s fun x => { x with cmd := v &&& 0x7FDFF0FF, refused := true })) ∧
      (v.getLsbD 31 = true → held = false → ¬ cmdRefused s who v → exec (.xspCommand who v) s = .next (xsp s fun x =>
        { x with cmd := v &&& 0x7FDFF0FF, busy := true, run := v &&& 0x7FDFF0FF }))) ∧
    (let onB := s.xsp.run.getLsbD 29
      let mode := if onB then s.xsp.b.mode else s.xsp.a.mode
      let reads := s.xsp.run.getLsbD 27 = false ∧ 0 < s.xsp.run.toNat / 2 ^ 12 % 2 ^ 9
      (s.xsp.busy = true → s.clk.crystal = true →
        (mode = 2 → reads → ∃ s', exec (.xspStrobeTimeout none) s = .next s' ∧ xspEnded s s' { s.xsp with timeout := true }) ∧
        (mode ≠ 2 ∨ ¬ reads → exec (.xspStrobeTimeout none) s = .next s) ∧
        (∃ s' x, exec (.xspCommandEnd rx ch) s = .next s' ∧ xspEnded s s' x ∧
          x.timeout = s.xsp.timeout ∧ x.refused = s.xsp.refused ∧ (if onB then x.a = s.xsp.a else x.b = s.xsp.b) ∧
          (∀ a, tget 0xFF (if onB then x.b else x.a).flash a =
            ((ch.reverse.lookup a).getD (tget 0xFF (if onB then s.xsp.b else s.xsp.a).flash a))) ∧
          (∀ i, tget 0 x.buf i = if s.xsp.run.getLsbD 27 = false ∧ i < s.xsp.run.toNat / 2 ^ 12 % 2 ^ 9 ∧ i < rx.length
            then rx.getD i 0 else tget 0 s.xsp.buf i))) ∧
      (s.xsp.busy = false ∨ s.clk.crystal = false →
        exec (.xspStrobeTimeout none) s = .next s ∧ exec (.xspCommandEnd rx ch) s = .next s)) ∧
    (∀ va s1 ph rg s2, Issues who .plain s s1 → (translate who .load .none (s.cpu who).ring va.toNat 1).run s1 = .ok (ph, rg) s2 →
      (strobeAwaited s2 who rg false (ph.lo / 8) → Faults (.xspStrobeTimeout (some (who, va))) who s ⟨3, 0x40, 3, 0, false, va.toNat⟩ s2) ∧
      (¬ strobeAwaited s2 who rg false (ph.lo / 8) → exec (.xspStrobeTimeout (some (who, va))) s = .next s)) ∧
    (∀ (va : BitVec 44) q rg, (s.cpu who).wait = .load q → s.regionOf who q.phys.lo q.phys.n = some rg →
      let may := (s.cpu who).run = .running ∧ s.clk.crystal = true ∧ q.va = va.toNat ∧ strobeAwaited s who rg q.turn (q.phys.lo / 8)
      (may → exec (.xspStrobeTimeout (some (who, va))) s =
        .next (takeFault who ⟨3, 0x40, 3, 0, false, va.toNat⟩ (s.modCpu who fun c => { c with wait := .none }))) ∧
      (¬ may → exec (.xspStrobeTimeout (some (who, va))) s = .next s)) ∧
    (exec .dramRefresh s = .next (if s.clk.crystal = true ∧
        ((s.drc.a.ready = true ∧ s.drc.a.sref = false) ∨ (s.drc.b.ready = true ∧ s.drc.b.sref = false))
      then { s with drc := { s.drc with refreshes := s.drc.refreshes + 1 } } else s)) ∧
    (s.dramSize = 0 ∨ s.clk.crystal = false → exec .dramBackgroundClearBlock s = .next s) ∧
    (s.dramSize ≠ 0 → s.clk.crystal = true →
      (s.drc.fresh = [] → exec .dramBackgroundClearBlock s = .next { s with drc := { s.drc with cleared := true } }) ∧
      (∀ lo hi r, s.drc.fresh = (lo, hi) :: r → lo < hi → (∀ q ∈ r, lo < q.1) →
        ∃ s', exec .dramBackgroundClearBlock s = .next s' ∧
          { s' with mem := s.mem, drc := s.drc, upset := s.upset } = s ∧
          (∀ k, tget TWord.unwritten s'.mem k = if 0x200000000 + lo * 0x2000 ≤ k ∧ k < 0x200000000 + (lo + 1) * 0x2000
            then TWord.unwritten else tget TWord.unwritten s.mem k) ∧
          s'.drc.fresh = (if lo + 1 < hi then [(lo + 1, hi)] else []) ++ r ∧ s'.drc.cleared = s'.drc.fresh.isEmpty))

/-- A write of an ordinary register stores the value in its RW fields, clears where 1 is written to W1C fields and sets where it
is written to W1S ones; a read delivers the register's value, and its RC fields are 0 afterwards: the cards of the WRD, CLK,
SCH, SPK, DRC, XSP, USB, CAN, NFC and IRT blocks (R9, R12, R13, Table 0-3; what a read delivers is a field of the model's own,
log 7, and a write of a 32-bit register takes bits [31:0], log 15). A register read delivers the block's identification at
offset 0, which no write changes; a register that a gate or a stopped tandem keeps from the initiator is neither read nor
written, and nothing is at a misaligned offset; an access that older stores hold back comes after them, and one that a unit
reset holds back, or a store that such a reset holds back, waits: a write in the store buffer where it has room, a read with its
tandem; XSP_CMD starts a command, refuses it under R576, or only takes its fields; a command ends with its bytes or, a read in
8D mode without a strobe, with TIMEOUT, and INV empties the window's lines; DRAM is refreshed where a channel is ready, and the
background clear clears the lowest fresh block (R9 to R12, R186, R190, R557, R568, R569, R575 to R577, R586, R589; an access of
the command table comes from a tandem that executes, log 15, what waits behind a unit reset or a command is log 16 and log 26, a
strobe's absence log 89, the flash a command changes log 90). -/
def Obligations.RegisterAccessesAndVolatileMemory : Prop :=
  Claims.RegistersFollowTheirAccessCodes ∧ Claims.RegisterAccessesReachTheirBlock

/-- The groomer, while it may write the macro, saves its working map to both copies; a move starts only where none is under way
and its frame's wear calls for it, and at its end the frame lives in the target, which gains 512 writes and the repeated ones;
scrub passes start, an uninstalled channel being unpopulated, run late, and end with their counts, each error they meet
corrected or reported; an evaluation raises EVAL and the evaluation count; the date advances by a day (R29, R40, R588, R654 to
R663, R670, R672 to R674; which spare among equals, the wear of a save and what a scrub counts are the readings of logs 84, 85
and 88; CDATE and the advance of logs 86 and 87). -/
def Sys2Proof.Claims.GroomerKeepsItsFrames : Prop :=
  ∀ (who : Tandem) (v : BitVec 32) (w : W64) (port : Side) (frame : Fin 16384) (mem : ScrubMem) (s : State),
    let g := s.grm
    (¬ groomerWorks s → exec .groomerMetadataSave s = .next s ∧ (∀ hot, exec (.frameMoveStart hot frame) s = .next s) ∧
      (∀ copy, exec (.frameMoveEnd copy) s = .next s)) ∧
    (g.maplost = true ∨ g.moving ≠ none → ∀ hot, exec (.frameMoveStart hot frame) s = .next s) ∧
    (groomerWorks s →
      (∃ m, exec .groomerMetadataSave s = .next (grm s fun g => { g with cur := m, saved := m }) ∧ m = { g.cur with wf := m.wf } ∧
        worn g.cur m 0 0) ∧
      (∀ p, g.maplost = false → g.moving = none → leastWorn g.cur.w g.freeSpares = some p →
        exec (.frameMoveStart true frame) s = .next (if g.cur.w p + 2 ^ 26 < g.cur.w (g.cur.phys frame.val)
          then moveBegun s frame.val p else s)) ∧
      (∀ p, g.maplost = false → g.moving = none → mostWorn g.cur.w g.freeSpares = some p →
        exec (.frameMoveStart false frame) s = .next (if g.cur.w (g.cur.phys frame.val) + 2 ^ 28 < g.cur.w p ∧
          g.cur.w (g.cur.phys frame.val) = g.cur.minInUse then moveBegun s frame.val p else s)) ∧
      (∀ copy, g.moving = none → exec (.frameMoveEnd copy) s = .next s) ∧
      (∀ f p, g.moving = some (f, p) →
        (∀ again, ∃ g' : Grm, exec (.frameMoveEnd ⟨again, none⟩) s = .next { s with grm := g' } ∧ g'.moving = none ∧ g'.saved = g'.cur ∧
          g'.cur.phys f = p ∧ (∀ n, n ≠ f → g'.cur.phys n = g.cur.phys n) ∧
          worn g.cur g'.cur p (512 + again) ∧ g'.cur.retired = g.cur.retired) ∧
        (∀ again n, ∃ s', exec (.frameMoveEnd ⟨again, some n⟩) s = .next s' ∧ worn g.cur s'.grm.cur p (n.val + 3 + again) ∧ s'.grm.cur.retired = g.cur.retired ++ [p] ∧ s'.grm.cur.map = g.cur.map ∧
          s'.irt.gevtRetire = true ∧ s'.grm.saved = s'.grm.cur ∧ (∀ q, s'.grm.moving = some q → q.1 = f ∧ q.2 ≠ p)))) ∧
    (s.scrubOn mem = false → exec (.scrubPassStart mem) s = .next s ∧ exec (.scrubPassLate mem) s = .next s ∧
      ∀ found weak frames, exec (.scrubPassEnd mem found weak frames) s = .next s) ∧
    (s.scrubOn mem = true →
      let gone := (mem = .dram .a ∧ s.drc.a.size = 0) ∨ (mem = .dram .b ∧ s.drc.b.size = 0)
      (mem = .spenik → g.maplost = true → exec (.scrubPassStart mem) s = .next s) ∧
      (gone → exec (.scrubPassStart mem) s = .next (s.mchk 0x16)) ∧
      (¬ gone → ¬ (mem = .spenik ∧ g.maplost = true) → exec (.scrubPassStart mem) s = .next (s.setScrubbing mem true) ∧
        ∀ x, (s.setScrubbing mem true).scrubbing x = (decide (x = mem) || s.scrubbing x)) ∧
      (s.scrubbing mem = false → exec (.scrubPassLate mem) s = .next s ∧
        ∀ found weak frames, exec (.scrubPassEnd mem found weak frames) s = .next s) ∧
      (s.scrubbing mem = true →
        (mem.patrols = true → exec (.scrubPassLate mem) s = .next s) ∧
        (mem.patrols = false → ∃ s', exec (.scrubPassLate mem) s = .next s' ∧ s'.irt.gevtScrub = true ∧
          s'.wrd.arrived = s.wrd.arrived ++ [⟨17, 0x15⟩] ∧ s'.scrubbing mem = true ∧ (match mem with
            | .sram => s'.grm.sramLate = true | .spenik => s'.grm.spkLate = true | _ => s'.drc.late = true)) ∧
        (∀ found weak frames, ∃ s', exec (.scrubPassEnd mem found weak frames) s = .next s' ∧ s'.scrubbing mem = false ∧
          (∀ x, found = [] → s.scrubs mem x = true → s.wrong x ≤ x.limit → s.inhibit = false → s'.wrong x = 0) ∧
          (∀ x, s.scrubs mem x = true → x.limit < s.wrong x → ∃ d ∈ s'.wrd.arrived,
            d = ⟨4, BitVec.ofNat 8 (s.siteGroup x)⟩ ∨ d = ⟨17, BitVec.ofNat 8 (s.siteGroup x)⟩) ∧
          (match mem with
            | .sram => s'.grm.sramPass = g.sramPass + 1
            | .spenik => s'.grm.spkPass = g.spkPass + 1 ∧ s'.grm.cur.weak = weak ∧
                s'.grm.cur.refreshed = (if s.inhibit then g.cur.refreshed else min 0xFFFF (g.cur.refreshed + frames.length))
            | .dram _ => s'.drc.passes = s.drc.passes + 1
            | _ => s'.grm.sramPass = g.sramPass ∧ s'.grm.spkPass = g.spkPass ∧ s'.drc.passes = s.drc.passes)))) ∧
    (¬ groomerWorks s ∨ s.gate.released = false → ∀ ro em, exec (.lifeEvaluation ro em) s = .next s) ∧
    (groomerWorks s → s.gate.released = true → ∀ ro em, ∃ s', exec (.lifeEvaluation ro em) s = .next s' ∧ s'.grm.cur.evals = g.cur.evals + 1 ∧ s'.grm.evalReq = none ∧
      s'.grm.saved = s'.grm.cur ∧ s'.irt.gevtEval = true ∧ s'.mem = s.mem ∧ s'.spk = s.spk ∧ s'.grm.moving = g.moving ∧
      s'.grm.cur.map = g.cur.map ∧ s'.grm.cur.wf = g.cur.wf) ∧
    (s.gate.pgood = false → exec .grmDateAdvance s = .next s) ∧
    (s.gate.pgood = true → g.day ≠ 0xFFFFFF → exec .grmDateAdvance s = .next (grm s fun g => { g with day := g.day + 1 })) ∧
    (s.gate.pgood = true → g.day = 0xFFFFFF → ∃ d, exec .grmDateAdvance s = .next { grm s (fun g => { g with day := d }) with free := s.free + 1 }) ∧
    (reaches s who blkGRM →
      exec (.grmEvalWrite who v) s = .next (let s' := grm s fun g => { g with lowdays := v.setWidth 16 }
        if v.getLsbD 31 then evalAsked s' else s') ∧
      (w.toNat % 2 ^ 24 = 0xFFFFFF → exec (.grmDateWrite who w) s = .next s) ∧
      (w.toNat % 2 ^ 24 ≠ 0xFFFFFF → g.cur.cdate ≠ none ∨ s.lifecycle ≠ some 2 →
        exec (.grmDateWrite who w) s = .next (grm s fun g => { g with day := w.setWidth 24, dayValid := true })) ∧
      exec (.grmFlashWrite who port w) s = .next (grm s fun g => { g with cur :=
        let r := w &&& 0x0000FFFFFFFFFFFF ||| (if w.toNat / 2 ^ 32 % 2 ^ 16 = 0 then 0 else 0x8000000000000000)
        match port with | .a => { g.cur with flashA := r } | .b => { g.cur with flashB := r } }))

/-- Each life evaluation computes the seven mechanisms of Table 14-5 from the inputs as they stood when it was asked for, and
the device-level result from those that take part: DAYS and the lowest MECH that gives it, LO, and the date DAYS ahead; LIFELOW
where DAYS or LO lies below LOWDAYS (R663 to R670, R672, R675, R677, Table 14-5; the order of INSUFF and the other overrides,
and what a saturated POWMIN reaches, log 86). -/
def Sys2Proof.Claims.LifeEvaluationFollowsItsTable : Prop :=
  ∀ (ro em : List Monitor) (s : State), groomerWorks s → s.gate.released = true →
    let e := s.grm.evalReq.getD
      { day := s.grm.day, dayValid := s.grm.dayValid, cdate := s.grm.cur.cdate, flashA := s.grm.cur.flashA,
        flashB := s.grm.cur.flashB, lowdays := s.grm.lowdays }
    let m := s.grm.cur
    let prof := missionProfile s
    let u := prof.2.1
    let linear (x klo khi : Rat) : LifeRes := powered m.powmin u (lifeLeft x (linearDays m.powmin u x) klo khi)
    (∀ v, v = e.flashA ∨ v = e.flashB → v.getLsbD 63 = true → v.toNat / 2 ^ 32 % 2 ^ 16 ≠ 0) →
    ∃ s', exec (.lifeEvaluation ro em) s = .next s' ∧
      let life (k : Nat) : LifeRes := tget .reset s'.grm.cur.life k
      let part (k : Nat) : Prop := k < 7 ∧ (life k).st.val < 2
      s'.grm.prof = prof.1 ∧ s'.grm.u = u ∧ s'.grm.c = prof.2.2.1 ∧ s'.grm.badcust = prof.2.2.2 ∧ s'.grm.stale = false ∧
      ((∀ b, .ppm b ∉ ro) → (life 0).st = 3) ∧ ((∀ b, .ppm b ∉ em) → (life 1).st = 3) ∧
      (∀ d, isWorst ro d → let x := (d : Rat) / 40000
        life 0 = powered m.powmin u (lifeLeft x (btiDays m.powmin u x) (70 / 100) (140 / 100))) ∧
      (∀ r, isWorst em r → life 1 = linear ((r : Rat) / 20000) (50 / 100) (160 / 100)) ∧
      life 2 = linear ((m.maxInUse : Rat) / 512 / 50000000000) (90 / 100) (110 / 100) ∧
      life 3 = (if s.grm.nospare = true then lifeLeft 1 0 1 1
        else linear ((m.retired.length : Rat) / 1520) (40 / 100) (250 / 100)) ∧
      (let x := (m.weak : Rat) * 1000000 / 2 ^ 23 / 1000;
        (∀ c, e.dayValid = true → e.cdate = some c → c.toNat ≤ e.day.toNat → life 4 =
          early m.powmin u (lifeLeft x (((e.day.toNat - c.toNat : Nat) : Rat) * (1 / x - 1)) (50 / 100) (200 / 100))) ∧
        (e.dayValid = false ∨ e.cdate = none → life 4 = linear x (50 / 100) (200 / 100))) ∧
      (e.flashA.getLsbD 63 = false ∧ e.flashB.getLsbD 63 = false → (life 5).st = 2) ∧
      (e.flashA.getLsbD 63 = true ∨ e.flashB.getLsbD 63 = true → life 5 = linear (worstFlash e.flashA e.flashB) (90 / 100) (110 / 100)) ∧
      (let x := (m.pcyc : Rat) / 100000;
        life 6 = lifeLeft x ((100000 - (m.pcyc : Rat)) / ((prof.2.2.1 : Rat) / 10)) (60 / 100) (150 / 100)) ∧
      (let dev := s'.grm.cur.dev.toNat
        let days := dev % 2 ^ 16
        let lo := dev / 2 ^ 16 % 2 ^ 16
        let mech := dev / 2 ^ 36 % 2 ^ 4
        dev / 2 ^ 32 % 2 ^ 4 = 0 ∧ part mech ∧ (life mech).d = days ∧ (∀ k, part k → days ≤ (life k).d ∧ lo ≤ (life k).lo) ∧
        (∀ k, k < mech → part k → (life k).d ≠ days) ∧ (∃ k, part k ∧ (life k).lo = lo) ∧
        (e.dayValid = false → dev / 2 ^ 40 = 0) ∧
        (e.dayValid = true → e.day.toNat + days < 2 ^ 24 → dev / 2 ^ 40 = e.day.toNat + days) ∧
        s'.irt.gevtLife = (s.irt.gevtLife || decide (days < e.lowdays.toNat) || decide (lo < e.lowdays.toNat)))

/-- The groomer, while it may write the macro, saves its working map to both copies; a move starts only where none is under way
and its frame's wear calls for it, and at its end the frame lives in the target, which gains 512 writes and the repeated ones;
scrub passes start, an uninstalled channel being unpopulated, run late, and end with their counts, each error they meet
corrected or reported; an evaluation raises EVAL and the evaluation count; the date advances by a day (R29, R40, R588, R654 to
R663, R670, R672 to R674; which spare among equals, the wear of a save and what a scrub counts are the readings of logs 84, 85
and 88; CDATE and the advance of logs 86 and 87). Each life evaluation computes the seven mechanisms of Table 14-5 from the
inputs as they stood when it was asked for, and the device-level result from those that take part: DAYS and the lowest MECH that
gives it, LO, and the date DAYS ahead; LIFELOW where DAYS or LO lies below LOWDAYS (R663 to R670, R672, R675, R677, Table 14-5;
the order of INSUFF and the other overrides, and what a saturated POWMIN reaches, log 86). -/
def Obligations.GroomerKeepsItsMapAndCounts : Prop :=
  Claims.GroomerKeepsItsFrames ∧ Claims.LifeEvaluationFollowsItsTable

/-- One epoch at a time is sealed, when the port is free and the log has room for what it logs, a log block that fails its
verify being retired; its mark commits it under its tandem's next number, which ends the wait of a PFENCE or closes the epoch it
left open; its entries are applied to the array in log order, an unreadable one as POISON, and a frame that fails its verify
gives way to a free spare; records go to the ring one by one and hold the rest back; RUN-OUT writes its record once, before the
fault records, and puts DRAM into self-refresh, with the words of Table 13-8; HOLDOK and VINOK follow their pins; recovery runs
once, not in RUN-OUT, and leaves no epoch behind (R610 to R616, R618, R622 to R633, R638, R641, R658, R659, R672; log 44 for a
PFENCE's epoch, 79 and 80 for what the log holds, 81 and 82 for recovery, 83 and 140 for the records, 84 for retirement). -/
def Obligations.LedgerSealsCommitsAndRecovers : Prop :=
  ∀ (us fails : Nat) (d : BitVec 16) (lb : Bool) (vf : Verify) (s : State),
    (exec .holdokFall s = .next (spk s fun k => { k with holdok := false, holdFell := true }) ∧
      exec .holdokRise s = .next (spk s fun k => { k with holdok := true }) ∧
      exec .vinSenseRelease s = .next (spk s fun k => { k with vinok := true })) ∧
    (s.clk.crystal = false → ∀ bad, ∀ i ∈ [Instr.sealStart us fails, .sealEnd, .epochCommit fails, .applyEntry lb vf,
      .wardenRecordWrite fails, .ledgerRecoveryEnd bad d], exec i s = .next s) ∧
    ((∀ e ∈ s.spk.closed, e.st ≠ .waiting) → exec (.sealStart us fails) s = .next s) ∧
    (∀ pre e post, s.spk.closed = pre ++ e :: post → e.st = .waiting → (∀ x ∈ pre, x.st ≠ .waiting) →
      let es := e.entries.filter fun x => !s.spk.superseded x
      let need := (es.length + 29) / 30 + 1
      (epochsIn s .sealing = 0 → epochsIn s .marking = 0 → s.spk.recs = [] → s.inhibit = false → need ≤ s.logFree → s.clk.crystal = true →
        let k := { s.spk with
          waitUs := min 0xFFFFFFFF (s.spk.waitUs + us),
          closed := pre ++ { e with st := .sealing, entries := es, log := es, blocks := need } :: post }
        exec (.sealStart us 0) s = .next { s with spk := k } ∧
          ∃ s', exec (.sealStart us fails) s = .next s' ∧ s'.spk = k ∧ blocksRetired s s' need fails) ∧
      (epochsIn s .sealing ≠ 0 ∨ epochsIn s .marking ≠ 0 ∨ s.spk.recs ≠ [] ∨ s.inhibit = true ∨ s.logFree < need →
        exec (.sealStart us fails) s = .next s)) ∧
    (s.spk.recs ≠ [] → exec .sealEnd s = .next s ∧ exec (.epochCommit fails) s = .next s ∧ exec (.applyEntry lb vf) s = .next s) ∧
    (∀ pre e post, s.spk.closed = pre ++ e :: post → e.st = .sealing → (∀ x ∈ pre, x.st ≠ .sealing) → s.spk.recs = [] →
      s.clk.crystal = true →
      exec .sealEnd s = .next (spk s fun k => { k with closed := pre ++ { e with st := .marking } :: post })) ∧
    (∀ pre e post, s.spk.closed = pre ++ e :: post → e.st = .marking → e.entries ≠ [] → (∀ x ∈ pre ++ post, x.st = .waiting) →
      s.spk.recs = [] → s.clk.crystal = true →
      let n := (s.spk.ep e.owner + 1) % 2 ^ 48
      let k := { s.spk.setEp e.owner n with closed := pre ++ { e with st := .committed, num := n } :: post }
      ((s.cpu e.owner).wait ≠ .pfence ∨ (∃ x ∈ pre ++ post, x.owner = e.owner) →
        exec (.epochCommit 0) s = .next { s with spk := k } ∧
          ∃ s', exec (.epochCommit fails) s = .next s' ∧ s'.spk = k ∧ blocksRetired s s' 0 fails) ∧
      ((s.cpu e.owner).run = .running → (s.cpu e.owner).wait = .pfence → (∀ x ∈ pre ++ post, x.owner ≠ e.owner) →
        ((s.spk.op e.owner).counted ≠ [] → exec (.epochCommit 0) s = .next { s with spk := k.close e.owner } ∧
          ∃ s', exec (.epochCommit fails) s = .next s' ∧ s'.spk = k.close e.owner ∧ blocksRetired s s' 0 fails) ∧
        ((s.spk.op e.owner).counted = [] → ∃ s', exec (.epochCommit fails) s = .next s' ∧ (s'.cpu e.owner).wait = .none ∧
          s'.pc e.owner = (s.pc e.owner + 4) % 2 ^ 44 ∧ s'.spk = k))) ∧
    (∀ pre e x es post, s.spk.closed = pre ++ e :: post → e.st = .committed → e.entries = x :: es →
      (∀ y ∈ pre, y.st = .waiting) → (∀ y ∈ post, y.st ≠ .sealing ∧ y.st ≠ .marking) → s.spk.superseded x = false →
      s.spk.recs = [] → s.clk.crystal = true →
      let ended := s.wrd.mode = .runOut ∧ (s.spk.runoutRec = true ∨ s.spk.holdFell = true ∨ s.spk.tripUs + 110 ≤ s.us)
      let old := s.grm.cur.phys (x.word / 512)
      (s.sealDue = true ∨ ended → exec (.applyEntry lb vf) s = .next s) ∧
      (s.sealDue = false → ¬ ended → ∃ s', exec (.applyEntry lb vf) s = .next s' ∧
        (∀ w, w ≠ x.word → tget TWord.unwritten s'.spk.array w = tget TWord.unwritten s.spk.array w) ∧
        (let now := tget TWord.unwritten s'.spk.array x.word;
          (lb = true → now = .poison ∧ ⟨4, 7⟩ ∈ s'.wrd.arrived) ∧ (lb = false → now = x.val ∨ now = .poison) ∧
          (∀ n, lb = false → vf = .good n → now = x.val ∧ s'.wrd = s.wrd ∧ (s.grm.moving = none → ∀ p, s'.grm.cur.w p =
            if p = old then min (2 ^ 48 - 1) (s.grm.cur.w p + (1 + n.val)) else s.grm.cur.w p)) ∧
          (vf = .failed [] → (∀ m, s.grm.moving = some m → m.1 ≠ x.word / 512) →
            (s.grm.freeSpares ≠ [] → (lb = false → now = x.val) ∧ s'.grm.cur.retired = s.grm.cur.retired ++ [old] ∧
              s'.grm.saved = s'.grm.cur ∧ s'.irt.gevtRetire = true) ∧
            (s.grm.freeSpares = [] → now = .poison ∧ ⟨4, 7⟩ ∈ s'.wrd.arrived ∧ s'.grm.nospare = true ∧
              s'.grm.cur.retired = s.grm.cur.retired ∧ s'.irt.gevtLife = true))) ∧
        (∀ w, tget 0 s'.spk.doneSeq w = if w = x.word then x.seq else tget 0 s.spk.doneSeq w) ∧
        s'.spk.closed = pre ++ (if es = [] then post else { e with entries := es } :: post))) ∧
    (s.spk.recs = [] → exec (.wardenRecordWrite fails) s = .next s) ∧
    (∀ r rest, s.spk.recs = r :: rest →
      (s.inhibit = true ∨ s.runOutDue = true → exec (.wardenRecordWrite fails) s = .next s) ∧
      (s.inhibit = false → s.runOutDue = false → s.clk.crystal = true → ∃ s', exec (.wardenRecordWrite fails) s = .next s' ∧
        s'.spk.recs = rest ∧ s'.spk.recno = nextRecord s.spk ∧ s'.spk.array = s.spk.array ∧
        slotsSkipped s.spk s'.spk fails ∧
        tget [] s'.spk.ring s'.spk.newest.toNat = r.words (nextRecord s.spk))) ∧
    (let recordDue := s.wrd.mode = .runOut ∧ s.spk.runoutRec = false ∧
        (s.spk.holdFell = true ∨ s.spk.closed = [] ∨ s.spk.tripUs + 110 ≤ s.us);
      (¬ recordDue → ∀ rec, exec (.runOutRecord rec) s = .next s) ∧
      (recordDue → ∀ rec, ∃ s', exec (.runOutRecord rec) s = .next s' ∧ s'.spk.runoutRec = true ∧ slotsSkipped s.spk s'.spk rec.fails ∧
      (tget [] s'.spk.ring s'.spk.newest.toNat).length = 8 ∧
      (let w (i : Nat) : Nat := ((tget [] s'.spk.ring s'.spk.newest.toNat).getD i 0).toNat
        let kept := (s.spk.closed.filter fun e => e.st == .marking || e.st == .committed).length
        w 0 = 2 ^ 56 + s.spk.tripMode.val * 2 ^ 48 + nextRecord s.spk ∧ w 1 = s.spk.tripUs / 1000 % 2 ^ 32 ∧
        w 2 = min 0xFFFF s.spk.rollA + 2 ^ 16 * min 0xFFFF s.spk.rollB + 2 ^ 32 * min 0xFFFF s.spk.rollG ∧
        w 3 = 2 ^ 48 * rec.durus.toNat + 2 ^ 40 * min 0xFF kept + 2 ^ 39 * s.spk.holdTrip.toNat + 2 ^ 38 * s.spk.holdok.toNat ∧
        w 4 = s.wrd.tripDet.toNat ∧ w 5 = 0 ∧ w 6 = 0) ∧
      s'.spk.needRec = false ∧ s'.spk.recno = nextRecord s.spk ∧ s'.drc.a.sref = s.drc.a.ready ∧
      s'.drc.b.sref = s.drc.b.ready ∧ s'.mem = s.mem ∧ s'.spk.array = s.spk.array)) ∧
    (∀ bad u, s.wrd.mode = .runOut ∨ s.spk.recovered = true ∨ s.gate.pgood = false ∨ s.gate.step.val < 3 → exec (.ledgerRecoveryEnd bad u) s = .next s) ∧
    (∀ bad u, s.wrd.mode ≠ .runOut → s.spk.recovered = false → s.gate.pgood = true → 3 ≤ s.gate.step.val → s.clk.crystal = true →
      ∃ s', exec (.ledgerRecoveryEnd bad u) s = .next s' ∧ s'.spk.recovered = true ∧ s'.spk.closed = [] ∧
        s'.gate.ledgerdone = true ∧ s'.spk.recov.getLsbD 0 = true ∧ s'.mem = s.mem ∧
        (∀ t, LedgerBad.mark t ∉ bad → s'.spk.ep t = s.spk.ep t))

/-- The sequence of chapter 3 from power-good to release: each command acts at its own step and nowhere else; fuse load starts
tandem G and the patrol; a slot that fails hands over to the next; release comes 20 ms after the origin at the earliest, enters
RUN with OUTCOME 1 and no loss, and SAFE HOLD otherwise (R116 to R140, R148, R158 to R162, R644, R678; what POWER_GOOD stands
for, log 126; open points of fuse load, selection and apply, logs 60, 62 to 68, 77 and 85, a late ledger recovery log 133). -/
def Obligations.GatehouseRunsItsSteps : Prop :=
  ∀ (s : State),
    exec .powerGood s = .next (if s.gate.pgood = true then s
      else { s with us := 0, gate := { s.gate with pgood := true, step := 2, origin := 0 }, wrd := { s.wrd with rails := 0x7F },
                    clk := { s.clk with crystal := true }, spk := { s.spk with norec := s.spk.needRec, needRec := true } }) ∧
    (∀ errs mb, s.gate.pgood = false ∨ s.gate.step ≠ 2 ∨ s.wrd.mode ≠ .gatehouse ∨ s.clk.crystal = false →
      exec (.fuseLoadEnd errs mb) s = .next s) ∧
    (∀ errs mb, s.gate.pgood = true → s.gate.step = 2 → s.wrd.mode = .gatehouse → s.clk.crystal = true →
      ∃ s', exec (.fuseLoadEnd errs mb) s = .next s' ∧ s'.gate.step = 3 ∧ s'.cpuG.run = .running ∧ s'.pc .g = 0 ∧
        s'.cpuA = s.cpuA ∧ s'.cpuB = s.cpuB ∧ s'.mem = s.mem ∧ s'.clk.plllock = true ∧ s'.wrd.patrol = true ∧ s'.wrd.pulses = true ∧
        s'.gate.fuseok = !s'.gate.ferrBad ∧
        (∀ n, n < 128 → (∀ e ∈ errs, e.row.val = n → e.uncorrectable = false) →
          tget 0 s'.gate.shadow n = if 21 ≤ n ∧ n ≤ 24 then 0 else tget 0 s.gate.fuses n) ∧
        ((∃ e ∈ errs, e.uncorrectable = true) → s'.gate.fuseok = false) ∧
        (mb = 2 ∨ (∀ c, ∃ u ∈ s.upset, ∃ w, u.site = .metadata c w ∧ 2 < u.bits) → s'.grm.maplost = true) ∧
        (mb ≠ 2 → metadataSound s → s'.grm.cur = s.grm.saved)) ∧
    (∀ fa fb ro da db xa xb mis, s.gate.step = 0 →
      ∀ i ∈ [Instr.slotHeaderCheck fa fb, .imageVerify ro, .applyRecords da db xa xb, .loadRecords mis, .release],
        exec i s = .next s) ∧
    (∀ fa fb, waitsAt s 3 → (s.gate.ferrBad = true ∨ s.lifecycle = some 0 →
        exec (.slotHeaderCheck fa fb) s = .next (gate s fun g => { g with step := 4 })) ∧
      (s.gate.ferrBad = false → s.lifecycle ≠ some 0 → ∃ g : Gate, exec (.slotHeaderCheck fa fb) s = .next { s with gate := g } ∧
        g.step = 4 ∧ (fa = true → g.slotA.result = 0x10) ∧ (∀ p, p ∈ g.order ↔ (g.slotRes p).result = 2) ∧
        (∀ p, g.order = [p, p.other] → (g.slotRes p.other).seq ≤ (g.slotRes p).seq) ∧
        (g.order = [.b, .a] → g.slotA.seq < g.slotB.seq))) ∧
    (∀ bad, waitsAt s 4 → (s.gate.order = [] → exec (.imageVerify bad) s = .next (gate s fun g => { g with step := 5 })) ∧
      (∀ p rest, s.gate.order = p :: rest →
        (∃ g : Gate, exec (.imageVerify true) s = .next { s with gate := g } ∧ slotFailed s.gate g p rest 0x10) ∧
        (∀ rs, s.verifyImage (s.xsp.port p) = .ok rs →
          exec (.imageVerify false) s = .next (gate s fun g => { g with recs := rs, step := 5 })) ∧
        (∀ code off, code < 256 → s.verifyImage (s.xsp.port p) = .error (code, off) → ∃ g : Gate,
          exec (.imageVerify false) s = .next { s with gate := g } ∧ slotFailed s.gate g p rest (BitVec.ofNat 8 code)))) ∧
    (∀ da db xa xb, waitsAt s 5 → ∃ s', exec (.applyRecords da db xa xb) s = .next s' ∧ s'.gate.step = 6 ∧
      s'.gate.order = s.gate.order ∧ s'.gate.recs = s.gate.recs ∧ (∀ t, SameCore s s' t) ∧ s'.spk.array = s.spk.array ∧
      (s.gate.recs = [] → s'.wrd.reducedEn = false ∧ s'.drc.a.ready = false ∧ s'.drc.b.ready = false ∧ s'.canA = .reset ∧
        s'.canB = .reset ∧ s'.usb.idok = false ∧ s'.xsp.a.cap = 0 ∧ s'.dramSize = 0 ∧ readsPlain s'.xsp.a ∧
        readsPlain s'.xsp.b ∧ (∀ k, 8 * k < dramBase → (∀ p ∈ s.gate.patched, p.1 ≠ k) →
          tget TWord.unwritten s'.mem k = tget TWord.unwritten s.mem k))) ∧
    (∀ mis, waitsAt s 6 → (s.gate.order = [] ∨ s.gate.cfgFail = true →
        exec (.loadRecords mis) s = .next (gate s fun g => { g with step := 7 })) ∧
      (∀ p rest, s.gate.order = p :: rest → s.gate.cfgFail = false →
        (∀ s1, State.runLoads mis (recsOf tLOAD s.gate.recs) 0 [] s = (s1, none) → ∃ g : Gate,
          exec (.loadRecords mis) s = .next { s1 with gate := g } ∧ g.slot = some p ∧ (g.slotRes p).result = 0x01 ∧ g.step = 7) ∧
        (∀ s1 l, State.runLoads mis (recsOf tLOAD s.gate.recs) 0 [] s = (s1, some l) → ∃ s', exec (.loadRecords mis) s = .next s' ∧
          slotFailed s1.gate s'.gate p rest 0x1B ∧ readsPlain s'.xsp.a ∧ readsPlain s'.xsp.b ∧ (∀ r ∈ l, ∀ k, r.dest / 8 ≤ k → k < (r.dest + r.len) / 8 →
            tget TWord.unwritten s'.mem k = TWord.unwritten)))) ∧
    (s.us < s.gate.origin + 20000 → exec .release s = .next s) ∧
    (waitsAt s 7 → s.gate.origin + 20000 ≤ s.us → ∃ s', exec .release s = .next s' ∧ s'.gate.released = true ∧
      s'.gate.outcome = s.outcome.1 ∧ s'.gate.trel.toNat = (s.us - s.gate.origin) % 2 ^ 32 ∧ s'.wrd.cfgLock = true ∧ s'.wrd.escfgLock = true ∧
      s'.cpuG = s.cpuG ∧ s'.mem = s.mem ∧ (∀ k, tget 0 s'.irt.route k &&& 0x30000#32 = 0) ∧
      (s.wrd.rcStopped = true → s'.wrd.mode = s.wrd.mode ∧ s'.cpuA = s.cpuA ∧ s'.cpuB = s.cpuB) ∧
      (s.outcome.1 ≠ 1 → s.wrd.rcStopped = false → s'.wrd.mode = .safeHold ∧ s'.cpuA = s.cpuA ∧ s'.cpuB = s.cpuB) ∧
      (s.outcome.1 = 1 → s.wrd.lostA = none → s.wrd.lostB = none → s.wrd.pendHold = none → s.wrd.rcStopped = false →
        s'.wrd.mode = .run ∧ s'.wrd.serveA = true ∧ s'.wrd.serveB = true ∧ s'.cpuA.run = .running ∧ s'.cpuB.run = .running ∧
        (∀ m : Side, s.entryOf m < 2 ^ 44 → s'.pc m.tandem = s.entryOf m) ∧ s'.cpuA.ring = 0 ∧ s'.cpuB.ring = 0)) ∧
    (∀ (u : Fin 4) ch, s.gate.released = true ∨ s.gate.step.val < 3 ∨ s.wrd.mode ≠ .gatehouse ∨ s.clk.crystal = false ∨
        (u ≠ 0 ∧ s.unitOff (6 + u.val) = true) → exec (.preReleaseCharacter u ch) s = .next s) ∧
    (∀ (u : Fin 4) ch, s.gate.released = false → 3 ≤ s.gate.step.val → s.wrd.mode = .gatehouse → s.clk.crystal = true →
      u = 0 ∨ s.unitOff (6 + u.val) = false → ∃ s', exec (.preReleaseCharacter u ch) s = .next s' ∧
        s' = gate { s with uat := s'.uat } fun g => match u with
          | 0 => { g with preA := min 0xFFFF (g.preA + 1) } | 1 => { g with preB := min 0xFFFF (g.preB + 1) }
          | 2 => { g with preC := min 0xFFFF (g.preC + 1) } | 3 => { g with preD := min 0xFFFF (g.preD + 1) })

/-- Power, warm, unit and run-out resets and clock gating: what each leaves, when it acts, and what it keeps (R62, R175, R184 to
R203, R205, R624 to R631, R644, Tables 4-1, 4-4 and 4-5; the readings of logs 13, 59, 72 to 76 and 126). -/
def Obligations.ResetsAndGatingTakeTheirEffect : Prop :=
  ∀ (who : Tandem) (v : BitVec 32) (w : W64) (u : Fin 11) (s : State),
    (∃ s', exec .powerReset s = .next s' ∧ s'.gate.pgood = false ∧ s'.wrd.mode = .gatehouse ∧ s'.mem = [] ∧
      (∀ t, s'.cpu t = Cpu.reset) ∧ s'.spk.array = s.spk.array ∧ s'.spk.ring = s.spk.ring ∧ s'.gate.fuses = s.gate.fuses ∧
      s'.grm.saved = s.grm.saved ∧ s'.xsp.a.flash = s.xsp.a.flash ∧ s'.pending = s.pending ∧ outputsLow s' ∧ s'.l2 = [] ∧
      (∀ e ∈ s'.spk.closed, e.st = .committed)) ∧
    (∀ (rail : Fin 7) (below : Bool), exec (.supplyOutOfLimits ⟨rail, below⟩) s =
      let low : State := if below then
          { wrd s (fun w => { w with rails := w.rails &&& ~~~(1#7 <<< rail.val) }) with
            usb := if rail = 6 then { s.usb with pullup := false, kOut := false, wake := false, chirp := .none } else s.usb }
        else s
      if s.gate.pgood = false then .next s
      else if rail = 1 then exec .powerReset low
      else if below = true ∧ rail = 4 then exec .crystalStop (detected low 6 4)
      else .next (detected low 6 (BitVec.ofNat 8 rail.val))) ∧
    (reaches s who blkCLK → ∀ i ∈ [Instr.holdCommand who v, .warmResetCommand who v],
      let serving := s.wrd.mode = .run ∨ s.wrd.mode = .reduced
      let cmd := v.toNat % 4
      (who = .g → exec i s = .next s) ∧
      (who ≠ .g → v.toNat / 2 ^ 16 ≠ 0x7A15 → exec i s = .next (clk s fun c => { c with badkey := min 0xFF (c.badkey + 1) })) ∧
      (who ≠ .g → v.toNat / 2 ^ 16 = 0x7A15 →
        (serving → cmd = 1 → exec i s = .next (clk s fun c =>
          { c with warmReq := some (c.warmReq.getD (if who = .a then .cmdA else .cmdB)) })) ∧
        (serving → cmd = 2 → exec i s = .next (wrd s fun w => { w with holdCmd := true })) ∧
        (¬ serving ∨ (cmd ≠ 1 ∧ cmd ≠ 2) → exec i s = .next s))) ∧
    (s.clk.warmReq = none ∨ s.wrd.mode = .gatehouse ∨ s.wrd.mode = .runOut → exec .warmReset s = .next s) ∧
    (∀ src, s.clk.warmReq = some src → s.wrd.mode ≠ .gatehouse → s.wrd.mode ≠ .runOut → ∃ s', exec .warmReset s = .next s' ∧
      s'.clk.draining = true ∧ s'.clk.lastsrc = src ∧ s'.clk.warmReq = none ∧ s'.gate.released = false ∧
      (∀ t, halted s' t) ∧ s'.cta = [] ∧ s'.irt.vc = s.irt.vc ∧ s'.spk.array = s.spk.array ∧
      (s.wrd.rcStopped = false → s'.wrd.mode = .gatehouse ∧ outputsLow s') ∧ (s.wrd.rcStopped = true → s'.wrd.mode = s.wrd.mode) ∧
      (∀ k, tget TWord.unwritten s'.mem k = if 0x2000000 ≤ k ∧ k < 0x2010000 then TWord.unwritten else tget TWord.unwritten s.mem k)) ∧
    (s.clk.draining = false ∨ s.clk.crystal = false → exec .drainEnd s = .next s ∧ exec .drainTimeout s = .next s) ∧
    (s.clk.draining = true → s.clk.crystal = true → ∀ i ∈ [Instr.drainEnd, .drainTimeout], ∃ s', exec i s = .next s' ∧ s'.clk.draining = false ∧
      s'.clk.warm = min 0xFFFF (s.clk.warm + 1) ∧ s'.gate.step = 3 ∧ s'.gate.released = false ∧ s'.gate.slot = none ∧
      s'.cpuA = Cpu.reset ∧ s'.cpuB = Cpu.reset ∧ (s.wrd.gloss < 8 → s'.cpuG.run = .running ∧ s'.pc .g = 0) ∧
      (8 ≤ s.wrd.gloss → s'.cpuG = Cpu.reset) ∧ s'.l2 = [] ∧
      (i = .drainTimeout → s'.clk.drainfail = true ∧ ∃ l, s'.wrd.arrived = s.wrd.arrived ++ l ++ [⟨17, 0x14⟩])) ∧
    (reaches s who blkCLK →
      (exec (.clkGateSetWrite who w) s = .next (clk s fun c =>
        let m := w.setWidth 60 &&& gateable who &&& ~~~s.hwGated
        { c with toGate := c.toGate ||| m, toUngate := c.toUngate &&& ~~~m })) ∧
      (exec (.clkGateClrWrite who w) s = .next (clk s fun c =>
        let m := w.setWidth 60 &&& gateable who &&& ~~~s.hwGated
        { c with toUngate := c.toUngate ||| m, toGate := c.toGate &&& ~~~m })) ∧
      (∃ s', exec (.unitReset who v) s = .next s' ∧ s'.mem = s.mem ∧ s'.wrd = s.wrd ∧ s'.gate = s.gate ∧ s'.grm = s.grm ∧ s'.spk = s.spk ∧
        (∀ t, s'.cpu t = s.cpu t) ∧
        (∀ n, n < 11 → s'.clk.urst.getLsbD n = (s.clk.urst.getLsbD n || (v.getLsbD n && decide (who = .g ∨ n < 7)))) ∧
        (v.getLsbD 4 = true → s.clk.urst.getLsbD 4 = false → s'.cta = []))) ∧
    (s.clk.urst.getLsbD u.val = false ∨ s.clk.crystal = false → exec (.unitResetEnd u) s = .next s) ∧
    (s.clk.urst.getLsbD u.val = true → s.clk.crystal = true → ∃ s', exec (.unitResetEnd u) s = .next s' ∧ s'.clk.urst = s.clk.urst &&& ~~~(1#11 <<< u.val) ∧
      s'.mem = s.mem ∧ s'.cta = s.cta) ∧
    (s.clk.crystal = false → exec .gatingTakesEffect s = .next s) ∧
    (s.clk.crystal = true → ∃ s', exec .gatingTakesEffect s = .next s' ∧ { s'.clk with warmReq := s.clk.warmReq } = { s.clk with
        gated := (s.clk.gated ||| s.clk.toGate) &&& ~~~s.clk.toUngate, toGate := 0, toUngate := 0 } ∧
      s'.mem = s.mem ∧ s'.wrd = s.wrd ∧ (∀ t, s'.cpu t = s.cpu t) ∧
      (∀ n : Fin 32, s.clk.toGate.getLsbD (51 + n.val / 8) = true → s.clk.gated.getLsbD (51 + n.val / 8) = false →
        s'.chan n.val = Chan.reset)) ∧
    (s.gate.pgood = false ∨ s.wrd.mode = .runOut →
      exec .vinSenseTrip s = .next { s with spk := { s.spk with vinok := false } }) ∧
    (s.gate.pgood = true → s.wrd.mode ≠ .runOut → ∃ s', exec .vinSenseTrip s = .next s' ∧
      (s.wrd.rcStopped = false → s'.wrd.mode = .runOut ∧ outputsLow s') ∧ (s.wrd.rcStopped = true → s'.wrd.mode = s.wrd.mode) ∧
      (∀ t, halted s' t) ∧ s'.spk.vinok = false ∧ s'.spk.holdTrip = s.spk.holdok ∧ s'.spk.holdFell = !s.spk.holdok ∧ s'.spk.runoutRec = false ∧ s'.spk.tripUs = s.us ∧
      s'.clk.warmReq = none ∧ s'.usb.pullup = false ∧ s'.usb.kOut = false ∧ s'.usb.susp = false ∧
      s'.pio.drive = false ∧ (∀ p ∈ [2, 3, 4], (s'.usb.port p).st = .poweredOff) ∧ (∀ e ∈ s'.spk.closed, e.st ≠ .waiting ∧ e.st ≠ .sealing)) ∧
    (s.wrd.mode ≠ .runOut ∨ s.spk.runoutRec = false ∨ s.spk.vinok = false → exec .runOutPowerGood s = .next s) ∧
    (s.wrd.mode = .runOut → s.spk.runoutRec = true → s.spk.vinok = true → ∃ s', exec .runOutPowerGood s = .next s' ∧
      (s.wrd.rcStopped = false → s'.wrd.mode = .gatehouse) ∧ s'.wrd.rails = 0x7F ∧ s'.clk.crystal = true ∧ s'.l2 = [] ∧ s'.clk.lastsrc = .t10 ∧ s'.spk.recovered = false ∧
      s'.spk.recs = s.spk.recs ∧ s'.grm.moving = none ∧ s'.spk.norec = s.spk.needRec ∧ s'.gate.step = 3 ∧
      s'.cpuA = Cpu.reset ∧ (s.wrd.gloss < 8 → s'.cpuG.run = .running) ∧ s'.spk.array = s.spk.array)

/-- The monitors detect, the watchdogs, the safe outputs, the emergency stop and the patrol follow their rules, and the warden
decides on what has arrived: SAFE HOLD, the loss of a main tandem, its mark in GATEHOUSE, or the restart of tandem G (R54 to
R108, R175, R187, R198, R204, R205, Tables 2-3 and 4-3; the readings of logs 4, 5, 20, 51 to 59, 122, 131 and 132). -/
def Obligations.WardenMonitorsAndDecides : Prop :=
  ∀ (who t : Tandem) (v : BitVec 32) (m : Side) (s : State),
    ((s.cpu t).run = .held ∨ (s.wrd.mode = .gatehouse ∧ t ≠ .g) → exec (.lockstepMismatch t) s = .next s) ∧
    ((s.cpu t).run ≠ .held → s.wrd.mode ≠ .gatehouse ∨ t = .g → exec (.lockstepMismatch t) s =
      .next (detected s (match t with | .a => 0 | .b => 1 | .g => 2) (BitVec.ofNat 8 t.idx))) ∧
    (s.gate.pgood = true →
      (∀ c : Fin 2, exec (.overTemperature c) s = .next (detected s 11 (BitVec.ofNat 8 c.val))) ∧
      (∃ (s' : State) (lane : Option Side), exec .laneDisagreement s = .next s' ∧ s'.wrd.arrived = s.wrd.arrived ++ [⟨16, 0⟩] ∧
        s'.wrd.laneA = (s.wrd.laneA || lane == some .a) ∧ s'.wrd.laneB = (s.wrd.laneB || lane == some .b) ∧
        (lane = none → s.outOk = true → s' = { detected s 16 0 with free := s.free + 1 }) ∧
        (lane ≠ none → outputsLow s' ∧ s'.permit = false)) ∧
      exec .pllRelock s = .next (clk s fun c => { c with plllock := true }) ∧
      exec .pllLockLoss s = .next (detected (clk s fun c => { c with plllock := false }) 5 4) ∧
      exec (.clockEdgeLoss .pll) s = exec .pllLockLoss s ∧
      (∃ s', exec .crystalStop s = .next s' ∧ s'.clk.crystal = false ∧ s'.clk.rootgood = false ∧ outputsLow s' ∧
        s'.wrd.arrived = s.wrd.arrived ++ [⟨5, 2⟩]) ∧
      (∃ s', exec .rcReferenceStopped s = .next s' ∧ s'.wrd.rcStopped = true ∧ s'.clk.rootgood = false ∧ outputsLow s' ∧
        s'.cpuA.run = .held ∧ s'.cpuB.run = .held ∧ SameCore s s' .g) ∧
      (∃ s', exec (.safeOutputReadbackMismatch m) s = .next s' ∧ s'.wrd.arrived = s.wrd.arrived ++ [⟨14, BitVec.ofNat 8 m.idx⟩] ∧
        (match m with | .a => s'.wrd.rbA = !s.wrd.outA | .b => s'.wrd.rbB = !s.wrd.outB)) ∧
      (∀ fab rc : BitVec 16, s.wrd.rcStopped = false → ∃ s', exec (.frequencyMonitorWindow fab rc) s = .next s' ∧ 
        s'.clk.crystal = (s.clk.crystal || (fab != 0 && s.wrd.rails.getLsbD 4)) ∧
        s'.clk.fabcnt = fab ∧ s'.clk.rccnt = rc ∧ (s'.clk.rootgood = true ↔ ¬ offBy fab.toNat 600 ∧ ¬ offBy rc.toNat 64) ∧
        (offBy fab.toNat 600 → s'.wrd.arrived = s.wrd.arrived ++ [⟨5, 0⟩]) ∧
        (¬ offBy fab.toNat 600 → offBy rc.toNat 64 → s'.wrd.arrived = s.wrd.arrived ++ [⟨5, 1⟩]))) ∧
    (s.wdRuns t = true ↔ (s.cpu t).run ≠ .held ∧ s.wrd.mode ≠ .runOut ∧ s.clk.draining = false ∧ s.wrd.rcStopped = false) ∧
    (let d := s.wrd.wd t;
      (reaches s who blkWRD →
        (who ≠ t → exec (.watchdogService who t v) s = .next s ∧ exec (.watchdogConfigWrite who t v) s = .next s ∧
          exec (.watchdogLock who t v) s = .next s) ∧
        (who = t → s.wdRuns t = true →
          (d.effOpn * 100 ≤ d.us → d.us ≤ d.effClose * 100 → v.toNat = (if d.next then 0x3C5A else 0xA5C3) →
            exec (.watchdogService who t v) s = .next (wdSet s t (served d))) ∧
          (d.us < d.effOpn * 100 ∨ d.effClose * 100 < d.us ∨ v.toNat ≠ (if d.next then 0x3C5A else 0xA5C3) →
            exec (.watchdogService who t v) s = .next (detected s (match t with | .a => 7 | .b => 8 | .g => 9) (BitVec.ofNat 8 t.idx)))) ∧
        (who = t → (cfgAccepted d v →
            exec (.watchdogConfigWrite who t v) s = .next (wdSet s t (configured d v (v.getLsbD 31))) ∧
            exec (.watchdogLock who t v) s = .next (wdSet s t (configured d v true))) ∧
          (¬ cfgAccepted d v → exec (.watchdogConfigWrite who t v) s = .next s ∧ exec (.watchdogLock who t v) s = .next s))) ∧
      (s.wdRuns t = true → d.effClose * 100 ≤ d.us → (∀ x ∈ s.wrd.arrived, x.bit ∉ [(7 : Fin 18), 8, 9]) →
        exec (.watchdogExpiry t) s = .next (detected s (match t with | .a => 7 | .b => 8 | .g => 9) (BitVec.ofNat 8 t.idx))) ∧
      (s.wdRuns t = false ∨ d.us < d.effClose * 100 → exec (.watchdogExpiry t) s = .next s)) ∧
    (s.outOk = true ↔ (s.wrd.mode = .run ∨ s.wrd.mode = .reduced) ∧ s.wrd.rcStopped = false ∧ s.lifecycle ≠ some 3 ∧
      s.wrd.laneA = false ∧ s.wrd.laneB = false ∧ s.wrd.demand = false ∧ s.wrd.esFault = false ∧ s.wrd.swstop = false ∧
      s.wrd.latched = false ∧ s.wrd.first = true ∧ s.clk.rootgood = true) ∧
    (s.outOk = false → ∃ s', exec .safeOutputHalfPeriod s = .next s' ∧ outputsLow s') ∧
    (s.outOk = true → ∃ s', exec .safeOutputHalfPeriod s = .next s' ∧ s'.wrd.toggling = true ∧ s'.wrd.outA = !s'.wrd.outB ∧
      s'.wrd.outA = (if s.wrd.toggling then !s.wrd.outA else true) ∧ s'.wrd.rate = decide (s.wrd.mode = .reduced)) ∧
    (reaches s who blkWRD →
      (∃ s', exec (.swstop who) s = .next s' ∧ s'.wrd.swstop = true ∧ s'.wrd.latched = true ∧ s'.wrd.hold = 2 ∧ outputsLow s') ∧
      (s.wrd.demand = false → s.wrd.esFault = false → s.wrd.mode = .run ∨ s.wrd.mode = .reduced →
        exec (.rearm who) s = .next (wrd s fun w => { w with swstop := false, latched := false, hold := 0, esGates := false })) ∧
      (s.wrd.demand = true ∨ s.wrd.esFault = true ∨ (s.wrd.mode ≠ .run ∧ s.wrd.mode ≠ .reduced) → exec (.rearm who) s = .next s) ∧
      (s.wrd.mode ≠ .service → exec (.patrolPauseWrite who v) s = .next s ∧ exec (.patrolInjectWrite who v) s = .next s) ∧
      (s.wrd.mode = .service → exec (.patrolPauseWrite who v) s = .next (wrd s fun w => { w with pause := v.getLsbD 0 }) ∧
        ∃ l, exec (.patrolInjectWrite who v) s = .next (wrd s fun w => { w with
          pinjMech := v.setWidth 8, pinjGo := w.pinjGo || v.getLsbD 31, injected := l }) ∧
          ∀ x, x ∈ l ↔ x ∈ s.wrd.injected ∨ (v.getLsbD 31 = true ∧ x = v.setWidth 8 ∧ x.toNat ∈ mechanisms))) ∧
    (let low := match m with | .a => s.wrd.taLow | .b => s.wrd.tbLow
      let ended := wrd s fun w => match m with
        | .a => { w with taLow := false, pulseEnd := some s.us } | .b => { w with tbLow := false, pulseEnd := some s.us }
      (low = false ∨ s.clk.crystal = false → exec (.testPulseEnd m) s = .next s) ∧
      (low = true → s.clk.crystal = true → ¬ (patrolRuns s ∧ 0x1F ∈ s.wrd.injected) → exec (.testPulseEnd m) s = .next ended) ∧
      (low = true → patrolRuns s → 0x1F ∈ s.wrd.injected → exec (.testPulseEnd m) s =
        .next (detected (wrd ended fun w => { w with fail := true, last := 0x1F, sweepBad := true }) 10 0x1F))) ∧
    (s.wrd.pulses = false ∨ s.clk.crystal = false → exec (.testPulseStart m) s = .next s) ∧
    (s.wrd.pulses = false → (∀ closed, exec (.estopChannelChange m closed) s = .next s) ∧
      exec (.estopPulseError m) s = .next s ∧ exec .estopDiscrepancy s = .next s) ∧
    (s.wrd.pulses = true →
      (s.clk.crystal = true → exec (.testPulseStart m) s = .next (wrd s fun w => match m with | .a => { w with taLow := true } | .b => { w with tbLow := true })) ∧
      (∀ closed, blind s → exec (.estopChannelChange m closed) s = .next (wrd s fun w => match m with
        | .a => { w with waitA := some closed } | .b => { w with waitB := some closed })) ∧
      (¬ blind s → ∃ s', exec (.estopChannelChange m false) s = .next s' ∧ s'.wrd.demand = true ∧ s'.wrd.latched = true ∧ s'.wrd.hold = 1 ∧
        outputsLow s' ∧ (s.wrd.demand = false → s'.irt.wevtEstop = true)) ∧
      (¬ blind s → ∃ s', exec (.estopChannelChange m true) s = .next s' ∧ s'.wrd.demand = (match m with
        | .a => s.wrd.knownB && !s.wrd.closedB | .b => s.wrd.knownA && !s.wrd.closedA)) ∧
      (∃ s', exec (.estopPulseError m) s = .next s' ∧ s'.wrd.esFault = true ∧ outputsLow s' ∧
        s'.wrd.arrived = s.wrd.arrived ++ [⟨13, BitVec.ofNat 8 m.idx⟩]) ∧
      (s.wrd.knownA = true → s.wrd.knownB = true → s.wrd.closedA ≠ s.wrd.closedB → ∃ s', exec .estopDiscrepancy s = .next s' ∧
        s'.wrd.disc = true ∧ outputsLow s' ∧ s'.wrd.arrived = s.wrd.arrived ++ [⟨12, if s.wrd.closedA then 1 else 0⟩])) ∧
    (patrolRuns s → ∀ (mech : Byte) (half : Fin 2) (good : Bool),
      let part : MechHalf := ⟨mech, half⟩
      let made := wrd s fun w => { w with tested := if (mech, half) ∈ w.tested then w.tested else w.tested ++ [(mech, half)] }
      (mech.toNat ∈ mechanisms → good = false ∨ mech ∈ s.wrd.injected → exec (.patrolTest part good) s =
        .next (detected (wrd made fun w => { w with fail := true, last := mech, sweepBad := true }) 10 mech)) ∧
      (mech.toNat ∈ mechanisms → good = true → mech ∉ s.wrd.injected → exec (.patrolTest part good) s = .next made) ∧
      (mech.toNat ∉ mechanisms → exec (.patrolTest ⟨mech, half⟩ good) s = .next s)) ∧
    (patrolRuns s → ∃ s', exec .patrolSweepEnd s = .next s' ∧ s' = wrd s (fun w =>
        { w with sweeps := w.sweeps + 1, first := s'.wrd.first, swept := true, sweepBad := false, tested := [] }) ∧
      (s'.wrd.first = true ↔ s.wrd.first = true ∨ (s.wrd.swept = false ∧ s.wrd.sweepBad = false ∧ fullSweep s))) ∧
    (¬ patrolRuns s → exec .patrolSweepEnd s = .next s ∧ ∀ mech half good, exec (.patrolTest ⟨mech, half⟩ good) s = .next s) ∧
    (exec .patrolOverrun s = .next (if s.wrd.patrol = true ∧ s.wrd.pause = false then
      detected (wrd s fun w => { w with fail := true, last := 0xFF, sweepBad := true }) 10 0xFF else s)) ∧
    (s.wrd.rcStopped = true ∨ (s.wrd.arrived = [] ∧ s.wrd.holdCmd = false) → exec .wardenDecision s = .next s) ∧
    (∀ d, s.wrd.rcStopped = false → s.wrd.arrived = [d] → s.wrd.holdCmd = false → ∃ s', exec .wardenDecision s = .next s' ∧
      (∀ x ∈ s'.wrd.arrived, x = ⟨17, 4⟩) ∧ s'.wrd.det = s.wrd.det ||| BitVec.ofNat 18 (2 ^ d.bit.val) ∧ s'.wrd.faults = min 0xFFFF (s.wrd.faults + 1) ∧
      (s.wrd.frec.getLsbD 63 = true → s'.wrd.frec = s.wrd.frec) ∧ (s.wrd.frec.getLsbD 63 = false → s'.wrd.frec.toNat = recordOf s d) ∧
      s'.mem = s.mem ∧
      (holds d → s.wrd.mode = .run ∨ s.wrd.mode = .reduced →
        s'.wrd.mode = .safeHold ∧ s'.wrd.cause.toNat = d.bit.val + 1 ∧ mainHeld s' ∧ outputsLow s') ∧
      (holds d → s.wrd.mode = .gatehouse → s'.wrd.mode = .gatehouse ∧ s'.wrd.pendHold = some (s.wrd.pendHold.getD d.bit)) ∧
      (∀ lost : Side, losesMain d = some lost →
        (s.wrd.mode = .run → s.wrd.reducedEn = true → s.wrd.serves lost.other = true →
          s'.wrd.mode = .reduced ∧ s'.wrd.cause.toNat = d.bit.val + 1 ∧ s'.wrd.serves lost = false ∧ s'.wrd.serves lost.other = true ∧
          (s'.cpu lost.tandem).run = .held ∧ SameCore s s' lost.other.tandem) ∧
        ((s.wrd.mode = .run ∧ s.wrd.reducedEn = false) ∨ (s.wrd.mode = .reduced ∧ s.wrd.serves lost = true) →
          s'.wrd.mode = .safeHold ∧ s'.wrd.cause.toNat = d.bit.val + 1 ∧ mainHeld s') ∧
        (s.wrd.mode = .reduced → s.wrd.serves lost = false → s'.wrd.mode = .reduced ∧ ∀ t, s'.cpu t = s.cpu t) ∧
        (s.wrd.mode = .gatehouse → s'.wrd.mode = .gatehouse ∧ (d.bit = 10 →
          (match lost with | .a => s'.wrd.lostA | .b => s'.wrd.lostB) =
            some ((match lost with | .a => s.wrd.lostA | .b => s.wrd.lostB).getD 10)))) ∧
      (holds d ∨ (losesMain d).isSome = true → s.wrd.mode = .safeHold ∨ s.wrd.mode = .service ∨ s.wrd.mode = .runOut →
        s'.wrd.mode = s.wrd.mode ∧ ∀ t, s'.cpu t = s.cpu t) ∧
      (restarts d → s.wrd.mode = .runOut → s'.wrd.mode = .runOut ∧ ∀ t, s'.cpu t = s.cpu t) ∧
      (restarts d → s.wrd.mode ≠ .runOut → s'.wrd.mode = s.wrd.mode ∧ SameCore s s' .a ∧ SameCore s s' .b ∧
        s'.wrd.gloss = min 0xFF (s.wrd.gloss + 1) ∧
        (s.wrd.gloss < 7 → s'.cpuG.run = .running ∧ s'.pc .g = 0 ∧ (s.gate.released = false → 3 ≤ s.gate.step.val → s'.gate.step = 3)) ∧
        (7 ≤ s.wrd.gloss → s'.cpuG = Cpu.reset)) ∧
      (d.bit ∈ [(12 : Fin 18), 13] → s.wrd.mode ≠ .runOut → s'.wrd.mode = s.wrd.mode ∧ s'.wrd.latched = true ∧ s'.wrd.hold = 3 ∧
        s'.wrd.esGates = true ∧ outputsLow s' ∧ gatesShut s') ∧
      (d.bit ∈ [(3 : Fin 18), 4, 17] → s'.wrd.mode = s.wrd.mode ∧ (∀ t, s'.cpu t = s.cpu t))) ∧
    (∀ d e, s.wrd.rcStopped = false → s.wrd.arrived = [d, e] → s.wrd.holdCmd = false → s.wrd.mode = .run ∨ s.wrd.mode = .reduced →
      d.bit ∈ [(5 : Fin 18), 6, 11, 14, 16] → e.bit ∈ [(2 : Fin 18), 9, 12, 13] → ∃ s', exec .wardenDecision s = .next s' ∧
        s'.wrd.mode = .safeHold ∧ s'.wrd.latched = s.wrd.latched ∧ s'.wrd.gloss = s.wrd.gloss ∧ SameCore s s' .g) ∧
    (s.wrd.rcStopped = false → s.wrd.arrived = [] → s.wrd.holdCmd = true → s.wrd.mode = .run ∨ s.wrd.mode = .reduced →
      ∃ s', exec .wardenDecision s = .next s' ∧ s'.wrd.mode = .safeHold ∧ s'.wrd.cause = 0 ∧ s'.cpuA.run = .held ∧ s'.cpuB.run = .held)

/-- Mailboxes move between their states by the commands of CAN_MBGO and CAN_MBCFG, by the safe-channel gate and by the bus: a
frame is admitted, wins arbitration by its key, ends DONE or is retried, and a dual-source frame needs two equal halves; a
mailbox that the gate cuts off as its other half is submitted starts a new HALF (R797 to R804, R810, Table 17-9; the readings of
logs 101 to 103). -/
def Obligations.CanMailboxesCarryFrames : Prop :=
  ∀ (h c : Side) (m : Fin 32) (v : W64) (seq : BitVec 16) (s : State),
    let who := h.tandem
    let k := s.can c
    let b := k.getMb m.val
    let bad := can s c fun k => raised k 0x40
    (canBy s h c →
      (foreign b h → exec (.canMbcfgWrite who c m v) s = .next bad) ∧
      (¬ foreign b h → b.st = .empty → v.toNat / 2 ^ 62 = 0 →
        exec (.canMbcfgWrite who c m v) s = .next (can s c fun k => k.setMb m.val { b with cfg := v &&& 0xFFFFDFFFDFFFFFFF })) ∧
      (b.st ≠ .empty ∨ v.toNat / 2 ^ 62 = 3 → exec (.canMbcfgWrite who c m v) s = .next bad) ∧
      (foreign b h → exec (.canMbSubmit who c m) s = .next bad ∧ exec (.canMbRelease who c m) s = .next bad ∧
        exec (.canMbAbort who c m) s = .next bad ∧ exec (.canMbSetseq who c m seq) s = .next bad) ∧
      (¬ foreign b h →
        (4 ≤ b.st.code → exec (.canMbRelease who c m) s = .next (can s c fun k => k.setMb m.val
          { b with st := .empty, ha := false, hb := false, deg := false, errs := 0, frame := none, cutUs := none })) ∧
        (b.st.code < 4 → exec (.canMbRelease who c m) s = .next bad) ∧
        (b.st = .half ∨ b.st = .pend → exec (.canMbAbort who c m) s = .next (can s c fun k => k.setMb m.val { b with st := .aborted })) ∧
        (b.st ≠ .half → b.st ≠ .pend → exec (.canMbAbort who c m) s = .next bad) ∧
        (b.st = .empty → exec (.canMbSetseq who c m seq) s = .next (can s c fun k => k.setMb m.val { b with nextseq := seq })) ∧
        (b.st ≠ .empty → exec (.canMbSetseq who c m seq) s = .next bad) ∧
        (b.kind ≠ 2 → b.st = .empty → exec (.canMbSubmit who c m) s =
          .next (can s c fun k => k.setMb m.val (admitted b k.brsen h (decide (b.kind = 1))))) ∧
        (b.st ≠ .empty → b.st ≠ .half → ¬ (b.kind = 2 ∧ oneHalf s ∧ cutBefore s b h) → exec (.canMbSubmit who c m) s = .next bad) ∧
        (b.kind = 2 → oneHalf s → b.st = .empty ∨ cutBefore s b h → exec (.canMbSubmit who c m) s =
          .next (can s c fun k => k.setMb m (admitted { b with ha := false, hb := false } k.brsen h true))) ∧
        (b.kind = 2 → b.st = .empty → s.wrd.rcStopped = true ∨ s.wrd.esGates = true → exec (.canMbSubmit who c m) s =
          .next (can s c fun k => k.setMb m.val { half b h with st := .withheld, errs := 0 })) ∧
        (b.kind = 2 → b.st = .empty → s.wrd.rcStopped = false → s.wrd.esGates = false →
          (s.wrd.mode = .run → exec (.canMbSubmit who c m) s =
            .next (can s c fun k => k.setMb m.val { half b h with st := .half, errs := 0 })) ∧
          (s.wrd.mode ≠ .run → s.wrd.mode ≠ .reduced → exec (.canMbSubmit who c m) s =
            .next (can s c fun k => k.setMb m.val { half b h with st := .withheld, errs := 0 }))) ∧
        (b.kind = 2 → b.st = .half → s.wrd.rcStopped = false → s.wrd.esGates = false → s.wrd.mode = .run →
          (b.submitted h = true → exec (.canMbSubmit who c m) s = .next bad) ∧
          (b.submitted h = false → b.part .a 4 (b.n - 4) = b.part .b 4 (b.n - 4) →
            exec (.canMbSubmit who c m) s = .next (can s c fun k => k.setMb m.val (admitted b k.brsen h false))) ∧
          (b.submitted h = false → b.part .a 4 (b.n - 4) ≠ b.part .b 4 (b.n - 4) → exec (.canMbSubmit who c m) s =
            .next (can s c fun k => raised { k.setMb m.val { half b h with st := .withheld } with dsmis := min 0xFFFF (k.dsmis + 1) } 4))))) ∧
    (onWire s c →
      (b.st = .half → exec (.dualSourceWindowExpiry c m) s = .next (can s c fun k =>
        raised { k.setMb m.val { b with st := .withheld } with dslate := min 0xFFFF (k.dslate + 1) } 8)) ∧
      (b.st ≠ .half → exec (.dualSourceWindowExpiry c m) s = .next s) ∧
      (b.st = .pend → s.wrd.mode = .run ∨ s.wrd.mode = .reduced → ∃ s', exec (.canTxCompareMismatch c m) s = .next s' ∧ (s'.can c).st = .monitor ∧ (s'.can c).cmphold = true ∧
        (s'.can c).getMb m.val = { b with st := .withheld } ∧ s'.wrd.arrived = s.wrd.arrived ++ [⟨3, BitVec.ofNat 8 c.idx⟩]) ∧
      (b.st ≠ .pend ∨ (s.wrd.mode ≠ .run ∧ s.wrd.mode ≠ .reduced) → exec (.canTxCompareMismatch c m) s = .next s) ∧
      (k.toMonitor = false → (k.onBus = false ∨ k.txing ≠ none ∨ ∀ j, j < 32 → ¬ ready k j) → exec (.canArbitrationStart c) s = .next s) ∧
      (k.toMonitor = false → k.onBus = true → k.txing = none → ready k m.val →
        (∀ j, j < 32 → ready k j → keyOf k m.val < keyOf k j ∨ (keyOf k m.val = keyOf k j ∧ m.val ≤ j)) →
        exec (.canArbitrationStart c) s = .next (can s c fun k => k.setMb m.val { b with
          st := .tx, frame := b.frame.map fun f => { f with esi := f.fdf && decide (k.st = .passive) } })) ∧
      (k.txing = none → exec (.canArbitrationLost c) s = .next s ∧ ∀ ok d, exec (.canTxEnd c ok d) s = .next s) ∧
      (k.txing = some m.val → k.toMonitor = false →
        exec (.canArbitrationLost c) s = .next (can s c fun k => { k.setMb m.val { b with st := .pend } with rxBusy := true }) ∧
        ∀ d, (∃ s', exec (.canTxEnd c true d) s = .next s' ∧ (s'.can c).getMb m.val = { b with
            st := .done, time := s.canTime, nextseq := if b.kind = 0 then b.nextseq else b.nextseq + 1 } ∧
            (s'.can c).tec = (if k.onBus then k.tec - 1 else k.tec) ∧ (s'.can c).recv = k.recv) ∧
          (∃ s', exec (.canTxEnd c false d) s = .next s' ∧ (s'.can c).getMb m.val = { b with
            errs := min 0xFF (b.errs + 1), st := if b.retry ≠ 0 ∧ b.retry ≤ min 0xFF (b.errs + 1) then .retryEnd else .pend } ∧
            (s'.can c).tec = k.tec))) ∧
    (s.canOn c = true → s.wrd.mode = .runOut → b.st = .pend →
      exec (.canTxCompareMismatch c m) s = .next (detected s 3 (BitVec.ofNat 8 c.idx)))

/-- The controller's state follows CAN_CTL.OP, integration, recovery and its error counters; received frames reach the FIFO
through the first matching filter, safe-channel frames through their connection (R782, R783, R787 to R796; the readings of logs
104 to 106). -/
def Obligations.CanStatesAndReception : Prop :=
  ∀ (h c : Side) (ch : Fin 32) (f : CanFrame) (s : State),
    let who := h.tandem
    let k := s.can c
    let x := k.getRxc ch.val
    (∀ i ∈ [Instr.canOpOff .g c, .canOpMonitor .g c, .canOpActive .g c, .canRecover .g c, .canRxpop .g c, .canRxcOpen .g c ch,
      .canRxcClose .g c ch], exec i s = .next s) ∧
    (canBy s h c →
      (∃ s', exec (.canOpOff who c) s = .next s' ∧ (s'.can c).st = .off ∧ (s'.can c).op = 0 ∧ (k.txing = none → s' = can s c fun k =>
        entered { k with op := 0, toMonitor := false, rxBusy := false } .off)) ∧
      (k.st = .off → btOk k.bt k.fden = true → exec (.canOpMonitor who c) s =
        .next (can s c fun k => entered { k with op := 1, tec := 0, recv := 0 } .monitor)) ∧
      (k.st = .monitor → exec (.canOpMonitor who c) s = .next (can s c fun k => { k with op := 1 })) ∧
      (k.st ≠ .off → k.st ≠ .monitor → exec (.canOpActive who c) s =
        .next (can s c fun k => { k with cmphold := false })) ∧
      (k.st ≠ .off → k.st ≠ .monitor → exec (.canOpMonitor who c) s = .next (can s c fun k => { k with op := 1, toMonitor := true })) ∧
      (k.st = .off → btOk k.bt k.fden = false → exec (.canOpMonitor who c) s = .next (can s c fun k => raised k 0x40) ∧
        exec (.canOpActive who c) s = .next (can s c fun k => raised k 0x40)) ∧
      ((k.st = .off ∧ btOk k.bt k.fden = true) ∨ k.st = .monitor → exec (.canOpActive who c) s = .next (can s c fun k =>
        entered { k with op := 2, tec := 0, recv := 0, cmphold := false, toMonitor := false } .integrating)) ∧
      (k.st = .busOff → exec (.canRecover who c) s = .next (can s c fun k => entered k .recovering)) ∧
      (k.st ≠ .busOff → exec (.canRecover who c) s = .next s) ∧
      exec (.canRxpop who c) s = .next (can s c fun k => { k with fifo := k.fifo.drop 1 }) ∧
      exec (.canRxcOpen who c ch) s = .next (can s c fun k => k.setRxc ch.val { x with st := .sync }) ∧
      exec (.canRxcClose who c ch) s = .next (can s c fun k => k.setRxc ch.val { x with st := .closed })) ∧
    (onWire s c →
      (k.st ≠ .integrating → exec (.canIntegrationEnd c) s = .next s) ∧
      (k.st = .integrating → k.tec ≤ 127 → k.recv ≤ 127 →
        (k.toMonitor = false → exec (.canIntegrationEnd c) s = .next (can s c fun k => entered k .active)) ∧
        (k.toMonitor = true → (∀ m, m < 32 → (k.getMb m).st ≠ .tx) →
          (k.rxBusy = true → exec (.canIntegrationEnd c) s = .next (can s c fun k => entered k .active)) ∧
          (k.rxBusy = false → exec (.canIntegrationEnd c) s = .next (can s c fun k =>
            entered { entered k .active with toMonitor := false } .monitor)))) ∧
      (k.st ≠ .recovering → exec (.canRecoveryEnd c) s = .next s) ∧
      (k.st = .recovering →
        (k.toMonitor = false → exec (.canRecoveryEnd c) s = .next (can s c fun k => entered { k with tec := 0, recv := 0 } .active)) ∧
        (k.toMonitor = true → (∀ m, m < 32 → (k.getMb m).st ≠ .tx) → k.rxBusy = false → exec (.canRecoveryEnd c) s = .next (can s c fun k =>
          entered { entered { k with tec := 0, recv := 0 } .active with toMonitor := false } .monitor))) ∧
      (x.st = .sync ∨ x.st = .live → exec (.canConnectionTimeout c ch) s = .next (can s c fun k =>
        if x.ie then raised (k.setRxc ch.val { x with st := .timeout }) 2 else k.setRxc ch.val { x with st := .timeout })) ∧
      (x.st = .closed ∨ x.st = .timeout → exec (.canConnectionTimeout c ch) s = .next s) ∧
      (k.pexdis = true ∨ (k.onBus = false ∧ k.st ≠ .monitor) → exec (.canProtocolException c) s = .next (can s c noFrame)) ∧
      (k.pexdis = false → k.onBus = true →
        exec (.canProtocolException c) s = .next ((can s c fun k => noFrame (entered k .integrating)).vc 16)) ∧
      (k.pexdis = false → k.st = .monitor → exec (.canProtocolException c) s = .next ((can s c noFrame).vc 16)) ∧
      (f.fdf = true → k.fden = false → exec (.canFrameReceived c f) s = exec (.canProtocolException c) s) ∧
      (∀ e tx exempt extra,
        (k.st = .monitor → exec (.canBusError c e tx exempt extra) s = .next (can s c fun k => errCounted (noFrame k) e)) ∧
        (k.onBus = false → k.st ≠ .monitor → exec (.canBusError c e tx exempt extra) s = .next (can s c noFrame))) ∧
      (∀ e exempt extra, k.onBus = true →
        (∃ s', exec (.canBusError c e true exempt extra) s = .next s' ∧ (s'.can c).recv = k.recv ∧
          errCounts (s'.can c) = errCounts (errCounted k e) ∧
          let tec := k.tec + (if exempt then 0 else 8) + 8 * extra
          (s'.can c).tec = tec ∧ ((s'.can c).st = if 255 < tec then (if k.boman then .busOff else .recovering)
            else if 127 < tec ∨ 127 < k.recv then .passive else .active) ∧
          (e = .ack → k.st = .passive → (s'.can c).lonely = min 0xFFFF (k.lonely + 1))) ∧
        (∃ s', exec (.canBusError c e false exempt extra) s = .next s' ∧ (s'.can c).tec = k.tec ∧
          errCounts (s'.can c) = errCounts (errCounted k e) ∧
          (s'.can c).recv = min 255 (k.recv + (if exempt then 0 else 1) + 8 * extra))) ∧
      (k.st = .monitor → s.gate.released = true → k.toMonitor = false → (f.fdf = true → k.fden = true) →
        let s1 := { can s c noFrame with free := s.free + 1 }
        (f.rtr = true → exec (.canFrameReceived c f) s = .next (can s1 c fun k => { k with rtr := min 0xFF (k.rtr + 1) })) ∧
        (f.rtr = false → k.filter f = none → exec (.canFrameReceived c f) s = .next (can s1 c fun k => { k with noMatch := min 0xFF (k.noMatch + 1) })) ∧
        (∀ fl : Fin 128, f.rtr = false → k.filter f = some fl → let flt := (tget 0 k.flt fl.val).toNat
          (flt / 2 ^ 61 % 4 = 0 → k.fifo.length < 64 → exec (.canFrameReceived c f) s = .next (can s1 c fun k =>
            { k with fifo := k.fifo ++ [entry s f fl false false false 0] })) ∧
          (flt / 2 ^ 61 % 4 = 0 → 64 ≤ k.fifo.length → exec (.canFrameReceived c f) s = .next (can s1 c fun k =>
            raised { k with ovf := min 0xFF (k.ovf + 1) } 0x10)) ∧
          (flt / 2 ^ 61 % 4 = 2 → flt / 2 ^ 53 % 32 = ch.val →
            let bs := (List.range f.n).map f.byte
            (x.st = .closed ∨ x.st = .timeout → exec (.canFrameReceived c f) s = .next (can s1 c fun k =>
              k.setRxc ch.val { x with drop := min 0xFFFF (x.drop + 1) })) ∧
            (x.st = .sync ∨ x.st = .live →
              (f.n < 8 ∨ f.n ≠ dlcLen true x.dlc.toNat → exec (.canFrameReceived c f) s = .next (s1.vc 17)) ∧
              (8 ≤ f.n → f.n = dlcLen true x.dlc.toNat →
                let crcGood := ofBytes (bs.drop (f.n - 4)) = safeCrc (if f.ide then f.id else f.id &&& 0x7FF) f.ide (bs.take (f.n - 4))
                let connGood := ofBytes ((bs.drop 2).take 2) % 2 ^ 15 = x.conn.toNat
                (¬ crcGood → exec (.canFrameReceived c f) s = .next (s1.vc 18)) ∧
                (crcGood → ¬ connGood → exec (.canFrameReceived c f) s = .next (s1.vc 19)) ∧
                (crcGood → connGood → x.st = .live → x.lost ≤ 0xFFFF → k.fifo.length < 64 → ofBytes (bs.take 2) = x.eseq.toNat →
                  ∃ s', exec (.canFrameReceived c f) s = .next s' ∧ (s'.can c).fifo = k.fifo ++
                    [entry s f fl true false (decide (2 ^ 15 ≤ ofBytes ((bs.drop 2).take 2))) ch] ∧
                  (s'.can c).getRxc ch.val = { x with st := .live, eseq := x.eseq + 1, acc := x.acc + 1 } ∧ s'.irt = s.irt)))))))

/-- A field command that the tag hears is checked in the order of Table 18-3, answers with the blocks, the lock status or the
fixed data, or writes up to four unlocked blocks; Inventory, Stay quiet, Select and Reset to ready move the tag between its
states; what it does not hear it does not answer; an access holds the store for a time (R821 to R827, R836, R838, R842, R846,
Tables 18-1 to 18-3; what is taken from ISO/IEC 15693, log 107; the hold and the programming, log 108; the island of a disabled
unit, log 62). -/
def Obligations.NfcFieldCommandsAreAnswered : Prop :=
  ∀ (r : NfcReq) (b8 n8 : Byte) (b16 n16 : BitVec 16) (d : BitVec 32) (ds : List (BitVec 32)) (s : State),
    let uid := bytesOf 8 s.nfcUid.toNat
    let reads : List (Instr × Nat × Nat × Bool) := [(.readSingleBlock r b8, b8.toNat, 1, false),
      (.readMultipleBlocks r b8 n8, b8.toNat, n8.toNat + 1, false), (.extendedReadSingleBlock r b16, b16.toNat, 1, true),
      (.extendedReadMultipleBlocks r b16 n16, b16.toNat, n16.toNat + 1, true)]
    let status : List (Instr × Nat × Nat × Bool) := [
      (.getMultipleBlockSecurityStatus r b8 n8, b8.toNat, n8.toNat + 1, false),
      (.extGetMultipleBlockSecurityStatus r b16 n16, b16.toNat, n16.toNat + 1, true)]
    let writes (p : NfcProg) : List (Instr × Nat × Nat × Bool × List (BitVec 32)) := [
      (.writeSingleBlock r b8 d p, b8.toNat, 1, false, [d]), (.writeMultipleBlocks r b8 n8 ds p, b8.toNat, n8.toNat + 1, false, ds),
      (.extendedWriteSingleBlock r b16 d p, b16.toNat, 1, true, [d]),
      (.extendedWriteMultipleBlocks r b16 n16 ds p, b16.toNat, n16.toNat + 1, true, ds)]
    let plain : List (Instr × NfcResp) := [(.getSystemInformation r, .ok (0x03 :: uid ++ [0, 0])),
      (.extendedGetSystemInformation r, .ok (0x04 :: uid ++ [0xFF, 0x1F, 0x03]))]
    (s.tagOn = false → (∀ q ∈ reads ++ status, exec q.1 s = .next s) ∧ (∀ p, ∀ q ∈ writes p, exec q.1 s = .next s) ∧
      (∀ q ∈ plain, exec q.1 s = .next s) ∧ exec .nfcLineError s = .next s ∧ exec (.stayQuiet r) s = .next s ∧
      exec (.select r) s = .next s ∧ exec (.resetToReady r) s = .next s ∧ ∀ cu, exec (.nfcUnsupportedCommand r cu) s = .next s) ∧
    (s.tagOn = true → r.codingOk = false → (∀ q ∈ reads ++ status, exec q.1 s = .next (answered (violation s 32) .none))) ∧
    (s.tagOn = true → r.codingOk = true → s.nfc.listens r = false → (∀ q ∈ reads ++ status, exec q.1 s = .next (answered s .none))) ∧
    (hears s r → s.nfc.run = none →
      (r.lengthOk = false → ∀ q ∈ reads ++ status, exec q.1 s = .next (answered (violation s 33) (.err 0x02))) ∧
      (∀ cu, cu = false ∨ r.selectFlag = true ∨ r.addressed ≠ none →
        exec (.nfcUnsupportedCommand r cu) s = .next (answered (violation s 33) (.err 0x01))) ∧
      (r.lengthOk = true →
        (∀ q ∈ reads ++ status, r.extFlag = true → q.2.2.2 = false → exec q.1 s = .next (answered (violation s 32) (.err 0x03))) ∧
        (∀ q ∈ reads ++ status, r.extFlag = false ∨ q.2.2.2 = true →
          (64 < q.2.2.1 → exec q.1 s = .next (answered (violation s 34) (.err 0xA2))) ∧
          (q.2.2.1 ≤ 64 → (if q.2.2.2 then 8192 else 256) < q.2.1 + q.2.2.1 →
            exec q.1 s = .next (answered (violation s 34) (.err 0x10)))) ∧
        (∀ q ∈ reads, r.extFlag = false ∨ q.2.2.2 = true → q.2.2.1 ≤ 64 → q.2.1 + q.2.2.1 ≤ (if q.2.2.2 then 8192 else 256) →
          exec q.1 s = .next (answered (held s 100) (.ok (readBytes s.nfc r.optionFlag q.2.1 q.2.2.1)))) ∧
        (∀ q ∈ status, r.extFlag = false ∨ q.2.2.2 = true → q.2.2.1 ≤ 64 → q.2.1 + q.2.2.1 ≤ (if q.2.2.2 then 8192 else 256) →
          exec q.1 s = .next (answered (held s 100) (.ok ((List.range q.2.2.1).map fun i => if s.nfc.locked (q.2.1 + i) then 1 else 0)))) ∧
        (∀ q ∈ writes .ok, r.optionFlag = false → r.extFlag = false ∨ q.2.2.2.1 = true → q.2.2.2.2.length = q.2.2.1 →
          q.2.2.1 ≤ 4 → q.2.1 + q.2.2.1 ≤ (if q.2.2.2.1 then 8192 else 256) →
          let h := held s (4500 * q.2.2.1 + 1341);
          ((∃ i, i < q.2.2.1 ∧ s.nfc.locked (q.2.1 + i) = true) → exec q.1 s = .next (answered (violation h 35) (.err 0xA1))) ∧
          ((∀ i, i < q.2.2.1 → s.nfc.locked (q.2.1 + i) = false) → ∃ n : Nfc, exec q.1 s = .next { h with nfc := n } ∧
            n.hold = h.nfc.hold ∧ wroteBlocks s.nfc n q.2.1 q.2.2.2.2 ∧ n.resp = .ok [] ∧ n.locks = s.nfc.locks ∧ n.tag = s.nfc.tag ∧
            (s.gate.released = true → s.nfcOn = true → n.evt = s.nfc.evt ||| 4 ∧ n.fwBlock.toNat = q.2.1 ∧ n.fwN.toNat = q.2.2.1))) ∧
        (∀ q ∈ plain, r.extFlag = false ∨ q.1 = .extendedGetSystemInformation r → exec q.1 s = .next (answered s q.2)) ∧
        (r.extFlag = false →
          (r.addressed = some true →
            exec (.stayQuiet r) s = .next (answered (nfc s fun n => { n with tag := .quiet }) .none) ∧
            exec (.select r) s = .next (answered (nfc s fun n => { n with tag := .selected }) (.ok []))) ∧
          (r.addressed ≠ some true → exec (.stayQuiet r) s = .next (answered s .none)) ∧
          exec (.resetToReady r) s = .next (answered (nfc s fun n => { n with tag := .ready }) (.ok []))))) ∧
    (s.tagOn = true → exec .nfcLineError s = .next (nfc s fun n => { n with
      resp := .none, line := if s.gate.released = true ∧ s.nfcOn = true then min 0xFFFF (n.line + 1) else n.line })) ∧
    (∀ (afi : Option Byte) (len : InvMask) (mask : W64), s.tagOn = true → r.codingOk = true →
      (s.nfc.tag = .quiet → exec (.inventory r afi len mask) s = .next (answered s .none)) ∧
      (s.nfc.tag ≠ .quiet → r.lengthOk = true → r.extFlag = false →
        (afi.getD 0 = 0 → maskFits len mask s.nfcUid →
          exec (.inventory r afi len mask) s = .next (answered s (.ok (0 :: uid)))) ∧
        (afi.getD 0 ≠ 0 ∨ ¬ maskFits len mask s.nfcUid →
          exec (.inventory r afi len mask) s = .next (answered s .none))))

/-- A host command is refused while one is under way, else it starts and, at its end, has moved its blocks between the store and
the window unless its range or its owner's right fails; a lock write takes effect when it has persisted; a field change puts the
tag in Ready; tandem G's mirrors write their records through the host window, at release every slot whose RECNO differs (R829 to
R837, R843, R847; the host window and its holds, log 108; a lock under way, log 109; the records' bytes and the order of copies,
log 110). -/
def Obligations.NfcHostWindowAndMirrors : Prop :=
  ∀ (who : Tandem) (v : BitVec 32) (us : BitVec 21) (fail : Option (Fin 64)) (present : Bool) (s : State),
    let n := s.nfc
    (reaches s who blkNFC → s.nfcOn = true → s.gate.released = false →
      exec (.nfcHostCommand who v) s = .next s ∧ exec (.nfcLockWrite who v) s = .next s) ∧
    (reaches s who blkNFC → s.nfcOn = true → s.gate.released = true →
      let write := v.getLsbD 30
      let fields (n : Nfc) : Nfc := { n with dir := write, count := (v >>> 23).setWidth 7, start := v.setWidth 13 }
      (v.getLsbD 31 = false → exec (.nfcHostCommand who v) s = .next (nfc s fields)) ∧
      (v.getLsbD 31 = true → n.run ≠ none ∨ (write = true ∧ n.lockbusy = true) ∨ s.wrd.mode = .runOut →
        exec (.nfcHostCommand who v) s = .next (nfc s fun n => { n with refused := true })) ∧
      (v.getLsbD 31 = true → n.run = none → (write = true → n.lockbusy = false) → s.wrd.mode ≠ .runOut →
        exec (.nfcHostCommand who v) s = .next (nfc s fun n => { fields n with
          run := some ⟨write, v.toNat / 2 ^ 23 % 2 ^ 7, v.toNat % 2 ^ 13⟩, runAt := 0, err := 0, waitus := 0,
          waits := if n.hold.isSome then 1 else 0, waited := n.hold.isSome,
          owner := match who with | .a => 0 | .b => 1 | .g => 2 })) ∧
      (n.lockbusy = true → exec (.nfcLockWrite who v) s = .next s) ∧
      (n.lockbusy = false →
        exec (.nfcLockWrite who v) s = .next (nfc s fun n => { n with lockReg := (v >>> 18).setWidth 14, lockbusy := true }))) ∧
    (n.lockbusy = true → s.clk.crystal = true → exec .nfcLockPersisted s = .next (nfc s fun n => { n with locks := n.lockReg, lockbusy := false })) ∧
    (n.lockbusy = false ∨ s.clk.crystal = false → exec .nfcLockPersisted s = .next s) ∧
    (present = n.field → exec (.nfcFieldChange present) s = .next s) ∧
    (present ≠ n.field → exec (.nfcFieldChange present) s = .next (nfc s fun n => { n with
      field := present, tag := .ready, hold := none, evt := if s.gate.pgood = true ∧ s.nfcOn = true then n.evt ||| 2 else n.evt })) ∧
    (n.run = none ∨ s.clk.crystal = false → exec (.nfcHostCommandEnd us fail) s = .next s) ∧
    (∀ h, n.run = some h → s.clk.crystal = true →
      (64 < h.count ∨ 8192 < h.start + h.count → exec (.nfcHostCommandEnd us fail) s =
        .next (nfc s fun n => { n with run := none, runAt := 0, waits := 0, waited := false, done := true, err := 2, evt := n.evt ||| 1 })) ∧
      (h.count ≤ 64 → h.start + h.count ≤ 8192 →
        (h.write = true → n.owner.val < 2 → h.start < 4608 → h.count ≠ 0 → exec (.nfcHostCommandEnd us fail) s =
          .next (nfc s fun n => { n with run := none, runAt := 0, waits := 0, waited := false, done := true, err := 1, evt := n.evt ||| 1 })) ∧
        (n.runAt = 0 → h.write = false ∨ 2 ≤ n.owner.val ∨ 4608 ≤ h.start ∨ h.count = 0 →
          (∀ j, fail = some j → h.write = false ∨ h.count ≤ j.val) → ∃ n' : Nfc,
          exec (.nfcHostCommandEnd us fail) s = .next { s with nfc := n' } ∧ n'.run = none ∧ n'.done = true ∧ n'.err = 0 ∧
          n'.waitus = (if h.count = 0 then 0 else min us.toNat (20000 * n.waits)) ∧
          n'.hold = (if h.count = 0 then n.hold else none) ∧ n'.locks = n.locks ∧ n'.tag = n.tag ∧
          (h.write = true → n'.hbuf = n.hbuf ∧ ∀ b, n'.block b = if h.start ≤ b ∧ b < h.start + h.count then
            BitVec.ofNat 32 (ofBytes ((List.range 4).map fun i => tget 0 n.hbuf (4 * (b - h.start) + i))) else n.block b) ∧
          (h.write = false → n'.store = n.store ∧ ∀ i, tget 0 n'.hbuf i = if i < 4 * h.count then
            BitVec.ofNat 8 ((n.block (h.start + i / 4)).toNat / 2 ^ (8 * (i % 4))) else tget 0 n.hbuf i)) ∧
        (∀ j, fail = some j → n.runAt = 0 → h.write = true → 2 ≤ n.owner.val ∨ 4608 ≤ h.start → j.val < h.count → ∃ n' : Nfc,
          exec (.nfcHostCommandEnd us fail) s = .next { s with nfc := n' } ∧ n'.run = none ∧ n'.done = true ∧ n'.err = 3 ∧
          n'.hbuf = n.hbuf ∧ n'.locks = n.locks ∧ ∀ b, n'.block b = if h.start ≤ b ∧ b < h.start + j.val then
            BitVec.ofNat 32 (ofBytes ((List.range 4).map fun i => tget 0 n.hbuf (4 * (b - h.start) + i))) else n.block b))) ∧
    (s.mirrors = false ∨ s.clk.crystal = false → exec .nfcmakerMirror s = .next s ∧ ∀ w, exec (.tagStoreMirror w) s = .next s) ∧
    (s.mirrors = true → s.clk.crystal = true → n.run ≠ none ∨ n.lockbusy = true →
      exec .nfcmakerMirror s = .next (nfc s fun n => { n with refused := true }) ∧
      ∀ w, exec (.tagStoreMirror w) s = .next (nfc s fun n => { n with refused := true })) ∧
    (s.mirrors = true → s.clk.crystal = true → n.run = none → n.lockbusy = false →
      let ends (s' : State) (f : Nfc → Prop) : Prop := { s' with nfc := n, free := s.free } = s ∧ f s'.nfc;
      (∃ s', exec (.tagStoreMirror .identity) s = .next s' ∧ ends s' fun n' => n'.bytes 16 16 = s.identity ∧
        n'.bytes 0 1 = [0xE1, 0x43, 0x7F, 0x01] ∧ n'.owner = 2 ∧ n'.done = true ∧ (∀ b, 32 ≤ b → n'.block b = n.block b)) ∧
      (∃ s', exec (.tagStoreMirror .life) s = .next s' ∧ ends s' fun n' => n'.lifeB = decide (n.lifeTarget = 288) ∧ n'.bytes n.lifeTarget 16 = s.lifeRecord ∧
        n'.crcOk n.lifeTarget = true ∧ (∀ b, b < n.lifeTarget ∨ n.lifeTarget + 16 ≤ b → n'.block b = n.block b)) ∧
      (∀ i bs, s.ringBytes i.val = some bs → bs.length = 64 → ∃ s', exec (.tagStoreMirror (.slot i)) s = .next s' ∧ ends s' fun n' =>
        n'.bytes (512 + 16 * i.val) 16 = bs ∧ (n'.block 256).toNat = s.spk.newest.toNat) ∧
      (∃ s', exec (.tagStoreMirror .ring) s = .next s' ∧ ends s' fun n' =>
        (∀ i bs, i < 256 → s.ringBytes i = some bs → bs.length = 64 → (n'.bytes (512 + 16 * i) 2).take 6 = bs.take 6) ∧
        (∀ b, b ≠ 256 → b < 512 ∨ 4608 ≤ b → n'.block b = n.block b)) ∧
      ((s.gate.recs.find? fun r => r.type == 0x000B && r.val != []) = none → exec .nfcmakerMirror s = .next s) ∧
      (∀ rc, s.gate.recs.find? (fun r => r.type == 0x000B && r.val != []) = some rc → rc.val.length % 4 = 0 →
        ∃ s', exec .nfcmakerMirror s = .next s' ∧ ends s' fun n' => n'.bytes 4608 (rc.val.length / 4) = rc.val ∧
          (∀ b, b < 4608 ∨ 4608 + rc.val.length / 4 ≤ b → n'.block b = n.block b)))

/-- The link attaches while ATTEN is 1 and VBUS is valid, resets, chirps, suspends, resumes and wakes as the bus asks; a bus
reset returns both devices, the ports and the endpoints to their first state; EXT tokens and damaged packets are only counted,
and a write of USB_EPGO_e arms or releases the buffer it names or sets BADGO; SOFs and the hub's own timer reach the slower
ports; a suspend waits for a port that resumes (R186, R736, R739 to R742, R749, R756, R762, R763, R770, R773, Table 16-7; the
readings of logs 97, 98, 100 and 126). -/
def Obligations.UsbLinkFollowsItsBus : Prop :=
  ∀ (who : Tandem) (b idle : Bool) (frame : BitVec 11) (uf : BitVec 3) (v : BitVec 32) (e : Fin 5) (s : State),
    let u := s.usb
    (s.clk.crystal = false → exec (.vbusChange b) s = .next s) ∧
    (s.clk.crystal = true → exec (.vbusChange true) s = .next (usb s fun u =>
      if u.atten && mayPull s then { u with vbus := true, pullup := true } else unplugged { u with vbus := true })) ∧
    (u.vbus = false → exec (.vbusChange false) s = .next s) ∧
    (s.clk.crystal = true → s.gate.released = false ∨ s.devBusy blkUSB = true ∨ s.blkOn blkUSB = false →
      exec (.vbusChange false) s = .next (usb s fun u => { u with vbus := false })) ∧
    (s.clk.crystal = true → s.gate.released = true → s.devBusy blkUSB = false → s.blkOn blkUSB = true → u.vbus = true → ∃ s', exec (.vbusChange false) s = .next s' ∧ busWasReset s'.usb ∧ s'.usb.vbus = false ∧ s'.usb.pullup = false ∧
      s'.usb.wake = false ∧ s'.usb.evt = u.evt ||| 0x41) ∧
    (attached s → u.kOut = false → u.hs = false ∨ u.susp = true → ∃ s', exec .busReset s = .next s' ∧ busWasReset s'.usb ∧
      s'.usb.evt = u.evt ||| 1 ∧ s'.usb.chirp = (if u.fsonly then .none else .ours)) ∧
    (¬ attached s ∨ u.kOut = true → exec .busReset s = .next s) ∧
    (awake s → u.hs = true →
      (∃ s', exec (.highSpeedIdle true) s = .next s' ∧ busWasReset s'.usb ∧ s'.usb.evt = u.evt ||| 1) ∧
      ((∀ p ∈ u.ports, p.2.st ≠ .resuming) →
        exec (.highSpeedIdle false) s = .next (usb s fun u => evts { u with susp := true, suspDue := false } 2)) ∧
      ((∃ p ∈ u.ports, p.2.st = .resuming) → exec (.highSpeedIdle false) s = .next (usb s fun u => { u with suspDue := true }))) ∧
    (u.hs = false → exec (.highSpeedIdle b) s = .next s) ∧
    (attached s → u.chirp = .ours → exec .chirpKEnd s = .next (usb s fun u => { u with chirp := .waiting })) ∧
    (u.chirp ≠ .ours → exec .chirpKEnd s = .next s) ∧
    (attached s → u.chirp = .waiting → exec .hostChirp s = .next (usb s fun u => { u with chirp := .none, hs := true }) ∧
      exec .chirpTimeout s = .next (usb s fun u => { u with chirp := .none, hs := false })) ∧
    (u.chirp ≠ .waiting → exec .hostChirp s = .next s ∧ exec .chirpTimeout s = .next s) ∧
    (awake s → u.hs = false → u.chirp = .none → (∀ p ∈ u.ports, p.2.st ≠ .resuming) →
      exec .suspend s = .next (usb s fun u => evts { u with susp := true, suspDue := false } 2)) ∧
    (awake s → u.hs = false → u.chirp = .none → (∃ p ∈ u.ports, p.2.st = .resuming) →
      exec .suspend s = .next (usb s fun u => { u with suspDue := true })) ∧
    (¬ awake s ∨ u.hs = true ∨ u.chirp ≠ .none → exec .suspend s = .next s) ∧
    (attached s → u.susp = true → u.kOut = false → exec .resume s = .next (usb s fun u => evts { u with susp := false } 4)) ∧
    (u.susp = false → exec .resume s = .next s) ∧
    (reaches s who blkUSB → u.kOut = false →
      (u.susp = true → u.fnRwe = true → exec (.usbRemoteWakeup who true) s = .next (usb s fun u => { u with wake := true, kOut := true })) ∧
      (u.susp = false ∨ u.fnRwe = false ∨ idle = false → exec (.usbRemoteWakeup who idle) s = .next s)) ∧
    (attached s → exec .remoteWakeupKEnd s = .next (usb s fun u => { u with wake := false, kOut := false })) ∧
    (¬ attached s → ∀ i ∈ [Instr.remoteWakeupKEnd, .resume, .chirpKEnd, .hostChirp, .chirpTimeout], exec i s = .next s) ∧
    (awake s →
      (∃ u', exec (.sofReceived frame uf) s = .next { s with usb := u' } ∧ sofSent
        (evts { u with frame := frame, uframe := if u.hs then uf else 0, ownTimer := false, suspDue := false } 0x80) u') ∧
      (∃ u', exec .sofTimer s = .next { s with usb := u' } ∧ sofSent
        (if u.hs = true ∧ u.uframe ≠ 7 then { u with ownTimer := true, uframe := u.uframe + 1 }
          else { u with ownTimer := true, uframe := 0, frame := u.frame + 1 }) u') ∧
      exec .extToken s = .next (replied (s.vc 3) .none) ∧
      exec .usbLineErrorPacket s = .next (replied (usb s fun u => { u with line := min 0xFFFF (u.line + 1) }) .none)) ∧
    (¬ awake s → ∀ i ∈ [Instr.sofReceived frame uf, .sofTimer, .extToken, .usbLineErrorPacket], exec i s = .next s) ∧
    (reaches s who blkUSB →
      (v.getLsbD 2 = false → ∃ s', exec (.usbAttenWrite who v) s = .next s' ∧ s'.usb.fsonly = v.getLsbD 1 ∧
        s'.usb.atten = (v.getLsbD 0 && (u.atten || u.idok)) ∧ s'.usb.pullup = (s'.usb.atten && u.vbus && mayPull s) ∧
        s'.usb.testen = (if s.wrd.mode = .service then v.getLsbD 3 else u.testen)) ∧
      ((e = 2 ∨ e = 3) → who ≠ .g → exec (.usbEpgo who e v) s = .next s) ∧
      ((e ≠ 2 ∧ e ≠ 3) ∨ who = .g →
        let p := u.ep e.val
        let n := v.setWidth 7
        let bad := exec (.usbEpgo who e v) s = .next (usb s fun u => evts u 0x200)
        (e.val < 3 → bufState p (v.getLsbD 16) = true ∨ 64 < n.toNat → bad) ∧
        (e.val < 3 → bufState p (v.getLsbD 16) = false → n.toNat ≤ 64 → exec (.usbEpgo who e v) s = .next (epTo s e.val
          (if v.getLsbD 16 then { withBuf p true true with len1 := n } else { withBuf p false true with len0 := n }))) ∧
        (3 ≤ e.val → bufState p (v.getLsbD 16) = false → bad) ∧
        (3 ≤ e.val → bufState p (v.getLsbD 16) = true → exec (.usbEpgo who e v) s = .next (epTo s e.val (withBuf p (v.getLsbD 16) false)))))

/-- A device that hears its bus accepts every SETUP with ACK, abandoning the transfer under way, and answers the requests of
Tables 16-4 and 16-6 as they give, with their data, their effect or STALL and VC_USB_REQ; a SETUP packet that is too long gets
no handshake; what arrives while the link sleeps does nothing (R738, R746, R753 to R755, R760, R765, R767, R769; what USB 2.0
says of a request's fields is taken from outside the spec, log 96; the port states, log 97). -/
def Obligations.UsbRequestsAreAnswered : Prop :=
  ∀ (d : UsbDev) (req : Byte) (w : Setup) (s : State),
    let u := s.usb
    let codes : List (Nat × Nat × Instr) := [
      (0, 0, .getStatus d w), (0, 1, .clearFeature d w), (0, 3, .setFeature d w), (0, 5, .setAddress d w), (0, 6, .getDescriptor d w),
      (0, 7, .setDescriptor d w), (0, 8, .getConfiguration d w), (0, 9, .setConfiguration d w), (0, 10, .getInterface d w),
      (0, 11, .setInterface d w), (0, 12, .synchFrame d w)] ++ (match d with
      | .fn => [(1, 1, .getReport .fn w), (1, 2, .getIdle .fn w), (1, 3, .getProtocol .fn w), (1, 9, .setReport .fn w),
        (1, 10, .setIdle .fn w), (1, 11, .setProtocol .fn w)]
      | .hub => [(1, 1, .clearPortFeature w), (1, 3, .setPortFeature w), (1, 6, .getHubDescriptor w), (1, 7, .setHubDescriptor w),
        (1, 8, .clearTtBuffer w), (1, 9, .resetTt w), (1, 10, .getTtState w), (1, 11, .stopTt w)])
    let hubOnly : List Instr := [.getHubStatus w, .clearHubFeature w, .setHubFeature w, .getPortStatus w]
    let ty := w.bmRequestType.toNat / 32 % 4
    let low := w.wIndex.toNat % 256
    let goodPort := u.hubcfg = true ∧ 1 ≤ low ∧ low ≤ 4
    let p := u.port low
    let tt := w.bmRequestType = 0x23 ∧ w.wIndex = 1 ∧ w.wLength = 0 ∧ u.hubcfg = true
    (¬ awake s → (∀ q ∈ codes, exec q.2.2 s = .next s) ∧ (∀ i ∈ hubOnly, exec i s = .next s) ∧
      ∀ p, exec (.setupPacket d req p) s = .next s) ∧
    (awake s → ¬ hearsBus s d → (∀ q ∈ codes, exec q.2.2 s = .next (replied s .none)) ∧
      ∀ p, exec (.setupPacket d req p) s = .next (replied s .none)) ∧
    (hearsBus s d → exec (.setupPacket d req .long) s = .next (replied (s.vc 6) .none)) ∧
    (∀ q ∈ codes, ty = q.1 → req.toNat = q.2.1 → exec (.setupPacket d req (.fields w)) s = exec q.2.2 s) ∧
    (hearsBus s d →
      (w.wLength ≠ 0 → ∀ i ∈ [Instr.clearFeature d w, .setFeature d w, .setAddress d w, .setConfiguration d w, .setInterface d w],
        exec i s = .next (refusedReq s d)) ∧
      (∀ i ∈ Instr.setupPacket d req (.fields w) :: codes.map (·.2.2), ∃ s', exec i s = .next s' ∧ s'.usb.resp = .ack) ∧
      (ty ≠ 0 → ty ≠ 1 → exec (.setupPacket d req (.fields w)) s = .next (refusedReq s d)) ∧
      (∀ i ∈ [Instr.setDescriptor d w, .synchFrame d w, .setReport d w, .getIdle d w, .setIdle d w, .getProtocol d w, .setProtocol d w],
        exec i s = .next (refusedReq s d)) ∧
      (w.wLength ≠ 2 ∨ w.wValue ≠ 0 → exec (.getStatus d w) s = .next (refusedReq s d)) ∧
      (w.wLength = 2 → w.wValue = 0 →
        (w.bmRequestType = 0x80 → w.wIndex = 0 → exec (.getStatus d w) s =
          .next (readReq s d w [if (match d with | .hub => u.hubRwe | .fn => u.fnRwe) then 3 else 1, 0])) ∧
        (w.bmRequestType = 0x81 → u.cfg d = true → w.wIndex.toNat < interfaces d → exec (.getStatus d w) s = .next (readReq s d w [0, 0])) ∧
        (∀ e : Fin 3, d = .fn → w.bmRequestType = 0x82 → u.fncfg = true → w.wIndex.toNat = 0x81 + e.val →
          exec (.getStatus d w) s = .next (readReq s d w [if (u.ep e.val).halt then 1 else 0, 0]))) ∧
      (w.bmRequestType = 0 → w.wValue = 1 → w.wIndex = 0 → w.wLength = 0 →
        exec (.setFeature d w) s = .next (doneReq s d fun u => match d with
          | .hub => { u with hubRwe := true } | .fn => { u with fnRwe := true }) ∧
        exec (.clearFeature d w) s = .next (doneReq s d fun u => match d with
          | .hub => { u with hubRwe := false } | .fn => { u with fnRwe := false })) ∧
      (∀ e : Fin 3, d = .fn → w.bmRequestType = 2 → w.wValue = 0 → w.wLength = 0 → u.fncfg = true → w.wIndex.toNat = 0x81 + e.val →
        exec (.clearFeature d w) s = .next (doneReq s d fun u =>
          evts (u.setEp e.val { u.ep e.val with halt := false, toggle := false }) (if (u.ep e.val).halt then 0x30 else 0x20)) ∧
        exec (.setFeature d w) s = .next (doneReq s d fun u =>
          evts (u.setEp e.val { u.ep e.val with halt := true }) (if (u.ep e.val).halt then 0x20 else 0x30))) ∧
      (w.bmRequestType = 0 → w.wValue = 2 → u.testen = false → exec (.setFeature d w) s = .next (refusedReq s d)) ∧
      (w.bmRequestType = 0 → w.wValue = 2 → u.testen = true → w.wLength = 0 →
        (∀ t : Fin 6, t ≠ 0 → t ≠ 5 → w.wIndex.toNat = 256 * t.val → exec (.setFeature d w) s = .next (doneReq s d fun u => match d with
          | .hub => { u with testNew := t } | .fn => { u with fnTestNew := t })) ∧
        ((∀ t, 1 ≤ t → t ≤ 4 → w.wIndex.toNat ≠ 256 * t) → exec (.setFeature d w) s = .next (refusedReq s d))) ∧
      (w.bmRequestType = 0 → w.wIndex = 0 → w.wLength = 0 → u.cfg d = false → w.wValue.toNat < 128 → exec (.setAddress d w) s =
        .next (doneReq s d fun u => match d with
          | .hub => { u with hubNewAddr := some (w.wValue.setWidth 7) } | .fn => { u with fnNewAddr := some (w.wValue.setWidth 7) })) ∧
      (u.cfg d = true ∨ 128 ≤ w.wValue.toNat → exec (.setAddress d w) s = .next (refusedReq s d)) ∧
      (w.wIndex ≠ 0 → w.wValue ∈ [0x0100, 0x0200, 0x0600, 0x0700] → exec (.getDescriptor d w) s = .next (refusedReq s d)) ∧
      (w.bmRequestType = 0x80 → w.wValue = 0x0100 → w.wIndex = 0 → ∃ m1 m2 m3 : Byte, exec (.getDescriptor d w) s = .next (readReq s d w
        (([0x12, 0x01, 0x00, 0x02] : List Byte) ++ (if d = .hub then [0x09, 0, if u.hs then 1 else 0] else [0, 0, 0]) ++ [0x40] ++
          bytesOf 2 u.vid.toNat ++ bytesOf 2 (if d = .hub then u.hubPid else u.fnPid).toNat ++ bytesOf 2 u.bcdDev.toNat ++
          [m1, m2, m3, 1]))) ∧
      (w.bmRequestType = 0x80 → w.wValue = 0x0300 → w.wIndex = 0 ∨ w.wIndex = 0x0409 → exec (.getDescriptor d w) s = .next (readReq s d w [4, 3, 9, 4])) ∧
      (d = .fn → w.bmRequestType = 0x81 → w.wIndex = 0 → w.wValue = 0x2200 → exec (.getDescriptor d w) s = .next (readReq s d w
        [0x06, 0x00, 0xFF, 0x09, 0x01, 0xA1, 0x01, 0x09, 0x02, 0x15, 0x00, 0x26, 0xFF, 0x00, 0x75, 0x08, 0x95, 0x40, 0x81, 0x02, 0xC0])) ∧
      (w.wValue.toNat / 256 = 0x0F → exec (.getDescriptor d w) s = .next (refusedReq s d)) ∧
      (w.bmRequestType = 0x80 → w.wLength = 1 → w.wValue = 0 → w.wIndex = 0 →
        exec (.getConfiguration d w) s = .next (readReq s d w [if u.cfg d then 1 else 0])) ∧
      (w.wLength ≠ 1 → exec (.getConfiguration d w) s = .next (refusedReq s d) ∧ exec (.getInterface d w) s = .next (refusedReq s d)) ∧
      (w.bmRequestType = 0x81 → w.wLength = 1 → w.wValue = 0 → u.cfg d = true → w.wIndex.toNat < interfaces d →
        exec (.getInterface d w) s = .next (readReq s d w [0])) ∧
      (u.cfg d = false → exec (.getInterface d w) s = .next (refusedReq s d) ∧ exec (.setInterface d w) s = .next (refusedReq s d)) ∧
      (w.bmRequestType = 1 → w.wValue = 0 → w.wLength = 0 → u.cfg d = true → w.wIndex.toNat < interfaces d → ∃ u' : Usb,
        exec (.setInterface d w) s = .next { s with usb := u' } ∧ u'.resp = .ack ∧ u'.ep0 d = .statusIn false ∧
        (d = .fn → u'.evt = u.evt ||| 0x20 ∧ ∀ e : Fin 5, u'.ep e.val = if e.val ∈ [[0], [1, 4], [2, 3]].getD w.wIndex.toNat [] then
          { u.ep e.val with halt := false, toggle := false } else u.ep e.val)) ∧
      (1 < w.wValue.toNat → exec (.setConfiguration d w) s = .next (refusedReq s d)) ∧
      (w.bmRequestType = 0 → w.wIndex = 0 → w.wLength = 0 → w.wValue.toNat < 2 → u.cfg d = true ∨ u.addr d ≠ 0 → ∃ s',
        exec (.setConfiguration d w) s = .next s' ∧ s'.usb.cfg d = decide (w.wValue = 1) ∧ s'.usb.ep0 d = .statusIn false ∧
        s'.usb.resp = .ack ∧ (d = .fn → s'.usb.evt = u.evt ||| 8 ∧ ∀ e, e < 5 → emptied (s'.usb.ep e)) ∧
        (d = .hub → w.wValue = 0 → ∀ n, 1 ≤ n → n ≤ 4 → (s'.usb.port n).st = .poweredOff)) ∧
      (d = .fn → w.bmRequestType = 0xA1 → u.fncfg = true → w.wIndex = 0 → w.wValue = 0x0100 →
        (u.report = [] → exec (.getReport d w) s = .next (readReq s d w (List.replicate 64 0))) ∧
        (u.report.length = 64 → exec (.getReport d w) s = .next (readReq s d w u.report)))) ∧
    (awake s →
      (∀ i ∈ [Instr.clearHubFeature w, .setHubFeature w, .setHubDescriptor w], exec i s = .next (refusedReq s .hub)) ∧
      (w.bmRequestType = 0xA0 → w.wValue = 0 → w.wIndex = 0 → w.wLength = 4 →
        exec (.getHubStatus w) s = .next (readReq s .hub w [1, 0, 0, 0])) ∧
      (w.wValue ≠ 0x2900 ∨ w.wIndex ≠ 0 → exec (.getHubDescriptor w) s = .next (refusedReq s .hub)) ∧
      (w.bmRequestType = 0xA0 → w.wValue = 0x2900 → w.wIndex = 0 → ∃ b : Byte,
        exec (.getHubDescriptor w) s = .next (readReq s .hub w [9, 0x29, 4, 0x0D, 0, 10, 0, 2, b])) ∧
      (w.bmRequestType = 0xA3 → w.wValue = 0 → w.wLength = 4 → goodPort → w.wIndex.toNat < 256 →
        exec (.getPortStatus w) s = .next (readReq s .hub w (bytesOf 2 p.status ++ bytesOf 2 p.change.toNat))) ∧
      (w.wLength ≠ 0 ∨ (256 ≤ w.wIndex.toNat ∧ w.wValue ≠ 21) →
        exec (.setPortFeature w) s = .next (refusedReq s .hub) ∧ exec (.clearPortFeature w) s = .next (refusedReq s .hub)) ∧
      (¬ goodPort → exec (.getPortStatus w) s = .next (refusedReq s .hub) ∧ exec (.setPortFeature w) s = .next (refusedReq s .hub) ∧
        exec (.clearPortFeature w) s = .next (refusedReq s .hub)) ∧
      (w.bmRequestType = 0x23 → goodPort → w.wLength = 0 → w.wIndex.toNat < 256 ∨ w.wValue = 21 →
        let set (st : PortSt) := doneReq s .hub fun u => u.setPort low { p with st := st }
        let same := doneReq s .hub id
        (w.wValue = 8 → p.st = .poweredOff → u.ocPins.getLsbD low = false →
          (low ≠ 1 → exec (.setPortFeature w) s = .next (set .disconnected)) ∧
          (low = 1 → exec (.setPortFeature w) s = .next (doneReq s .hub fun u =>
            portTo u 1 { p with st := .disabled, speed := if u.hs then .high else .full } 1))) ∧
        (w.wValue = 4 → exec (.setPortFeature w) s = .next (if p.st = .poweredOff ∨ p.st = .disconnected ∨ (∃ t w b, p.st = .testing t w b) then same else set .resetting)) ∧
        (w.wValue = 2 → exec (.setPortFeature w) s = .next (if p.st = .enabled then set .suspended else same)) ∧
        (w.wValue = 21 → let sel := w.wIndex.toNat / 256
          (u.testen = false ∨ sel = 0 ∨ 5 < sel → exec (.setPortFeature w) s = .next (refusedReq s .hub)) ∧
          (∀ t : Fin 6, u.testen = true → t ≠ 0 → sel = t.val → exec (.setPortFeature w) s =
            .next (if p.st ∈ [.disabled, .disconnected, .suspended, .poweredOff]
              then set (.testing t (decide (p.st ≠ .poweredOff)) (decide (p.st ∈ [PortSt.disabled, .suspended]))) else same))) ∧
        (w.wValue = 22 → exec (.setPortFeature w) s = .next (refusedReq s .hub) ∧ exec (.clearPortFeature w) s = .next (refusedReq s .hub)) ∧
        (w.wValue = 1 → exec (.clearPortFeature w) s =
          .next (if p.st = .enabled ∨ p.st = .suspended ∨ p.st = .resuming then set .disabled else same)) ∧
        (w.wValue = 2 → exec (.clearPortFeature w) s = .next (if p.st = .suspended then set .resuming else same)) ∧
        (w.wValue = 8 → low ≠ 1 → exec (.clearPortFeature w) s = .next (set .poweredOff)) ∧
        (∀ b : Fin 5, w.wValue.toNat = 16 + b.val → exec (.clearPortFeature w) s = .next (doneReq s .hub fun u =>
          u.setPort low { p with change := p.change &&& ~~~(1#5 <<< b.val) }))) ∧
      (¬ tt → exec (.clearTtBuffer w) s = .next (refusedReq s .hub) ∧ exec (.resetTt w) s = .next (refusedReq s .hub) ∧
        exec (.stopTt w) s = .next (refusedReq s .hub)) ∧
      (w.wValue ≠ 0 → exec (.resetTt w) s = .next (refusedReq s .hub) ∧ exec (.stopTt w) s = .next (refusedReq s .hub)) ∧
      (tt →
        (w.wValue = 0 →
          exec (.resetTt w) s = .next (doneReq s .hub fun u => { u with np0 := none, np1 := none, per := [], stopped := false }) ∧
          exec (.stopTt w) s = .next (doneReq s .hub fun u => { u with stopped := true })) ∧
        exec (.clearTtBuffer w) s = .next (doneReq s .hub fun u =>
          let named (b : NpBuf) : Bool := decide (b.ep = w.wValue.setWidth 4 ∧ b.addr = (w.wValue >>> 4).setWidth 7)
          { u with np0 := u.np0.filter fun b => !named b, np1 := u.np1.filter fun b => !named b })) ∧
      (w.bmRequestType = 0xA3 → w.wIndex = 1 → u.hubcfg = true → exec (.getTtState w) s = .next (readReq s .hub w (bytesOf 4
        ((if u.stopped then 4096 else 0) + (if u.np1.isSome then 512 else 0) + (if u.np0.isSome then 256 else 0) +
          (u.per.filter fun e => !e.full).length)))))

/-- Tokens move a control transfer through its stages; an interrupt endpoint sends its armed buffer until it is acknowledged,
stores an OUT packet once, and answers NAK or STALL without changing a buffer; splits pass through the translator's buffers; and
the downstream ports follow their events; the console's USB session takes its characters from EP3 and gives EP3 its text (R744,
R745, R747, R748, R752, R755 to R759, R763, R764, R767, R768, R773; the readings of logs 96, 97, 99 and 117). -/
def Obligations.UsbTokensSplitsAndPorts : Prop :=
  ∀ (d : UsbDev) (ep : Fin 16) (data1 : Bool) (bs : List Byte) (a : BitVec 7) (n : BitVec 4) (r : TtResult) (s : State),
    let u := s.usb
    (nakTested s d → exec (.inToken d ep) s = .next (replied s .nak)) ∧
    (¬ awake s → ¬ nakTested s d → exec (.inToken d ep) s = .next s) ∧
    (¬ awake s → ∀ i ∈ [Instr.hostAck d ep, .noAckTimeout d ep, .outDataPacket d ep data1 bs, .ping d,
      .controlStartSplit a n, .interruptStartSplit a n, .bulkIsoStartSplit a n, .completeSplit data1 a n, .ttTransactionEnd data1 a n r,
      .ttPeriodicAbandon a n], exec i s = .next s) ∧
    (hearsBus s d →
      let seq := replied (usb (s.vc 5) fun u => u.setEp0 d .stalled) .stall
      (u.ep0 d = .stalled → exec (.inToken d 0) s = .next (replied s .stall) ∧
        (bs.length ≤ 64 → exec (.outDataPacket d 0 data1 bs) s = .next (replied s .stall))) ∧
      (u.ep0 d = .statusOut → exec (.inToken d 0) s = .next seq ∧
        exec (.outDataPacket d 0 data1 []) s = .next (replied (usb s fun u => u.setEp0 d .idle) .ack)) ∧
      (∀ left zlp tog sent, u.ep0 d = .dataIn left zlp tog sent →
        exec (.inToken d 0) s = .next (replied (usb s fun u => u.setEp0 d (.dataIn left zlp tog true)) (.data tog (left.take 64))) ∧
        (bs.length ≤ 64 → exec (.outDataPacket d 0 data1 bs) s = .next seq) ∧
        (sent = true → (64 < left.length → exec (.hostAck d 0) s =
            .next (usb s fun u => u.setEp0 d (.dataIn (left.drop 64) zlp (!tog) false))) ∧
          (left.length ≤ 64 → zlp = false → exec (.hostAck d 0) s = .next (usb s fun u => u.setEp0 d .statusOut)) ∧
          exec (.noAckTimeout d 0) s = .next (usb s fun u =>
            { u.setEp0 d (.dataIn left zlp tog false) with noack := min 0xFFFF (u.noack + 1) }))) ∧
      (u.ep0 d = .statusIn true → exec (.hostAck d 0) s = .next (usb s fun u => match d with
        | .hub => { u with hubEp0 := .idle, hubaddr := u.hubNewAddr.getD u.hubaddr, hubNewAddr := none,
                           testmode := if u.testNew = 0 then u.testmode else u.testNew, testNew := 0 }
        | .fn => { u with fnEp0 := .idle, fnaddr := u.fnNewAddr.getD u.fnaddr, fnNewAddr := none,
                          fnTest := if u.fnTestNew = 0 then u.fnTest else u.fnTestNew, fnTestNew := 0 })) ∧
      (u.hs = true → exec (.ping d) s = .next (replied s (if u.ep0 d = .statusOut then .ack else .nak))) ∧
      (64 < bs.length → exec (.outDataPacket d ep data1 bs) s = .next (replied (s.vc 6) .none)) ∧
      (ep ≠ 0 → u.cfg d = false → bs.length ≤ 64 →
        exec (.inToken d ep) s = .next (replied (s.vc 7) .none) ∧ exec (.outDataPacket d ep data1 bs) s = .next (replied (s.vc 7) .none)) ∧
      (d = .hub → u.hubcfg = true → u.scHalt = false →
        ((∀ k, 1 ≤ k → k ≤ 4 → (u.port k).change = 0) → exec (.inToken d 1) s = .next (replied s .nak)) ∧
        (∀ k, 1 ≤ k → k ≤ 4 → (u.port k).change ≠ 0 → ∃ x : Byte, x.getLsbD k = true ∧ x.getLsbD 0 = false ∧
          exec (.inToken d 1) s = .next (replied (usb s fun u => { u with scSent := true }) (.data u.scToggle [x]))))) ∧
    (∀ e : Fin 3, hearsBus s .fn → u.fncfg = true → u.served = true ∨ e = 2 → (e = 2 → consoleQuiet s) →
      let p := u.ep e.val
      let data := (List.range (if p.hwnext then p.len1 else p.len0).toNat).map fun i => tget 0 (if p.hwnext then p.buf1 else p.buf0) i
      (p.halt = true → exec (.inToken .fn (inEp e)) s = .next (replied s .stall)) ∧
      (p.halt = false → bufState p p.hwnext = false →
        exec (.inToken .fn (inEp e)) s = .next (replied (epTo s e.val { p with nak := min 0xFFFF (p.nak + 1) }) .nak)) ∧
      (p.halt = false → bufState p p.hwnext = true → ∃ rep, exec (.inToken .fn (inEp e)) s = .next (replied (usb (epTo s e.val
        { p with sent := true, dup := if p.sent || p.resend then min 0xFFFF (p.dup + 1) else p.dup }) fun u => { u with report := rep })
        (.data p.toggle data))) ∧
      (p.sent = true → exec (.hostAck .fn (inEp e)) s = .next (epTo s e.val
          { withBuf p p.hwnext false with toggle := !p.toggle, hwnext := !p.hwnext, sent := false, resend := false }) ∧
        exec (.noAckTimeout .fn (inEp e)) s = .next (usb (epTo s e.val { p with sent := false, resend := true })
          fun u => { u with noack := min 0xFFFF (u.noack + 1) })) ∧
      (p.sent = false → exec (.hostAck .fn (inEp e)) s = .next s ∧ exec (.noAckTimeout .fn (inEp e)) s = .next s)) ∧
    (hearsBus s .fn → u.fncfg = true →
      let p := u.ep 2
      let chars := ((s.ses 4).out.take 64).map fun c => BitVec.ofNat 8 c.toNat
      p.halt = false → bufState p p.hwnext = false → (s.ses 4).opn = true → chars ≠ [] → ∃ s',
        exec (.inToken .fn 3) s = .next s' ∧ s'.usb.resp = .data p.toggle chars ∧ (s'.ses 4).out = (s.ses 4).out.drop 64 ∧
        (s'.usb.ep 2).sent = true ∧ bufState (s'.usb.ep 2) p.hwnext = true ∧ s'.mem = s.mem) ∧
    (∀ e : Fin 2, hearsBus s .fn → u.fncfg = true → u.served = true ∨ e = 0 → bs.length ≤ 64 →
      let p := u.ep (e.val + 3)
      (p.halt = true → exec (.outDataPacket .fn (outEp e) data1 bs) s = .next (replied s .stall)) ∧
      (p.halt = false → data1 ≠ p.toggle → exec (.outDataPacket .fn (outEp e) data1 bs) s =
        .next (replied (epTo s (e.val + 3) { p with dup := min 0xFFFF (p.dup + 1) }) .ack)) ∧
      (p.halt = false → data1 = p.toggle → bufState p p.hwnext = true → exec (.outDataPacket .fn (outEp e) data1 bs) s =
        .next (replied (epTo s (e.val + 3) { p with nak := min 0xFFFF (p.nak + 1) }) .nak)) ∧
      (p.halt = false → data1 = p.toggle → bufState p p.hwnext = false → ∃ q : Ep,
        (let t := replied (epTo s (e.val + 3) q) .ack;
          (e = 0 → (s.ses 4).opn = true → ∃ t', typed bs t t' ∧ exec (.outDataPacket .fn (outEp e) data1 bs) s =
            .next (usb t' fun u => u.setEp 3 (withBuf (u.ep 3) (!(u.ep 3).hwnext) false))) ∧
          (e = 1 ∨ (s.ses 4).opn = false → exec (.outDataPacket .fn (outEp e) data1 bs) s = .next t)) ∧ q.toggle = (!p.toggle) ∧
        q.hwnext = (!p.hwnext) ∧ bufState q p.hwnext = true ∧ bufState q (!p.hwnext) = bufState p (!p.hwnext) ∧
        (if p.hwnext then q.len1 else q.len0).toNat = bs.length ∧
        (∀ i, i < bs.length → tget 0 (if p.hwnext then q.buf1 else q.buf0) i = bs.getD i 0) ∧
        (if p.hwnext then q.buf0 else q.buf1) = (if p.hwnext then p.buf0 else p.buf1))) ∧
    (u.served = false → hearsBus s .fn → u.fncfg = true → bs.length ≤ 64 →
      (∀ e : Fin 2, exec (.inToken .fn (if e = 0 then 1 else 2)) s =
        .next (replied (epTo s e.val { u.ep e.val with nak := min 0xFFFF ((u.ep e.val).nak + 1) }) .nak)) ∧
      exec (.outDataPacket .fn 4 data1 bs) s = .next (replied (epTo s 4 { u.ep 4 with nak := min 0xFFFF ((u.ep 4).nak + 1) }) .nak)) ∧
    (awake s → u.hs = true →
      let b : NpBuf := ⟨a, n, none⟩
      (u.stopped = true → ∀ i ∈ [Instr.controlStartSplit a n, .interruptStartSplit a n, .bulkIsoStartSplit a n],
        exec i s = .next (replied s .nak)) ∧
      (u.stopped = false →
        (u.np0 = none → exec (.controlStartSplit a n) s = .next (replied (usb s fun u => { u with np0 := some b }) .ack)) ∧
        (u.np0 ≠ none → u.np1 = none → exec (.controlStartSplit a n) s = .next (replied (usb s fun u => { u with np1 := some b }) .ack)) ∧
        (u.np0 ≠ none → u.np1 ≠ none → exec (.controlStartSplit a n) s = .next (replied s .nak)) ∧
        exec (.bulkIsoStartSplit a n) s = .next (replied (s.vc 0) .stall) ∧
        ((∀ e ∈ u.per, e.full = false) →
          (u.per.length < 16 → exec (.interruptStartSplit a n) s =
            .next (replied (usb s fun u => { u with per := u.per ++ [⟨a, n, none, false⟩] }) .none)) ∧
          (16 ≤ u.per.length → exec (.interruptStartSplit a n) s =
            .next (replied (usb (s.vc 1) fun u => { u with per := u.per ++ [⟨a, n, none, true⟩] }) .none)))) ∧
      (u.np0 = some b → exec (.completeSplit true a n) s = .next (replied s (if u.stopped then .err else .nyet)) ∧
        exec (.ttTransactionEnd true a n r) s = .next (usb s fun u => { u with np0 := some ⟨a, n, some r⟩ })) ∧
      (u.np0 = some ⟨a, n, some r⟩ →
        exec (.completeSplit true a n) s = .next (replied (usb s fun u => { u with np0 := none }) (.split r))) ∧
      (u.np0 = none → u.np1 = none → exec (.completeSplit true a n) s = .next (replied (s.vc 5) (if u.stopped then .err else .none))) ∧
      (∀ l1 l2 : List PerEnt, (∀ e ∈ l1, ¬ (e.addr = a ∧ e.ep = n)) →
        (u.per = l1 → exec (.completeSplit false a n) s = .next (replied (s.vc 5) (if u.stopped then .err else .none)) ∧ exec (.ttPeriodicAbandon a n) s = .next s) ∧
        (u.per = l1 ++ ⟨a, n, none, false⟩ :: l2 →
          exec (.completeSplit false a n) s = .next (replied s (if u.stopped then .err else .nyet)) ∧
          ((∀ e ∈ l1, e.full = true ∨ e.result ≠ none) →
            exec (.ttTransactionEnd false a n r) s = .next (usb s fun u => { u with per := l1 ++ ⟨a, n, some r, false⟩ :: l2 })) ∧
          ((∃ e ∈ l1, e.full = false ∧ e.result = none) → exec (.ttTransactionEnd false a n r) s = .next s) ∧
          exec (.ttPeriodicAbandon a n) s = .next (usb (s.vc 2) fun u => { u with per := l1 ++ ⟨a, n, none, true⟩ :: l2 })) ∧
        (∀ res, u.per = l1 ++ ⟨a, n, res, true⟩ :: l2 → exec (.completeSplit false a n) s = .next (replied s .err)) ∧
        (u.per = l1 ++ ⟨a, n, some r, false⟩ :: l2 →
          exec (.completeSplit false a n) s = .next (replied (usb s fun u => { u with per := l1 ++ l2 }) (.split r))))) ∧
    (∀ (k : Fin 5) (low : Bool), 2 ≤ k.val → ¬ hubUp s → exec (.portOverCurrent k low) s = .next (usb s fun u => ocTo u k.val low)) ∧
    (∀ (k : Fin 5) (sp : UsbSpeed), hubUp s → 2 ≤ k.val →
      let p := u.port k.val
      let woken (u : Usb) : Usb := { u with kOut := u.kOut || (u.susp && u.hubRwe) }
      let gone := noDevice p
      (p.st = .disconnected → exec (.portConnect k sp) s =
        .next (usb s fun u => woken (portTo u k.val { p with st := .disabled, speed := sp } 1))) ∧
      (p.st ≠ .disconnected → exec (.portConnect k sp) s = .next s) ∧
      (¬ gone → exec (.portDisconnect k) s = .next (usb s fun u => woken (portTo u k.val { p with st := .disconnected } 1))) ∧
      (gone → exec (.portDisconnect k) s = .next s) ∧
      (p.st = .resetting → exec (.portResetEnd k sp) s = .next (usb s fun u => portTo u k.val { p with st := .enabled, speed := sp } 16)) ∧
      (p.st ≠ .resetting → exec (.portResetEnd k sp) s = .next s) ∧
      (p.st = .resuming →
        (u.suspDue = false ∨ (∃ q ∈ u.ports, q.1 ≠ k.val ∧ q.2.st = .resuming) →
          exec (.portResumeEnd k) s = .next (usb s fun u => portTo u k.val { p with st := .enabled } 4)) ∧
        (u.suspDue = true → (∀ q ∈ u.ports, q.1 ≠ k.val → q.2.st ≠ .resuming) → exec (.portResumeEnd k) s =
          .next (usb s fun u => evts { portTo u k.val { p with st := .enabled } 4 with susp := true, suspDue := false } 2))) ∧
      (p.st ≠ .resuming → exec (.portResumeEnd k) s = .next s) ∧
      (p.st = .suspended → exec (.portDeviceResume k) s =
        .next (usb s fun u => { u.setPort k.val { p with st := .resuming } with kOut := u.kOut || u.susp })) ∧
      (gone → exec (.portDeviceResume k) s = .next s) ∧
      (exec (.portOverCurrent k true) s =
        .next ((usb s fun u => woken (portTo (ocTo u k.val true) k.val { p with st := .poweredOff, oc := true } 8)).vc 9)) ∧
      (exec (.portOverCurrent k false) s = .next (usb s fun u => (ocTo u k.val false).setPort k.val { p with oc := false })) ∧
      (p.st = .enabled → exec (.downstreamBabble k) s = .next ((usb s fun u => portTo u k.val { p with st := .disabled } 2).vc 8)) ∧
      (p.st ≠ .enabled → exec (.downstreamBabble k) s = .next s))

/-- A session joins the characters it receives into lines, executes them one at a time in the order in which they ended, answers
a defective line with its code and a repeated tag with the stored reply; a long break ends the session, the end of the break
starts it again; the USB session is carried by the packets of EP3; its timers do what R868 to R871 give (R853 to R863, R869,
R873, Tables 19-3 and 19-8; how lines are taken and checked is the model's reading of logs 113, 115, 117 and 118, its timers
that of log 120, the reset after a reply that of log 123). -/
def Obligations.ConsoleLinesAreTaken : Prop :=
  ∀ (n : Fin 5) (c : Byte) (fr : Bool) (env : ConEnv) (l : Line) (s : State),
    let x := s.ses n
    let rest := uat s fun u => { u with queue := u.queue.drop 1 }
    (¬ hearsLine s n → exec (.consoleCharacter n c fr) s = .next s ∧ exec (.consoleBreak n fr) s = .next s) ∧
    (∀ u : Fin 4, n.val = u.val → hearsLine s n →
      (x.preLine = true ∨ (x.preCr = true ∧ fr = false ∧ c = 0x0A) → ∃ s', exec (.consoleCharacter n c fr) s = .next s' ∧
        s'.gate = s.gate.countPre u.val ∧ s' = { s with gate := s'.gate, uat := s'.uat } ∧ (s'.ses n).line = x.line ∧
        s'.uat.queue = s.uat.queue) ∧
      (x.preLine = false → x.preCr = true → fr = true ∨ c ≠ 0x0A → exec (.consoleCharacter n c fr) s =
        exec (.consoleCharacter n c fr) (sess s n fun x => { x with preCr := false }))) ∧
    (receives s n →
      (n.val < 4 → exec (.consoleCharacter n c true) s = .next (sess s n fun x =>
        { x with ferr := x.ferr + 1, afterCr := false, err := { x.err with frame := true } })) ∧
      (0x20 ≤ c.toNat → c.toNat ≤ 0x7E →
        (x.line.length < 200 → exec (.consoleCharacter n c false) s = .next (sess s n fun x =>
          echoed { x with line := x.line ++ [Char.ofNat c.toNat], raw := x.raw + 1, afterCr := false } [Char.ofNat c.toNat])) ∧
        (200 ≤ x.line.length → exec (.consoleCharacter n c false) s = .next (sess s n fun x =>
          { x with err := { x.err with long := true }, raw := x.raw + 1, afterCr := false }))) ∧
      (c = 9 → x.line.length < 200 → exec (.consoleCharacter n c false) s = .next (sess s n fun x =>
        echoed { x with line := x.line ++ [' '], raw := x.raw + 1, afterCr := false } [' '])) ∧
      (c = 8 ∨ c = 0x7F → x.line ≠ [] → exec (.consoleCharacter n c false) s = .next (sess s n fun x =>
        echoed { x with line := x.line.dropLast, raw := x.raw + 1, afterCr := false } [Char.ofNat 8, ' ', Char.ofNat 8])) ∧
      (c = 3 → exec (.consoleCharacter n c false) s = .next (sess s n fun x =>
        prompted (echoed { x with line := [], raw := 0, err := .none, afterCr := false } (txt "^C" ++ crlf)))) ∧
      (c = 10 → x.afterCr = true → exec (.consoleCharacter n c false) s = .next (sess s n fun x => { x with afterCr := false })) ∧
      (c = 13 ∨ (c = 10 ∧ x.afterCr = false) → exec (.consoleCharacter n c false) s = .next (uat
        (sess s n fun x => { echoed x crlf with line := [], raw := 0, err := .none, afterCr := decide (c = 13) })
        fun u => { u with queue := u.queue ++ [⟨n, x.line, x.err, x.raw + 1⟩] })) ∧
      (0x80 ≤ c.toNat → exec (.consoleCharacter n c false) s = .next (sess s n fun x =>
        { x with err := { x.err with char := true }, raw := x.raw + 1, afterCr := false })) ∧
      (n.val < 4 → exec (.consoleBreak n false) s = .next (sess s n fun x =>
        prompted { x with line := [], raw := 0, err := .none, afterCr := false, ferr := x.ferr + 1 })) ∧
      (n.val < 4 → ∃ s', exec (.consoleBreak n true) s = .next s' ∧ (s'.ses n).opn = false ∧ (s'.ses n).broken = true ∧
        (s'.ses n).out = [] ∧ (s'.ses n).replay = [] ∧ (s'.ses n).rate = x.rate0 ∧ s'.uat.helm ≠ some n ∧ ∀ q ∈ s'.uat.queue, q.ses ≠ n)) ∧
    (exec (.consoleBreak 4 fr) s = .next s) ∧
    (let p := s.usb.ep 2
     let out := (s.ses 4).out
     hearsBus s .fn → s.usb.fncfg = true → (s.ses 4).opn = true →
      (out ≠ [] → p.halt = false → p.next = false → ∃ s', exec (.inToken .fn 3) s = .next s' ∧
        s'.usb.resp = .data p.toggle ((out.take 64).map fun c => BitVec.ofNat 8 c.toNat) ∧ (s'.ses 4).out = out.drop 64 ∧
        s'.uat.afterLeft = s.uat.afterLeft.map (· - 64)) ∧
      (∀ exit, p.sent = true → s.uat.after = .warm exit → s.uat.afterSes = 4 → s.uat.afterLeft = some 0 →
        ∃ s', exec (.hostAck .fn 3) s = .next s' ∧ s'.uat.after = .none ∧
          s'.clk = { s.clk with warmReq := some (if exit then .exitVerb else .resetVerb) })) ∧
    (s.clk.crystal = true → x.broken = true → x.opn = false → s.sesExists n = true → ∃ s', exec (.uartBreakEnd n) s = .next s' ∧ (s'.ses n).opn = true ∧
      (s'.ses n).broken = false ∧ x.out.length < (s'.ses n).out.length) ∧
    (x.broken = false ∨ x.opn = true ∨ s.clk.crystal = false → exec (.uartBreakEnd n) s = .next s) ∧
    (s.serves = false ∨ s.uat.evalFor ≠ none ∨ s.uat.queue = [] ∨ s.clk.crystal = false → exec (.consoleLine env) s = .next s) ∧
    (s.serves = true → s.clk.crystal = true → s.uat.evalFor = none → s.uat.queue.head? = some l → x.opn = true → x.out.length ≤ 4096 → l.ses = n →
      (l.err = ⟨true, false, false, false⟩ → l.text = txt "VER" → exec (.consoleLine env) s =
        .next (queued (rest.vc 49) n (txt "NO 02 CHAR") [])) ∧
      (l.err.char = false → l.err.long = true → l.text = txt "VER" → exec (.consoleLine env) s =
        .next (queued (rest.vc 50) n (txt "NO 03 LONG") [])) ∧
      (l.err = .none →
        (l.text = txt "VER" → exec (.consoleLine env) s = exec (.ver n []) rest) ∧
        (l.text = txt " baud   9600 " → exec (.consoleLine env) s = exec (.baud n [txt "9600"]) rest) ∧
        (l.text = txt "HELM TAKE" → exec (.consoleLine env) s = exec (.helmTake n []) rest) ∧
        (l.text = txt "   " → exec (.consoleLine env) s = .next (sess rest n prompted)) ∧
        (l.text = txt "#12 VER" → exec (.consoleLine env) s =
          .next (queued (rest.vc 51) n (txt "NO 04 TAG") [])) ∧
        (l.text = txt "VER*A*1" → exec (.consoleLine env) s =
          .next (queued (rest.vc 52) n (txt "NO 05 SUFFIX") [])) ∧
        (l.text = txt "BAUD 0X2580" → exec (.consoleLine env) s = .next (nodIn rest 54 n "NO 12 NUMBER")) ∧
        (l.text = txt "HELM FOO BAR" → exec (.consoleLine env) s = .next (nodIn rest 54 n "NO 11 EXTRA")) ∧
        (l.text = txt "HELM FOO" → exec (.consoleLine env) s = .next (nodIn rest 54 n "NO 14 KEYWORD")) ∧
        (l.text = txt "HELM" → exec (.consoleLine env) s = .next (nodIn rest 54 n "NO 10 MISSING")) ∧
        (l.text = txt "FLY" → exec (.consoleLine env) s = .next (nodIn rest 48 n "NO 01 VERB")) ∧
        (∀ stored, l.text = txt "#0042 VER" → x.replay.lookup (txt "#0042") = some stored → exec (.consoleLine env) s =
          .next (sess rest n fun x => prompted { x with out := x.out ++ stored, replays := x.replays + 1 })) ∧
        (l.text = txt "#0042 FLY" → x.replay.lookup (txt "#0042") = none → x.quiet = true → exec (.consoleLine env) s =
          (let r := withSuffix (txt "#0042 NO 01 VERB") ++ crlf;
           .next (sess (endMarked (sess (rest.vc 48) n fun x => { x with out := x.out ++ r, lines := x.lines + 1 }) n) n fun x =>
             { x with replay := ((txt "#0042", r) :: x.replay).take 8 }))))) ∧
    (s.clk.crystal = true → s.uat.after = .none ∨ s.uat.afterSes ≠ n → exec (.consoleReplyEnd n) s = .next (sess s n fun x => { x with out := [], rate := x.newRate.getD x.rate, newRate := none })) ∧
    (∀ exit, s.clk.crystal = true → s.uat.after = .warm exit → s.uat.afterSes = n → ∃ s', exec (.consoleReplyEnd n) s = .next s' ∧ s'.uat.after = .none ∧ s'.uat.afterLeft = none ∧
      s'.clk = { s.clk with warmReq := some (if exit then .exitVerb else .resetVerb) } ∧ (s'.ses n).out = []) ∧
    (s.uat.helm = none ∨ s.clk.crystal = false → exec .helmIdleExpiry s = .next s) ∧
    (∀ h, s.clk.crystal = true → s.uat.helm = some h → (∀ q ∈ s.uat.queue, q.ses ≠ h) → s.uat.evalFor = none → ∃ s', exec .helmIdleExpiry s = .next s' ∧
      s'.uat.helm = none ∧ s'.uat.unlocked = false ∧ s'.uat.image = none ∧ s'.uat.ses = s.uat.ses ∧
      (∀ p, imageOpen s p → s' = uat (closedImage s p) fun u => { u with helm := none, unlocked := false })) ∧
    (s.clk.crystal = true → exec .challengeExpiry s = .next (uat s fun u => { u with chal := none })) ∧
    (s.clk.crystal = false → exec .challengeExpiry s = .next s ∧ exec (.consoleReplyEnd n) s = .next s) ∧
    (s.clk.crystal = true → s.uat.lockout = true → exec .lockoutExpiry s = .next (uat s fun u => { u with lockout := false, wrong := 0 })) ∧
    (s.uat.lockout = false ∨ s.clk.crystal = false → exec .lockoutExpiry s = .next s)

/-- The read and session verbs answer with the state they name and change nothing else but what they set; the helm is held by
one session and UNLOCK unlocks it with the response to its challenge; arguments that a verb does not take are refused (R866 to
R871, R877, R880, Tables 19-1, 19-5 and 19-8; the order of checks and the syntaxes of HELP are the model's reading of log 113,
the wording of STATUS, REPORT and of an unnamed counter its choice of log 116, the challenge, its response and the seconds of NO
35 those of log 119). -/
def Obligations.ConsoleReadAndSessionVerbs : Prop :=
  ∀ (n : Fin 5) (a b : Text) (args : List Text) (s : State),
    let g := s.gate
    let alone (args : List Text) : List Instr := [.ver n args, .mode n args, .status n args, .report n args, .det n args, .life n args,
      .wear n args, .time n args, .session n args, .helmTake n args, .helmFree n args, .unlockChallenge n args, .lock n args, .eval n args,
      .hold n args, .reset n args, .serviceEnter n args, .serviceExit n args, .imageAbort n args, .ledgerAck n args]
    let all := alone args ++ [.help n args, .log n args, .vc n args, .quiet n args, .notify n args, .baud n args, .unlockResponse n args,
      .date n args, .fuseRead n args, .imageBegin n args, .imageErase n args, .patrolPause n args, .patrolInject n args, .usbtest n args]
    (¬ listens s n → ∀ i ∈ all, exec i s = .next s) ∧
    (listens s n →
      (args ≠ [] → ∀ i ∈ alone args, exec i s = .next (nodIn s 54 n "NO 11 EXTRA")) ∧
      (∀ i ∈ [Instr.quiet n [], .notify n [], .baud n [], .unlockResponse n [], .date n [], .fuseRead n [], .imageBegin n [],
        .imageErase n [a], .patrolPause n [], .patrolInject n [], .usbtest n []], exec i s = .next (nodIn s 54 n "NO 10 MISSING")) ∧
      exec (.ver n []) s = .next (okd s n [txt "MU4-" ++ (if Config.gradeMC then txt "MC" else txt "SC"), txt "ROM", hex 2 4, txt "SLOT",
          (match g.slot with | none => txt "-" | some .a => txt "A" | some .b => txt "B"), txt "SEQ", hex 8 s.imgSeq, txt "SN",
          hex 16 (tget 0 g.shadow 25).toNat]) ∧
      exec (.mode n []) s = .next (okd s n [s.wrd.mode.name, (match s.wrd.mode with | .run => txt "11" | .reduced => txt "10" | _ => txt "00"),
        hexD 2 s.wrd.cause.toNat]) ∧
      exec (.det n []) s = .next (okd s n [txt "DET", hex 8 s.wrd.det.toNat, txt "FREC", hex 16 s.wrd.frec.toNat, txt "GLOSS", dec s.wrd.gloss]) ∧
      exec (.time n []) s = .next (okd s n [txt "MS", dec (s.us / 1000 % 2 ^ 32), txt "DAY",
        if s.grm.dayValid then dec s.grm.day.toNat else txt "-", txt "CDATE", (match s.grm.cur.cdate with | some d => dec d.toNat | none => txt "-")]) ∧
      exec (.session n []) s = .next (okd s n [txt "ME", dec n.val, txt "HELM", (match s.uat.helm with | some h => dec h.val | none => txt "-"),
        txt "UNLOCK", if s.uat.helm = some n ∧ s.uat.unlocked = true then dec 1 else dec 0, txt "OPEN", hex 2 s.openMask]) ∧
      exec (.wear n []) s = .next (okd s n (wearLine s)) ∧
      (let data := (verbSyntax.take 24).map fun p => txt p.2;
       exec (.help n []) s = .next (told s n (txt "OK +" ++ dec data.length) data)) ∧
      (∀ p ∈ verbSyntax, upper a = txt p.1 → exec (.help n [a]) s = .next (told s n (txt "OK +1") [txt p.2])) ∧
      ((∀ p ∈ verbSyntax, upper a ≠ txt p.1) → exec (.help n [a]) s = .next (nodIn s 54 n "NO 14 KEYWORD")) ∧
      exec (.status n []) s = .next (told s n (txt "OK +5") (statusLines s)) ∧
      (let data := (reportOf s n).take 24;
       exec (.report n []) s = .next (told s n (txt "OK +" ++ dec data.length) data)) ∧
      (let newest := if s.spk.loaded then s.spk.newest.toNat else 0;
       exec (.log n []) s = .next (told s n (txt "OK +8") ((List.range 8).map fun i => logText s ((newest + 256 - i) % 256)))) ∧
      (let data := (((vcNames.filter fun p => tget 0 s.irt.vc p.1 != 0).take 24).map fun p => counterText s p.1);
       exec (.vc n []) s = .next (told s n (txt "OK +" ++ dec data.length) data)) ∧
      (∀ p ∈ vcNames, upper a = txt p.2 → exec (.vc n [a]) s = .next (okd s n [txt p.2, dec (tget 0 s.irt.vc p.1)])) ∧
      (∀ (c : Char) (r : Text) (k : Nat), a = c :: r → 48 ≤ c.toNat → c.toNat ≤ 57 → parseNum a = some k →
        (63 < k → exec (.vc n [a]) s = .next (nodIn s 54 n "NO 13 RANGE")) ∧
        (k ≤ 63 → exec (.vc n [a]) s = .next (told s n (txt "OK +" ++ dec (min 24 (64 - k)))
          ((List.range (min 24 (64 - k))).map fun i => counterText s (k + i))))) ∧
      (s.grm.cur.evals = 0 → exec (.life n []) s = .next (nod s n "NO 24 NODATA")) ∧
      (s.grm.cur.evals ≠ 0 → exec (.life n []) s = .next (told s n (txt "OK +8") (lifeLines s))) ∧
      (∀ f k, parseNum a = some f → parseNum b = some k →
        (255 < f ∨ 16 < k → exec (.log n [a, b]) s = .next (nodIn s 54 n "NO 13 RANGE")) ∧
        (f ≤ 255 → k ≤ 16 → exec (.log n [a, b]) s =
          .next (told s n (txt "OK +" ++ dec k) ((List.range k).map fun i => logText s ((f + 256 - i) % 256))))) ∧
      (upper a = txt "ON" → exec (.quiet n [a]) s = .next (okd (sess s n fun x => { x with quiet := true }) n [txt "QUIET", txt "ON"]) ∧
        exec (.notify n [a]) s = .next (okd (sess s n fun x => { x with notify := true }) n [txt "NOTIFY", txt "ON"])) ∧
      (upper a = txt "OFF" → exec (.quiet n [a]) s = .next (okd (sess s n fun x => { x with quiet := false }) n [txt "QUIET", txt "OFF"]) ∧
        exec (.notify n [a]) s = .next (okd (sess s n fun x => { x with notify := false }) n [txt "NOTIFY", txt "OFF"])) ∧
      (upper a ≠ txt "ON" → upper a ≠ txt "OFF" → exec (.quiet n [a]) s = .next (nodIn s 54 n "NO 14 KEYWORD") ∧
        exec (.notify n [a]) s = .next (nodIn s 54 n "NO 14 KEYWORD")) ∧
      (parseNum a = none → exec (.baud n [a]) s = .next (nodIn s 54 n "NO 12 NUMBER")) ∧
      (∀ (code : Fin 12) (r : Nat), parseNum a = some r →
        r = [115200, 9600, 19200, 38400, 57600, 230400, 460800, 921600, 1000000, 1500000, 2000000, 3000000].getD code.val 0 →
        (n = 4 → exec (.baud n [a]) s = .next (nod s n "NO 22 SESSION")) ∧
        (n ≠ 4 → exec (.baud n [a]) s = .next (okd (sess s n fun x => { x with newRate := if x.rate = code then none else some code }) n
          [txt "BAUD", dec r]))) ∧
      (s.uat.helm = none ∨ s.uat.helm = some n →
        exec (.helmTake n []) s = .next (okd (uat s fun u => { u with helm := some n }) n [txt "HELM", dec n.val])) ∧
      (∀ h, s.uat.helm = some h → h ≠ n →
        exec (.helmTake n []) s = .next (told (s.vc 55) n (txt "NO 31 HELM " ++ dec h.val) []) ∧
        exec (.unlockChallenge n []) s = .next (told (s.vc 55) n (txt "NO 31 HELM " ++ dec h.val) [])) ∧
      (s.uat.helm ≠ some n → exec (.helmFree n []) s = .next (nod s n "NO 30 NOHELM")) ∧
      (s.uat.helm = some n → ∃ s', exec (.helmFree n []) s = .next s' ∧ s'.uat.helm = none ∧ s'.uat.unlocked = false ∧ s'.uat.image = none ∧
        (s.uat.image = none → s' = okd (uat s fun u => { u with helm := none, unlocked := false }) n [txt "HELM", txt "FREE"])) ∧
      (s.uat.helm = none → exec (.unlockChallenge n []) s = .next (nod s n "NO 30 NOHELM")) ∧
      exec (.lock n []) s = .next (okd (uat s fun u => { u with unlocked := u.unlocked && decide (u.helm ≠ some n) }) n [txt "LOCKED"])) ∧
    (steers s n →
      (s.uat.lockout = true →
        exec (.unlockChallenge n []) s = .next (told (s.vc 56) n (txt "NO 35 LOCKOUT " ++ dec (secondsLeft s)) []) ∧
        ∀ r, parseNum a = some r → r < 2 ^ 32 →
          exec (.unlockResponse n [a]) s = .next (told (s.vc 56) n (txt "NO 35 LOCKOUT " ++ dec (secondsLeft s)) [])) ∧
      (s.uat.lockout = false → s.lifecycle = some 0 →
        exec (.unlockChallenge n []) s = .next (okd (uat s fun u => { u with unlocked := true }) n [txt "UNLOCKED"])) ∧
      (s.uat.lockout = false → s.lifecycle ≠ some 0 → ∃ c : BitVec 32, exec (.unlockChallenge n []) s =
        .next (okd { uat s (fun u => { u with chal := some (c, n) }) with free := s.free + 1 } n [txt "CHAL", hex 8 c.toNat])) ∧
      (∀ r, parseNum a = some r → r < 2 ^ 32 → s.uat.lockout = false →
        ((∀ c, s.uat.chal ≠ some (c, n)) → exec (.unlockResponse n [a]) s = .next (nod s n "NO 33 NOCHAL")) ∧
        (∀ c, s.uat.chal = some (c, n) →
          let keyed := ∃ row, 21 ≤ row ∧ row ≤ 24 ∧ tget 0 s.gate.fuses row ≠ 0
          (keyed → r = expected s c n → exec (.unlockResponse n [a]) s =
            .next (okd (uat s fun u => { u with unlocked := true, chal := none, wrong := 0 }) n [txt "UNLOCKED"])) ∧
          (¬ keyed ∨ r ≠ expected s c n → exec (.unlockResponse n [a]) s = .next (nodIn (uat s fun u =>
            { u with chal := none, wrong := u.wrong + 1, lockout := decide (3 ≤ u.wrong + 1),
                     lockAt := if 3 ≤ u.wrong + 1 then s.us else u.lockAt }) 56 n "NO 34 DENIED")))))

/-- The verbs of the helm and of the unlock do nothing for a session without them, the SERVICE verbs nothing outside SERVICE;
DATE, EVAL, HOLD, RESET, SERVICE, FUSE, IMAGE, PATROL, LEDGER and USBTEST have the effect that Table 19-6 gives, and a
notification that the verb causes follows its reply (R867, R872 to R876, R881, R642, Tables 19-6, 19-7 and 19-10; the order of
checks is log 113, the verbs that need SERVICE log 114, the IMAGE replies logs 116 and 121, flash bytes that come out otherwise
log 90, HOLD log 122, the reset after a reply log 123). -/
def Obligations.ConsoleHelmAndServiceVerbs : Prop :=
  ∀ (n : Fin 5) (a b : Text) (env : ConEnv) (s : State),
    let g := s.gate
    let on := upper a = txt "ON"
    let off := upper a = txt "OFF"
    let priv : List Instr := [.reset n []]
    let inService : List Instr := [.image n [] env, .imageBegin n [txt "A"], .fuseRead n [txt "20"], .patrolInject n [txt "1"],
      .patrolPause n [txt "ON"], .usbtest n [txt "ON"]]
    (listens s n →
      (s.wrd.mode ≠ .service → (∀ i ∈ inService ++ [.imageErase n [txt "0", txt "4096"], .imageData n [txt "0", txt "FF"] env, .imageEnd n [] env,
        .imageAbort n [], .ledgerAck n [], .fuseBlow n [txt "20", txt "1"] env], exec i s = .next (nod s n "NO 21 SERVICE")) ∧
        exec (.serviceExit n []) s = .next (nod s n "NO 20 MODE")) ∧
      (s.wrd.mode ≠ .safeHold → exec (.serviceEnter n []) s = .next (nod s n "NO 20 MODE")) ∧
      (s.wrd.mode ≠ .run → s.wrd.mode ≠ .reduced → exec (.hold n []) s = .next (nod s n "NO 20 MODE")) ∧
      (s.wrd.mode = .service → (s.xsp.port .a).cap ≠ 0 → ∀ i ∈ priv ++ inService,
        (s.uat.helm = none → exec i s = .next (nod s n "NO 30 NOHELM")) ∧
        (∀ h, s.uat.helm = some h → h ≠ n → exec i s = .next (told (s.vc 55) n (txt "NO 31 HELM " ++ dec h.val) [])) ∧
        (s.uat.helm = some n → s.uat.unlocked = false → exec i s = .next (nod s n "NO 32 LOCKED"))) ∧
      (s.uat.helm = none → exec (.eval n []) s = .next (nod s n "NO 30 NOHELM"))) ∧
    (steers s n →
      (∀ d, parseNum a = some d →
        (0xFFFFFE < d → exec (.date n [a]) s = .next (nodIn s 54 n "NO 13 RANGE")) ∧
        (d ≤ 0xFFFFFE → ∃ s', exec (.date n [a]) s = .next s' ∧ s'.grm.dayValid = true ∧ s'.grm.day.toNat = d)) ∧
      (s.grm.evalReq ≠ none → exec (.eval n []) s = .next (queued s n (txt "BUSY") [])) ∧
      (s.grm.evalReq = none → ∃ s', exec (.eval n []) s = .next s' ∧ s'.uat.evalFor = some (n, [], false) ∧ s'.grm.evalReq ≠ none ∧
        (s'.ses n).out = (s.ses n).out) ∧
      (s.wrd.mode = .run → s.wrd.rcStopped = false → s.wrd.arrived = [] → ∃ s', exec (.hold n []) s = .next s' ∧ s'.wrd.mode = .safeHold ∧
        modeFollows (s.ses n) (s'.ses n) "OK SAFE HOLD" "SAFE HOLD 00 00")) ∧
    (commands s n →
      exec (.reset n []) s = .next (okd (uat s fun u =>
        if u.after = .none then { u with after := .warm false, afterSes := n, afterLeft := none } else u) n [txt "RESET"]) ∧
      (s.wrd.mode = .safeHold → s.wrd.rcStopped = false → ∃ s', exec (.serviceEnter n []) s = .next s' ∧ s'.wrd.mode = .service ∧
        s'.uat.helm = some n ∧ modeFollows (s.ses n) (s'.ses n) "OK SERVICE" "SERVICE 00 00")) ∧
    (services s n →
      exec (.serviceExit n []) s = .next (okd (uat s fun u =>
        if u.after = .none then { u with after := .warm true, afterSes := n, afterLeft := none } else u) n [txt "RESET"]) ∧
      (∀ row : Fin 128, parseNum a = some row.val → exec (.fuseRead n [a]) s = .next (told s n (txt "OK +1")
        [unwords [dec row.val, hex 16 (if 21 ≤ row.val ∧ row.val ≤ 24 then 0 else (tget 0 g.fuses row.val).toNat)]])) ∧
      (∀ (row : Fin 128) (v : W64), parseNum a = some row.val → parseNum b = some v.toNat → row ≠ 8 →
        (s.lifecycle = some 3 ∨ row.val < 8 ∨ (25 ≤ row.val ∧ row.val < 64) → exec (.fuseBlow n [a, b] env) s = .next (nod s n "NO 36 FUSE")) ∧
        (s.lifecycle = some 0 → (9 ≤ row.val ∧ row.val ≤ 12) ∨ (16 ≤ row.val ∧ row.val ≤ 20) ∨ 64 ≤ row.val →
          let made := { s with gate := { g with fuses := tset 0 g.fuses row.val (tget 0 g.fuses row.val ||| (v &&& ~~~env.blowFail)) } }
          (v &&& env.blowFail = 0 → exec (.fuseBlow n [a, b] env) s = .next (okd made n
            [txt "ROW", dec row.val, hex 16 (tget 0 g.fuses row.val ||| v).toNat])) ∧
          (v &&& env.blowFail &&& ~~~(tget 0 g.fuses row.val) ≠ 0 → exec (.fuseBlow n [a, b] env) s = .next (nod made n "NO 42 BLOW")))) ∧
      (on → exec (.patrolPause n [a]) s = .next (okd { s with wrd := { s.wrd with pause := true } } n [txt "PAUSE", txt "ON"]) ∧
        exec (.usbtest n [a]) s = .next (okd (if s.blkOn blkUSB ∧ s.devBusy blkUSB = false then { s with usb := { s.usb with testen := true } } else s) n [txt "USBTEST", txt "ON"])) ∧
      (off → exec (.patrolPause n [a]) s = .next (okd { s with wrd := { s.wrd with pause := false } } n [txt "PAUSE", txt "OFF"]) ∧
        exec (.usbtest n [a]) s = .next (okd (if s.blkOn blkUSB ∧ s.devBusy blkUSB = false then { s with usb := { s.usb with testen := false } } else s) n [txt "USBTEST", txt "OFF"])) ∧
      (∀ m : Byte, parseNum a = some m.toNat → m ≠ 0 → m ≠ 6 → m ≠ 7 → m.toNat ≤ 0x20 → ∃ s', exec (.patrolInject n [a]) s = .next s' ∧
        m ∈ s'.wrd.injected ∧ s'.wrd.pinjMech = m ∧ s'.wrd.pinjGo = true) ∧
      (s.spk.damaged = false → exec (.ledgerAck n []) s = .next (nod s n "NO 24 NODATA")) ∧
      (s.spk.damaged = true → exec (.ledgerAck n []) s =
        .next (okd { s with spk := { s.spk with damaged := false, recov := s.spk.recov &&& ~~~4#64 } } n [txt "LEDGER"])) ∧
      (s.uat.image = none → exec (.image n [] env) s = .next (okd s n [txt "IDLE"]) ∧
        (∀ i ∈ [Instr.imageErase n [txt "0", txt "4096"], .imageData n [txt "0", txt "FF"] env, .imageEnd n [] env, .imageAbort n []],
          exec i s = .next (nod s n "NO 25 ORDER"))) ∧
      (∀ p : Side, let name := match p with | .a => txt "A" | .b => txt "B";
        (upper a = name → (s.xsp.port p).cap ≠ 0 →
          (s.gate.slot = some p → s.uat.image = none → exec (.imageBegin n [a]) s = .next (nod s n "NO 44 INUSE")) ∧
          (s.gate.slot ≠ some p → s.uat.image = none → exec (.imageBegin n [a]) s = .next (okd { s with
            xsp := s.xsp.setPort p { s.xsp.port p with winoff := true }, uat := { s.uat with image := some ⟨p, [], 0⟩ } } n [txt "PORT", name]))) ∧
        (imageOpen s p →
          (∀ o k : Nat, parseNum a = some (4096 * o) → parseNum b = some (4096 * (k + 1)) →
            (4096 * (o + k + 1) ≤ (s.xsp.port p).size → exec (.imageErase n [a, b]) s = .next (okd (uat s fun u =>
              { u with image := some ⟨p, (List.range (k + 1)).map fun j => o + j, k + 1⟩ }) n [txt "ERASE", dec (k + 1)])) ∧
            ((s.xsp.port p).size < 4096 * (o + k + 1) → exec (.imageErase n [a, b]) s = .next (nod s n "NO 45 CAPACITY"))) ∧
          (∀ (o : Nat) (d : List Byte), parseNum a = some o → hexBytes b = some d → d ≠ [] → d.length ≤ 64 →
            o / 256 = (o + d.length - 1) / 256 →
            ((s.xsp.port p).size < o + d.length → exec (.imageData n [a, b] env) s = .next (nod s n "NO 45 CAPACITY")) ∧
            (o + d.length ≤ (s.xsp.port p).size →
              (env.flashTimeout = true → exec (.imageData n [a, b] env) s = .next (nod s n "NO 40 FLASH")) ∧
              (env.flashTimeout = false → env.flashOdd = [] → ∃ s', exec (.imageData n [a, b] env) s = .next s' ∧
                (∀ j, tget 0xFF (s'.xsp.port p).flash j = if o ≤ j ∧ j < o + d.length
                  then tget 0xFF (s.xsp.port p).flash j &&& d.getD (j - o) 0 else tget 0xFF (s.xsp.port p).flash j)))) ∧
          (env.flashTimeout = true → exec (.imageEnd n [] env) s = .next (nod (closedImage s p) n "NO 40 FLASH")) ∧
          (env.flashTimeout = false →
            let bytes := (s.xsp.port p).bytes 0 16
            let code := s.headerCheck bytes
            (code ≠ 0 → exec (.imageEnd n [] env) s = .next (told (closedImage s p) n (txt "NO 41 IMAGE " ++ hex 2 code) [])) ∧
            (∀ e, code = 0 → s.verifyImage (s.xsp.port p) = .error e →
              exec (.imageEnd n [] env) s = .next (told (closedImage s p) n (txt "NO 41 IMAGE " ++ hex 2 e.1) [])) ∧
            (∀ rs, code = 0 → s.verifyImage (s.xsp.port p) = .ok rs →
              ((∃ r ∈ recsOf tLOAD rs, r.port = p.idx ∧ loadDigestOk s.xsp r = false) →
                exec (.imageEnd n [] env) s = .next (told (closedImage s p) n (txt "NO 41 IMAGE 0x1B") [])) ∧
              ((∀ r ∈ recsOf tLOAD rs, r.port = p.idx → loadDigestOk s.xsp r = true) →
                exec (.imageEnd n [] env) s = .next (okd (closedImage s p) n [txt "SLOT", name, txt "SEQ", hex 8 (le bytes 8 4), txt "NEXT",
                  flag (decide (s.imgSeq < le bytes 8 4))])))) ∧
          exec (.imageAbort n []) s = .next (okd (closedImage s p) n [txt "ABORT"])) ∧
        (∀ i, s.uat.image = some i → i.port = p → i.erase ≠ [] →
          (∀ j ∈ [Instr.imageBegin n [txt "A"], .imageErase n [txt "0", txt "4096"], .imageData n [txt "0", txt "FF"] env, .imageEnd n [] env],
            (s.xsp.port .a).cap ≠ 0 → exec j s = .next (queued s n (txt "BUSY") [])) ∧
          (∃ s' k, exec (.imageAbort n []) s = .next s' ∧ s'.uat.image = none ∧ (s'.xsp.port p).winoff = false ∧ 0 < k ∧
            erasedIn s s' p (i.erase.take k)) ∧
          (i.erase.length ≤ i.total → env.erased < i.total → i.total - env.erased ≤ i.erase.length → ∃ s', exec (.image n [] env) s = .next s' ∧
            (s'.ses n).out = (told s n (unwords [txt "OK", txt "PORT", name, txt "ERASE", dec env.erased, txt "OF", dec i.total]) []
              |>.ses n).out ∧
            erasedIn s s' p (i.erase.take (i.erase.length - (i.total - env.erased))))))) ∧
    (∀ cut, s.uat.image = none ∨ s.clk.crystal = false → exec (.imageEraseEnd cut) s = .next s) ∧
    (∀ cut i, s.clk.crystal = true → s.uat.image = some i → ∃ s', exec (.imageEraseEnd cut) s = .next s' ∧ s'.uat.image = some { i with erase := [] } ∧
      erasedIn s s' i.port (i.erase.take (cut.getD i.erase.length)))

/-- A step takes the command at the front of the queue and runs it on the state with the queue's rest. The queue is the model's
own. -/
def Obligations.StepRunsTheFrontCommand : Prop :=
  ∀ (c : Instr) (rest : List Instr) (s : State), s.pending = c :: rest → step s = exec c { s with pending := rest }

/-- On an empty queue a microsecond passes. Before power-good only rails may rise, and the crystal start. Afterwards, while the
RC reference runs, the time, the watchdogs that run and the minutes since power-good count, and the emergency-stop changes that
waited for the end of a test pulse and its settle time are recognised; a controller that awaits bus idle enters MONITOR; a hold
of the tag store whose time has passed ends; at most one code word takes wrong bits; rails outside their bands may return.
Nothing else changes. That a step on an empty queue is a microsecond is the model's choice (R65, R67, R76, R94, R100, R675,
R787; log 1 the microsecond, log 54 the recognition, log 105 bus idle, log 109 the hold, log 126 the rails, log 127 the wrong
bits). -/
def Obligations.IdleStepsPassTime : Prop :=
  ∀ s : State, s.pending = [] → ∃ t, step s = .next t ∧ railsRise s t ∧
    (s.gate.pgood = false →
      { t with free := s.free, wrd := { t.wrd with rails := s.wrd.rails }, clk := { t.clk with crystal := s.clk.crystal }, usb := s.usb } = s ∧
      (s.clk.crystal = true → t.clk.crystal = true) ∧
      (t.clk.crystal = true → s.clk.crystal = true ∨ t.wrd.rails.getLsbD 4 = true)) ∧
    (s.gate.pgood = true →
      let runs := s.wrd.rcStopped = false
      let now := if s.wrd.rcStopped then s.us else s.us + 1
      let u : State := { s with us := now }
      { t with free := s.free, us := s.us, upset := s.upset, wrd := s.wrd, irt := s.irt, grm := s.grm, usb := s.usb, canA := s.canA,
               canB := s.canB, nfc := s.nfc } = s ∧
      t.us = now ∧
      (t.upset = s.upset ∨ ∃ x n, 1 ≤ n ∧ n ≤ 4 ∧ t.upset = ⟨x, n⟩ :: s.upset.filter fun u => u.site != x) ∧
      (∀ h, t.wrd.wd h = if (s.cpu h).run ≠ .held ∧ s.wrd.mode ≠ .runOut ∧ s.clk.draining = false ∧ runs
        then { s.wrd.wd h with us := min 10000000 ((s.wrd.wd h).us + 1) } else s.wrd.wd h) ∧
      (s.wrd.rcStopped = true ∨ u.esBlind = true ∨ (s.wrd.waitA = none ∧ s.wrd.waitB = none) →
        sameWarden t.wrd s.wrd ∧ t.irt = s.irt) ∧
      (∀ x y, runs → u.esBlind = false → s.wrd.pulses = true →
        recognised { u with wrd := { u.wrd with waitA := none, waitB := none } } .a s.wrd.waitA x → recognised x .b s.wrd.waitB y →
        sameWarden t.wrd y.wrd ∧ t.irt = y.irt) ∧
      (runs → now % 60000000 = 0 → t.grm = { s.grm with cur := { s.grm.cur with powmin := min 0xFFFFFFFF (s.grm.cur.powmin + 1) } }) ∧
      (s.wrd.rcStopped = true ∨ now % 60000000 ≠ 0 → t.grm = s.grm) ∧
      (∀ c, t.can c = if s.canOn c = true ∧ s.wrd.mode ≠ .runOut ∧ s.clk.crystal = true ∧ (s.can c).toMonitor = true ∧
          (s.can c).txing = none ∧ (s.can c).rxBusy = false
        then (if (s.can c).st = .monitor then { s.can c with toMonitor := false }
          else { s.can c with toMonitor := false, st := .monitor, evt := (s.can c).evt ||| 1 }) else s.can c) ∧
      (∀ h, s.nfc.hold = some h → h ≤ now → t.nfc = { s.nfc with hold := none }) ∧
      (s.nfc.hold = none ∨ (∃ h, s.nfc.hold = some h ∧ now < h) → t.nfc = s.nfc))

/-- After a power reset each block's ID register, every register whose card gives another reset value than 0, and the registers
named here whose cards give 0 show that value; the mode is GATEHOUSE, the tandems are held, nothing is released, and no word of
memory is written. What stands outside and in the persistent memories is the model's choice (the cards of chapters 2 to 20; logs
8 and 9). -/
def Obligations.ResetLeavesTheCardsValues : Prop :=
  let shows (b : Fin 17) (off v : Nat) : Prop := (devRead State.reset .g b off).1 = v
  shows 0 0x0 0x4D550401 ∧ (∀ b ∈ ([1, 3, 4, 5, 6, 7, 8, 9, 10, 11, 12, 13, 14, 15, 16] : List (Fin 17)), shows b 0x0 0x4D550101) ∧
  (∀ off ∈ [0x40, 0x50, 0x60], shows 0 off 0x1388) ∧ shows 0 0x90 0x00320A02 ∧
  (∀ off ∈ [0x8, 0x10, 0x18, 0x20, 0x28, 0x80, 0x88, 0xC0, 0xC8, 0xD0], shows 0 off 0) ∧
  (∀ off ∈ [0x20, 0x28, 0x30], shows 1 off 0xF) ∧ (∀ off ∈ [0x8, 0x10, 0x48, 0x50], shows 1 off 0) ∧
  (∀ off ∈ [0x0, 0x8, 0x10, 0x18, 0x20, 0x28, 0x30, 0x38, 0x40], shows 2 off 0) ∧ (∀ n : Fin 128, shows 2 (0x1000 + 8 * n.val) 0) ∧
  shows 3 0x28 0xFFFFFFFF ∧ (∀ off ∈ [0x8, 0xC, 0x10, 0x20, 0x30, 0x38, 0x200], shows 3 off 0) ∧
  (∀ k : Fin 64, shows 3 (0x1000 + 4 * k.val) 0 ∧ shows 3 (0x2000 + 4 * k.val) 0) ∧
  (∀ b ∈ ([13, 14] : List (Fin 17)), shows b 0x8 0x000A0000 ∧ shows b 0x10 0 ∧ shows b 0x18 0 ∧ shows b 0x20 0 ∧ shows b 0x30 0) ∧
  shows 15 0x18 0x0003FFFF ∧ shows 15 0x8 0 ∧ shows 16 0x8 0x00070000 ∧
  (∀ off ∈ [0x8, 0x10, 0x18, 0x1C, 0x20, 0x28, 0x40, 0x60, 0x100, 0x140], shows 12 off 0) ∧
  State.reset.wrd.mode = .gatehouse ∧ (∀ t, (State.reset.cpu t).run = .held) ∧ State.reset.gate.released = false ∧
  State.reset.mem = [] ∧ State.reset.pending = []

/-- Memory is canonical after reset. -/
def Obligations.ResetMemoryIsCanonical : Prop := State.reset.MemOk

/-- Every step keeps the volatile memory in its canonical form: rising word indices, no UNWRITTEN word listed. -/
def Obligations.MemoryStaysCanonical : Prop :=
  ∀ s s' : State, s.MemOk → step s = .next s' → s'.MemOk

/-- No step changes the mode but by a transition of Table 4-1: REDUCED never returns to RUN, SERVICE is entered only from SAFE
HOLD, and RUN-OUT leads to GATEHOUSE alone (R173). -/
def Obligations.ModesChangeByTheTable : Prop :=
  ∀ s s' : State, step s = .next s' → s'.wrd.mode = s.wrd.mode ∨ transition s.wrd.mode s'.wrd.mode

/-- A write of 0 to IRT_DB, IRT_SW, IRT_DBCLR or IRT_SWCLR changes nothing, by its own command or as a register write: what is
left is what the initiator's own older stores did, and the state itself where it has none (R909). -/
def Obligations.ZeroWritesChangeNothing : Prop :=
  ∀ (who : Tandem) (s : State),
    let cmds := [Instr.irtDbWrite who 0, .irtSwWrite who 0, .irtDbclrWrite who 0, .irtSwclrWrite who 0] ++
      ([0x20, 0x24, 0x30, 0x34] : List (BitVec 16)).map fun off => .registerWrite who blkIRT off 0
    (∀ i ∈ cmds, exec i s = .next (afterOlderStores s who blkIRT)) ∧
    ((s.cpu who).sb = [] → ∀ i ∈ cmds, exec i s = .next s)

/-- MUL, MULHS, MULHU and MULHSU complete with a value whatever data their sources hold, and MULHS of -2^63 by -2^63 gives 2^62
(R310). -/
def Obligations.MultipliesNeverFaultOnValues : Prop :=
  ∀ (t : Tandem) (gd gs1 gs2 : Reg) (s s1 : State), Issues t .plain s s1 →
    (s.g t gs1).isData = true → (s.g t gs2).isData = true →
    (∀ i ∈ [Instr.mul t gd gs1 gs2, .mulhs t gd gs1 gs2, .mulhu t gd gs1 gs2, .mulhsu t gd gs1 gs2],
      ∃ v, Completes i t s (s1.wrG t gd (.int v))) ∧
    ((s.g t gs1).bits.toInt = -2 ^ 63 → (s.g t gs2).bits.toInt = -2 ^ 63 →
      Completes (.mulhs t gd gs1 gs2) t s (s1.wrG t gd (.int (2 ^ 62))))

/-- A reset of a port that is not powered and a disable of a disabled port complete with the port as it was, and nothing is
counted (R769). -/
def Obligations.PortRequestsWithoutEffect : Prop :=
  ∀ (w : Setup) (n : Fin 4) (s : State), awake s → s.usb.hubcfg = true → w.bmRequestType = 0x23 → w.wIndex.toNat = n.val + 1 → w.wLength = 0 →
    let p := s.usb.port (n.val + 1)
    (p.st = .poweredOff → w.wValue = 4 → ∃ s', exec (.setPortFeature w) s = .next s' ∧ s'.usb.ports = s.usb.ports ∧ s'.irt = s.irt ∧
      s'.usb.hubEp0 = .statusIn false) ∧
    (p.st = .disabled → w.wValue = 1 → ∃ s', exec (.clearPortFeature w) s = .next s' ∧ s'.usb.ports = s.usb.ports ∧ s'.irt = s.irt ∧
      s'.usb.hubEp0 = .statusIn false)

/-- Every command answers a next state, in every state and with every operand: none stops the machine, refuses or faults. Where
the conditions of a command's effect hold that state is the one that the statements on its family give; elsewhere the command
changes nothing (log 3, the model's choice), waits, or takes the exception that the spec names. -/
def Obligations.EveryCommandAnswersANextState : Prop := ∀ (i : Instr) (s : State), ∃ t, exec i s = .next t
end

