-- ==== Sys2Proof/Laws/Tables.lean ====
section
/-! SUPPORT. The sparse tables: reads after writes, and the canonical form that every write keeps. -/

namespace Sys2Proof.Machine

variable {α : Type}

theorem tget_tdel (d : α) (k j : Nat) (t : Tbl α) : tget d (tdel k t) j = if j = k then d else tget d t j := by
  induction t with
  | nil => simp [tdel, tget]
  | cons e r ih =>
    obtain ⟨a, v⟩ := e
    by_cases h : a = k <;> by_cases h2 : a = j <;> by_cases h3 : j = k <;> simp_all [tdel, tget]

theorem tget_tins (d : α) (k j : Nat) (v : α) (t : Tbl α) (h : tget d t k = d) (hn : ∀ e ∈ t, e.1 ≠ k) :
    tget d (tins k v t) j = if j = k then v else tget d t j := by
  induction t with
  | nil =>
    by_cases hj : j = k
    · simp [tins, tget, hj]
    · simp [tins, tget, hj, Ne.symm hj]
  | cons e r ih =>
    obtain ⟨a, w⟩ := e
    have ha : a ≠ k := hn (a, w) (by simp)
    have hr : ∀ e ∈ r, e.1 ≠ k := fun e he => hn e (by simp [he])
    simp only [tget, ha, if_false] at h
    unfold tins
    split
    · by_cases hj : j = k
      · simp [tget, hj]
      · simp [tget, hj, Ne.symm hj]
    · by_cases h2 : a = j
      · subst h2; simp [tget, ha]
      · simp [tget, h2, ih h hr]

theorem mem_tdel (k : Nat) (t : Tbl α) (e : Nat × α) : e ∈ tdel k t ↔ e ∈ t ∧ e.1 ≠ k := by
  induction t with
  | nil => simp [tdel]
  | cons x r ih =>
    obtain ⟨a, w⟩ := x
    obtain ⟨b, v⟩ := e
    by_cases h : a = k
    · simp only [tdel, h, if_true, ih, List.mem_cons, Prod.mk.injEq]
      constructor
      · rintro ⟨h1, h2⟩; exact ⟨.inr h1, h2⟩
      · rintro ⟨⟨h1, -⟩ | h1, h2⟩
        · exact absurd h1 h2
        · exact ⟨h1, h2⟩
    · simp only [tdel, h, if_false, List.mem_cons, Prod.mk.injEq, ih]
      constructor
      · rintro (⟨h1, h2⟩ | ⟨h1, h2⟩)
        · exact ⟨.inl ⟨h1, h2⟩, by rw [h1]; exact h⟩
        · exact ⟨.inr h1, h2⟩
      · rintro ⟨h1 | h1, h2⟩
        · exact .inl h1
        · exact .inr ⟨h1, h2⟩

/-- A read after a write. -/
theorem tget_tset [DecidableEq α] (d : α) (t : Tbl α) (k j : Nat) (v : α) :
    tget d (tset d t k v) j = if j = k then v else tget d t j := by
  unfold tset
  split
  · rename_i h
    rw [tget_tdel, h]
  · rw [tget_tins _ _ _ _ _ (by rw [tget_tdel]; simp) (fun e he => ((mem_tdel k t e).1 he).2), tget_tdel]
    by_cases hj : j = k <;> simp [hj]

@[simp] theorem tget_tset_same [DecidableEq α] (d : α) (t : Tbl α) (k : Nat) (v : α) : tget d (tset d t k v) k = v := by
  simp [tget_tset]

theorem tget_tset_other [DecidableEq α] (d : α) (t : Tbl α) (k j : Nat) (v : α) (h : j ≠ k) :
    tget d (tset d t k v) j = tget d t j := by simp [tget_tset, h]

theorem tdel_tdel (k : Nat) (t : Tbl α) : tdel k (tdel k t) = tdel k t := by
  induction t with
  | nil => rfl
  | cons e r ih => obtain ⟨a, w⟩ := e; by_cases h : a = k <;> simp [tdel, h, ih]

theorem tdel_tins (k : Nat) (v : α) (t : Tbl α) : tdel k (tins k v t) = tdel k t := by
  induction t with
  | nil => simp [tins, tdel]
  | cons e r ih =>
    obtain ⟨a, w⟩ := e
    unfold tins
    split
    · simp [tdel]
    · by_cases h : a = k <;> simp [tdel, h, ih]

/-- A write after a write to the same key. -/
@[simp] theorem tset_tset [DecidableEq α] (d : α) (t : Tbl α) (k : Nat) (v w : α) :
    tset d (tset d t k v) k w = tset d t k w := by
  have h : tdel k (tset d t k v) = tdel k t := by unfold tset; split <;> simp [tdel_tdel, tdel_tins]
  unfold tset at h ⊢
  rw [h]

/-! The canonical form. -/

/-- The canonical form, as a pairwise statement. -/
theorem twf_iff [DecidableEq α] (d : α) (t : Tbl α) :
    twf d t = true ↔ t.Pairwise (fun x y => x.1 < y.1) ∧ ∀ e ∈ t, e.2 ≠ d := by
  induction t with
  | nil => simp [twf]
  | cons e r ih =>
    obtain ⟨a, v⟩ := e
    cases r with
    | nil => simp [twf]
    | cons f r =>
      obtain ⟨b, w⟩ := f
      simp only [twf, Bool.and_eq_true, decide_eq_true_eq, ih]
      constructor
      · rintro ⟨⟨h1, h2⟩, h3, h4⟩
        refine ⟨List.pairwise_cons.2 ⟨fun y hy => ?_, h3⟩, ?_⟩
        · rcases List.mem_cons.1 hy with rfl | hy
          · exact h1
          · exact Nat.lt_trans h1 ((List.pairwise_cons.1 h3).1 y hy)
        · intro e he
          rcases List.mem_cons.1 he with rfl | he
          · exact h2
          · exact h4 e he
      · rintro ⟨h3, h4⟩
        obtain ⟨h1, h3⟩ := List.pairwise_cons.1 h3
        exact ⟨⟨h1 (b, w) (by simp), h4 (a, v) (by simp)⟩, h3, fun e he => h4 e (by simp [he])⟩

theorem twf_sub [DecidableEq α] {d : α} {t u : Tbl α} (h : twf d t = true) (hs : u.Sublist t) : twf d u = true := by
  rw [twf_iff] at *
  exact ⟨h.1.sublist hs, fun e he => h.2 e (hs.subset he)⟩

theorem tdel_sub (k : Nat) (t : Tbl α) : (tdel k t).Sublist t := by
  induction t with
  | nil => simp [tdel]
  | cons e r ih =>
    obtain ⟨a, v⟩ := e
    unfold tdel
    split
    · exact ih.cons _
    · exact ih.cons_cons _

theorem twf_tdel [DecidableEq α] (d : α) (k : Nat) {t : Tbl α} (h : twf d t = true) : twf d (tdel k t) = true :=
  twf_sub h (tdel_sub k t)

theorem twf_tclr [DecidableEq α] (d : α) (lo hi : Nat) {t : Tbl α} (h : twf d t = true) : twf d (tclr t lo hi) = true :=
  twf_sub h List.filter_sublist

theorem mem_tins (k : Nat) (v : α) (t : Tbl α) (e : Nat × α) : e ∈ tins k v t ↔ e = (k, v) ∨ e ∈ t := by
  induction t with
  | nil => simp [tins]
  | cons x r ih =>
    obtain ⟨a, w⟩ := x
    unfold tins
    split
    · simp
    · simp only [List.mem_cons, ih, or_left_comm]

theorem twf_tins [DecidableEq α] (d : α) (k : Nat) (v : α) {t : Tbl α} (h : twf d t = true) (hv : v ≠ d)
    (hn : ∀ e ∈ t, e.1 ≠ k) : twf d (tins k v t) = true := by
  rw [twf_iff] at *
  obtain ⟨hp, hd⟩ := h
  refine ⟨?_, fun e he => ?_⟩
  · clear hd
    induction t with
    | nil => simp [tins]
    | cons x r ih =>
      obtain ⟨a, w⟩ := x
      obtain ⟨h1, h2⟩ := List.pairwise_cons.1 hp
      unfold tins
      split
      · rename_i hk
        refine List.pairwise_cons.2 ⟨fun y hy => ?_, hp⟩
        rcases List.mem_cons.1 hy with rfl | hy
        · exact hk
        · exact Nat.lt_trans hk (h1 y hy)
      · rename_i hk
        refine List.pairwise_cons.2 ⟨fun y hy => ?_, ih (fun e he => hn e (by simp [he])) h2⟩
        rcases (mem_tins k v r y).1 hy with rfl | hy
        · have := hn (a, w) (by simp)
          simp only at this ⊢
          omega
        · exact h1 y hy
  · rcases (mem_tins k v t e).1 he with rfl | he
    · exact hv
    · exact hd e he

/-- A write keeps the canonical form. -/
theorem twf_tset [DecidableEq α] (d : α) (k : Nat) (v : α) {t : Tbl α} (h : twf d t = true) :
    twf d (tset d t k v) = true := by
  unfold tset
  split
  · exact twf_tdel d k h
  · rename_i hv
    exact twf_tins d k v (twf_tdel d k h) hv fun e he => ((mem_tdel k t e).1 he).2

/-- Two canonical tables that read alike are the same data. -/
theorem tbl_ext [DecidableEq α] (d : α) {t u : Tbl α} (ht : twf d t = true) (hu : twf d u = true)
    (h : ∀ k, tget d t k = tget d u k) : t = u := by
  have look : ∀ (l : Tbl α), twf d l = true → ∀ k v, (k, v) ∈ l ↔ (v ≠ d ∧ tget d l k = v) := by
    intro l hl k v
    rw [twf_iff] at hl
    obtain ⟨hp, hd⟩ := hl
    induction l with
    | nil => simp [tget, eq_comm]
    | cons x r ih =>
      obtain ⟨a, w⟩ := x
      obtain ⟨h1, h2⟩ := List.pairwise_cons.1 hp
      have hw : w ≠ d := hd (a, w) (by simp)
      have ih := ih h2 fun e he => hd e (by simp [he])
      by_cases hak : a = k
      · subst hak
        simp only [List.mem_cons, Prod.mk.injEq, true_and, tget, if_true]
        constructor
        · rintro (rfl | hm)
          · exact ⟨hw, rfl⟩
          · exact absurd (h1 _ hm) (Nat.lt_irrefl _)
        · rintro ⟨-, rfl⟩; exact .inl rfl
      · simp only [List.mem_cons, Prod.mk.injEq, tget, hak, if_false, Ne.symm hak, false_and, false_or, ih]
  have hm : ∀ e, e ∈ t ↔ e ∈ u := fun ⟨k, v⟩ => by rw [look t ht, look u hu, h]
  rw [twf_iff] at ht hu
  have hpm : t.Perm u := by
    have nd : ∀ l : Tbl α, l.Pairwise (fun x y => x.1 < y.1) → l.Nodup := fun l hl =>
      hl.imp fun h e => by simp [e] at h
    exact (List.perm_ext_iff_of_nodup (nd t ht.1) (nd u hu.1)).2 hm
  exact hpm.eq_of_pairwise (fun a b _ _ (h1 : a.1 < b.1) (h2 : b.1 < a.1) => absurd (Nat.lt_trans h1 h2) (Nat.lt_irrefl _)) ht.1 hu.1

end Sys2Proof.Machine
end

