-- ==== Sys2Proof/Laws/State.lean ====
section
/-! SUPPORT. What the updates of State leave alone, one lemma for each field and update, and the accessors after them. -/

namespace Sys2Proof.Machine

variable (s : State)

@[simp] theorem State.setCpu_pending (t : Tandem) (c : Cpu) : (s.setCpu t c).pending = s.pending := by cases t <;> rfl
@[simp] theorem State.setCpu_free (t : Tandem) (c : Cpu) : (s.setCpu t c).free = s.free := by cases t <;> rfl
@[simp] theorem State.setCpu_rdata (t : Tandem) (c : Cpu) : (s.setCpu t c).rdata = s.rdata := by cases t <;> rfl
@[simp] theorem State.setCpu_us (t : Tandem) (c : Cpu) : (s.setCpu t c).us = s.us := by cases t <;> rfl
@[simp] theorem State.setCpu_relUs (t : Tandem) (c : Cpu) : (s.setCpu t c).relUs = s.relUs := by cases t <;> rfl
@[simp] theorem State.setCpu_mem (t : Tandem) (c : Cpu) : (s.setCpu t c).mem = s.mem := by cases t <;> rfl
@[simp] theorem State.setCpu_l2 (t : Tandem) (c : Cpu) : (s.setCpu t c).l2 = s.l2 := by cases t <;> rfl
@[simp] theorem State.setCpu_upset (t : Tandem) (c : Cpu) : (s.setCpu t c).upset = s.upset := by cases t <;> rfl
@[simp] theorem State.setCpu_schA (t : Tandem) (c : Cpu) : (s.setCpu t c).schA = s.schA := by cases t <;> rfl
@[simp] theorem State.setCpu_schB (t : Tandem) (c : Cpu) : (s.setCpu t c).schB = s.schB := by cases t <;> rfl
@[simp] theorem State.setCpu_irt (t : Tandem) (c : Cpu) : (s.setCpu t c).irt = s.irt := by cases t <;> rfl
@[simp] theorem State.setCpu_drc (t : Tandem) (c : Cpu) : (s.setCpu t c).drc = s.drc := by cases t <;> rfl
@[simp] theorem State.setCpu_xsp (t : Tandem) (c : Cpu) : (s.setCpu t c).xsp = s.xsp := by cases t <;> rfl
@[simp] theorem State.setCpu_spk (t : Tandem) (c : Cpu) : (s.setCpu t c).spk = s.spk := by cases t <;> rfl
@[simp] theorem State.setCpu_wrd (t : Tandem) (c : Cpu) : (s.setCpu t c).wrd = s.wrd := by cases t <;> rfl
@[simp] theorem State.setCpu_gate (t : Tandem) (c : Cpu) : (s.setCpu t c).gate = s.gate := by cases t <;> rfl
@[simp] theorem State.setCpu_clk (t : Tandem) (c : Cpu) : (s.setCpu t c).clk = s.clk := by cases t <;> rfl
@[simp] theorem State.setCpu_grm (t : Tandem) (c : Cpu) : (s.setCpu t c).grm = s.grm := by cases t <;> rfl
@[simp] theorem State.setCpu_cta (t : Tandem) (c : Cpu) : (s.setCpu t c).cta = s.cta := by cases t <;> rfl
@[simp] theorem State.setCpu_pio (t : Tandem) (c : Cpu) : (s.setCpu t c).pio = s.pio := by cases t <;> rfl
@[simp] theorem State.setCpu_usb (t : Tandem) (c : Cpu) : (s.setCpu t c).usb = s.usb := by cases t <;> rfl
@[simp] theorem State.setCpu_canA (t : Tandem) (c : Cpu) : (s.setCpu t c).canA = s.canA := by cases t <;> rfl
@[simp] theorem State.setCpu_canB (t : Tandem) (c : Cpu) : (s.setCpu t c).canB = s.canB := by cases t <;> rfl
@[simp] theorem State.setCpu_nfc (t : Tandem) (c : Cpu) : (s.setCpu t c).nfc = s.nfc := by cases t <;> rfl
@[simp] theorem State.setCpu_uat (t : Tandem) (c : Cpu) : (s.setCpu t c).uat = s.uat := by cases t <;> rfl
@[simp] theorem State.setCpu_sch (t : Tandem) (c : Cpu) (u : Side) : (s.setCpu t c).sch u = s.sch u := by cases u <;> cases t <;> rfl
@[simp] theorem State.setCpu_can (t : Tandem) (c : Cpu) (u : Side) : (s.setCpu t c).can u = s.can u := by cases u <;> cases t <;> rfl

@[simp] theorem State.modCpu_pending (t : Tandem) (f : Cpu → Cpu) : (s.modCpu t f).pending = s.pending := by cases t <;> rfl
@[simp] theorem State.modCpu_free (t : Tandem) (f : Cpu → Cpu) : (s.modCpu t f).free = s.free := by cases t <;> rfl
@[simp] theorem State.modCpu_rdata (t : Tandem) (f : Cpu → Cpu) : (s.modCpu t f).rdata = s.rdata := by cases t <;> rfl
@[simp] theorem State.modCpu_us (t : Tandem) (f : Cpu → Cpu) : (s.modCpu t f).us = s.us := by cases t <;> rfl
@[simp] theorem State.modCpu_relUs (t : Tandem) (f : Cpu → Cpu) : (s.modCpu t f).relUs = s.relUs := by cases t <;> rfl
@[simp] theorem State.modCpu_mem (t : Tandem) (f : Cpu → Cpu) : (s.modCpu t f).mem = s.mem := by cases t <;> rfl
@[simp] theorem State.modCpu_l2 (t : Tandem) (f : Cpu → Cpu) : (s.modCpu t f).l2 = s.l2 := by cases t <;> rfl
@[simp] theorem State.modCpu_upset (t : Tandem) (f : Cpu → Cpu) : (s.modCpu t f).upset = s.upset := by cases t <;> rfl
@[simp] theorem State.modCpu_schA (t : Tandem) (f : Cpu → Cpu) : (s.modCpu t f).schA = s.schA := by cases t <;> rfl
@[simp] theorem State.modCpu_schB (t : Tandem) (f : Cpu → Cpu) : (s.modCpu t f).schB = s.schB := by cases t <;> rfl
@[simp] theorem State.modCpu_irt (t : Tandem) (f : Cpu → Cpu) : (s.modCpu t f).irt = s.irt := by cases t <;> rfl
@[simp] theorem State.modCpu_drc (t : Tandem) (f : Cpu → Cpu) : (s.modCpu t f).drc = s.drc := by cases t <;> rfl
@[simp] theorem State.modCpu_xsp (t : Tandem) (f : Cpu → Cpu) : (s.modCpu t f).xsp = s.xsp := by cases t <;> rfl
@[simp] theorem State.modCpu_spk (t : Tandem) (f : Cpu → Cpu) : (s.modCpu t f).spk = s.spk := by cases t <;> rfl
@[simp] theorem State.modCpu_wrd (t : Tandem) (f : Cpu → Cpu) : (s.modCpu t f).wrd = s.wrd := by cases t <;> rfl
@[simp] theorem State.modCpu_gate (t : Tandem) (f : Cpu → Cpu) : (s.modCpu t f).gate = s.gate := by cases t <;> rfl
@[simp] theorem State.modCpu_clk (t : Tandem) (f : Cpu → Cpu) : (s.modCpu t f).clk = s.clk := by cases t <;> rfl
@[simp] theorem State.modCpu_grm (t : Tandem) (f : Cpu → Cpu) : (s.modCpu t f).grm = s.grm := by cases t <;> rfl
@[simp] theorem State.modCpu_cta (t : Tandem) (f : Cpu → Cpu) : (s.modCpu t f).cta = s.cta := by cases t <;> rfl
@[simp] theorem State.modCpu_pio (t : Tandem) (f : Cpu → Cpu) : (s.modCpu t f).pio = s.pio := by cases t <;> rfl
@[simp] theorem State.modCpu_usb (t : Tandem) (f : Cpu → Cpu) : (s.modCpu t f).usb = s.usb := by cases t <;> rfl
@[simp] theorem State.modCpu_canA (t : Tandem) (f : Cpu → Cpu) : (s.modCpu t f).canA = s.canA := by cases t <;> rfl
@[simp] theorem State.modCpu_canB (t : Tandem) (f : Cpu → Cpu) : (s.modCpu t f).canB = s.canB := by cases t <;> rfl
@[simp] theorem State.modCpu_nfc (t : Tandem) (f : Cpu → Cpu) : (s.modCpu t f).nfc = s.nfc := by cases t <;> rfl
@[simp] theorem State.modCpu_uat (t : Tandem) (f : Cpu → Cpu) : (s.modCpu t f).uat = s.uat := by cases t <;> rfl
@[simp] theorem State.modCpu_sch (t : Tandem) (f : Cpu → Cpu) (u : Side) : (s.modCpu t f).sch u = s.sch u := by cases u <;> cases t <;> rfl
@[simp] theorem State.modCpu_can (t : Tandem) (f : Cpu → Cpu) (u : Side) : (s.modCpu t f).can u = s.can u := by cases u <;> cases t <;> rfl

@[simp] theorem State.modLk_pending (t : Tandem) (f : Locker → Locker) : (s.modLk t f).pending = s.pending := by cases t <;> rfl
@[simp] theorem State.modLk_free (t : Tandem) (f : Locker → Locker) : (s.modLk t f).free = s.free := by cases t <;> rfl
@[simp] theorem State.modLk_rdata (t : Tandem) (f : Locker → Locker) : (s.modLk t f).rdata = s.rdata := by cases t <;> rfl
@[simp] theorem State.modLk_us (t : Tandem) (f : Locker → Locker) : (s.modLk t f).us = s.us := by cases t <;> rfl
@[simp] theorem State.modLk_relUs (t : Tandem) (f : Locker → Locker) : (s.modLk t f).relUs = s.relUs := by cases t <;> rfl
@[simp] theorem State.modLk_mem (t : Tandem) (f : Locker → Locker) : (s.modLk t f).mem = s.mem := by cases t <;> rfl
@[simp] theorem State.modLk_l2 (t : Tandem) (f : Locker → Locker) : (s.modLk t f).l2 = s.l2 := by cases t <;> rfl
@[simp] theorem State.modLk_upset (t : Tandem) (f : Locker → Locker) : (s.modLk t f).upset = s.upset := by cases t <;> rfl
@[simp] theorem State.modLk_schA (t : Tandem) (f : Locker → Locker) : (s.modLk t f).schA = s.schA := by cases t <;> rfl
@[simp] theorem State.modLk_schB (t : Tandem) (f : Locker → Locker) : (s.modLk t f).schB = s.schB := by cases t <;> rfl
@[simp] theorem State.modLk_irt (t : Tandem) (f : Locker → Locker) : (s.modLk t f).irt = s.irt := by cases t <;> rfl
@[simp] theorem State.modLk_drc (t : Tandem) (f : Locker → Locker) : (s.modLk t f).drc = s.drc := by cases t <;> rfl
@[simp] theorem State.modLk_xsp (t : Tandem) (f : Locker → Locker) : (s.modLk t f).xsp = s.xsp := by cases t <;> rfl
@[simp] theorem State.modLk_spk (t : Tandem) (f : Locker → Locker) : (s.modLk t f).spk = s.spk := by cases t <;> rfl
@[simp] theorem State.modLk_wrd (t : Tandem) (f : Locker → Locker) : (s.modLk t f).wrd = s.wrd := by cases t <;> rfl
@[simp] theorem State.modLk_gate (t : Tandem) (f : Locker → Locker) : (s.modLk t f).gate = s.gate := by cases t <;> rfl
@[simp] theorem State.modLk_clk (t : Tandem) (f : Locker → Locker) : (s.modLk t f).clk = s.clk := by cases t <;> rfl
@[simp] theorem State.modLk_grm (t : Tandem) (f : Locker → Locker) : (s.modLk t f).grm = s.grm := by cases t <;> rfl
@[simp] theorem State.modLk_cta (t : Tandem) (f : Locker → Locker) : (s.modLk t f).cta = s.cta := by cases t <;> rfl
@[simp] theorem State.modLk_pio (t : Tandem) (f : Locker → Locker) : (s.modLk t f).pio = s.pio := by cases t <;> rfl
@[simp] theorem State.modLk_usb (t : Tandem) (f : Locker → Locker) : (s.modLk t f).usb = s.usb := by cases t <;> rfl
@[simp] theorem State.modLk_canA (t : Tandem) (f : Locker → Locker) : (s.modLk t f).canA = s.canA := by cases t <;> rfl
@[simp] theorem State.modLk_canB (t : Tandem) (f : Locker → Locker) : (s.modLk t f).canB = s.canB := by cases t <;> rfl
@[simp] theorem State.modLk_nfc (t : Tandem) (f : Locker → Locker) : (s.modLk t f).nfc = s.nfc := by cases t <;> rfl
@[simp] theorem State.modLk_uat (t : Tandem) (f : Locker → Locker) : (s.modLk t f).uat = s.uat := by cases t <;> rfl
@[simp] theorem State.modLk_sch (t : Tandem) (f : Locker → Locker) (u : Side) : (s.modLk t f).sch u = s.sch u := by cases u <;> cases t <;> rfl
@[simp] theorem State.modLk_can (t : Tandem) (f : Locker → Locker) (u : Side) : (s.modLk t f).can u = s.can u := by cases u <;> cases t <;> rfl

@[simp] theorem State.setSch_pending (m : Side) (c : Sch) : (s.setSch m c).pending = s.pending := by cases m <;> rfl
@[simp] theorem State.setSch_free (m : Side) (c : Sch) : (s.setSch m c).free = s.free := by cases m <;> rfl
@[simp] theorem State.setSch_rdata (m : Side) (c : Sch) : (s.setSch m c).rdata = s.rdata := by cases m <;> rfl
@[simp] theorem State.setSch_us (m : Side) (c : Sch) : (s.setSch m c).us = s.us := by cases m <;> rfl
@[simp] theorem State.setSch_relUs (m : Side) (c : Sch) : (s.setSch m c).relUs = s.relUs := by cases m <;> rfl
@[simp] theorem State.setSch_cpuA (m : Side) (c : Sch) : (s.setSch m c).cpuA = s.cpuA := by cases m <;> rfl
@[simp] theorem State.setSch_cpuB (m : Side) (c : Sch) : (s.setSch m c).cpuB = s.cpuB := by cases m <;> rfl
@[simp] theorem State.setSch_cpuG (m : Side) (c : Sch) : (s.setSch m c).cpuG = s.cpuG := by cases m <;> rfl
@[simp] theorem State.setSch_mem (m : Side) (c : Sch) : (s.setSch m c).mem = s.mem := by cases m <;> rfl
@[simp] theorem State.setSch_l2 (m : Side) (c : Sch) : (s.setSch m c).l2 = s.l2 := by cases m <;> rfl
@[simp] theorem State.setSch_upset (m : Side) (c : Sch) : (s.setSch m c).upset = s.upset := by cases m <;> rfl
@[simp] theorem State.setSch_irt (m : Side) (c : Sch) : (s.setSch m c).irt = s.irt := by cases m <;> rfl
@[simp] theorem State.setSch_drc (m : Side) (c : Sch) : (s.setSch m c).drc = s.drc := by cases m <;> rfl
@[simp] theorem State.setSch_xsp (m : Side) (c : Sch) : (s.setSch m c).xsp = s.xsp := by cases m <;> rfl
@[simp] theorem State.setSch_spk (m : Side) (c : Sch) : (s.setSch m c).spk = s.spk := by cases m <;> rfl
@[simp] theorem State.setSch_wrd (m : Side) (c : Sch) : (s.setSch m c).wrd = s.wrd := by cases m <;> rfl
@[simp] theorem State.setSch_gate (m : Side) (c : Sch) : (s.setSch m c).gate = s.gate := by cases m <;> rfl
@[simp] theorem State.setSch_clk (m : Side) (c : Sch) : (s.setSch m c).clk = s.clk := by cases m <;> rfl
@[simp] theorem State.setSch_grm (m : Side) (c : Sch) : (s.setSch m c).grm = s.grm := by cases m <;> rfl
@[simp] theorem State.setSch_cta (m : Side) (c : Sch) : (s.setSch m c).cta = s.cta := by cases m <;> rfl
@[simp] theorem State.setSch_pio (m : Side) (c : Sch) : (s.setSch m c).pio = s.pio := by cases m <;> rfl
@[simp] theorem State.setSch_usb (m : Side) (c : Sch) : (s.setSch m c).usb = s.usb := by cases m <;> rfl
@[simp] theorem State.setSch_canA (m : Side) (c : Sch) : (s.setSch m c).canA = s.canA := by cases m <;> rfl
@[simp] theorem State.setSch_canB (m : Side) (c : Sch) : (s.setSch m c).canB = s.canB := by cases m <;> rfl
@[simp] theorem State.setSch_nfc (m : Side) (c : Sch) : (s.setSch m c).nfc = s.nfc := by cases m <;> rfl
@[simp] theorem State.setSch_uat (m : Side) (c : Sch) : (s.setSch m c).uat = s.uat := by cases m <;> rfl
@[simp] theorem State.setSch_cpu (m : Side) (c : Sch) (u : Tandem) : (s.setSch m c).cpu u = s.cpu u := by cases u <;> cases m <;> rfl
@[simp] theorem State.setSch_can (m : Side) (c : Sch) (u : Side) : (s.setSch m c).can u = s.can u := by cases u <;> cases m <;> rfl

@[simp] theorem State.modSch_pending (m : Side) (f : Sch → Sch) : (s.modSch m f).pending = s.pending := by cases m <;> rfl
@[simp] theorem State.modSch_free (m : Side) (f : Sch → Sch) : (s.modSch m f).free = s.free := by cases m <;> rfl
@[simp] theorem State.modSch_rdata (m : Side) (f : Sch → Sch) : (s.modSch m f).rdata = s.rdata := by cases m <;> rfl
@[simp] theorem State.modSch_us (m : Side) (f : Sch → Sch) : (s.modSch m f).us = s.us := by cases m <;> rfl
@[simp] theorem State.modSch_relUs (m : Side) (f : Sch → Sch) : (s.modSch m f).relUs = s.relUs := by cases m <;> rfl
@[simp] theorem State.modSch_cpuA (m : Side) (f : Sch → Sch) : (s.modSch m f).cpuA = s.cpuA := by cases m <;> rfl
@[simp] theorem State.modSch_cpuB (m : Side) (f : Sch → Sch) : (s.modSch m f).cpuB = s.cpuB := by cases m <;> rfl
@[simp] theorem State.modSch_cpuG (m : Side) (f : Sch → Sch) : (s.modSch m f).cpuG = s.cpuG := by cases m <;> rfl
@[simp] theorem State.modSch_mem (m : Side) (f : Sch → Sch) : (s.modSch m f).mem = s.mem := by cases m <;> rfl
@[simp] theorem State.modSch_l2 (m : Side) (f : Sch → Sch) : (s.modSch m f).l2 = s.l2 := by cases m <;> rfl
@[simp] theorem State.modSch_upset (m : Side) (f : Sch → Sch) : (s.modSch m f).upset = s.upset := by cases m <;> rfl
@[simp] theorem State.modSch_irt (m : Side) (f : Sch → Sch) : (s.modSch m f).irt = s.irt := by cases m <;> rfl
@[simp] theorem State.modSch_drc (m : Side) (f : Sch → Sch) : (s.modSch m f).drc = s.drc := by cases m <;> rfl
@[simp] theorem State.modSch_xsp (m : Side) (f : Sch → Sch) : (s.modSch m f).xsp = s.xsp := by cases m <;> rfl
@[simp] theorem State.modSch_spk (m : Side) (f : Sch → Sch) : (s.modSch m f).spk = s.spk := by cases m <;> rfl
@[simp] theorem State.modSch_wrd (m : Side) (f : Sch → Sch) : (s.modSch m f).wrd = s.wrd := by cases m <;> rfl
@[simp] theorem State.modSch_gate (m : Side) (f : Sch → Sch) : (s.modSch m f).gate = s.gate := by cases m <;> rfl
@[simp] theorem State.modSch_clk (m : Side) (f : Sch → Sch) : (s.modSch m f).clk = s.clk := by cases m <;> rfl
@[simp] theorem State.modSch_grm (m : Side) (f : Sch → Sch) : (s.modSch m f).grm = s.grm := by cases m <;> rfl
@[simp] theorem State.modSch_cta (m : Side) (f : Sch → Sch) : (s.modSch m f).cta = s.cta := by cases m <;> rfl
@[simp] theorem State.modSch_pio (m : Side) (f : Sch → Sch) : (s.modSch m f).pio = s.pio := by cases m <;> rfl
@[simp] theorem State.modSch_usb (m : Side) (f : Sch → Sch) : (s.modSch m f).usb = s.usb := by cases m <;> rfl
@[simp] theorem State.modSch_canA (m : Side) (f : Sch → Sch) : (s.modSch m f).canA = s.canA := by cases m <;> rfl
@[simp] theorem State.modSch_canB (m : Side) (f : Sch → Sch) : (s.modSch m f).canB = s.canB := by cases m <;> rfl
@[simp] theorem State.modSch_nfc (m : Side) (f : Sch → Sch) : (s.modSch m f).nfc = s.nfc := by cases m <;> rfl
@[simp] theorem State.modSch_uat (m : Side) (f : Sch → Sch) : (s.modSch m f).uat = s.uat := by cases m <;> rfl
@[simp] theorem State.modSch_cpu (m : Side) (f : Sch → Sch) (u : Tandem) : (s.modSch m f).cpu u = s.cpu u := by cases u <;> cases m <;> rfl
@[simp] theorem State.modSch_can (m : Side) (f : Sch → Sch) (u : Side) : (s.modSch m f).can u = s.can u := by cases u <;> cases m <;> rfl

@[simp] theorem State.setCan_pending (m : Side) (c : Can) : (s.setCan m c).pending = s.pending := by cases m <;> rfl
@[simp] theorem State.setCan_free (m : Side) (c : Can) : (s.setCan m c).free = s.free := by cases m <;> rfl
@[simp] theorem State.setCan_rdata (m : Side) (c : Can) : (s.setCan m c).rdata = s.rdata := by cases m <;> rfl
@[simp] theorem State.setCan_us (m : Side) (c : Can) : (s.setCan m c).us = s.us := by cases m <;> rfl
@[simp] theorem State.setCan_relUs (m : Side) (c : Can) : (s.setCan m c).relUs = s.relUs := by cases m <;> rfl
@[simp] theorem State.setCan_cpuA (m : Side) (c : Can) : (s.setCan m c).cpuA = s.cpuA := by cases m <;> rfl
@[simp] theorem State.setCan_cpuB (m : Side) (c : Can) : (s.setCan m c).cpuB = s.cpuB := by cases m <;> rfl
@[simp] theorem State.setCan_cpuG (m : Side) (c : Can) : (s.setCan m c).cpuG = s.cpuG := by cases m <;> rfl
@[simp] theorem State.setCan_mem (m : Side) (c : Can) : (s.setCan m c).mem = s.mem := by cases m <;> rfl
@[simp] theorem State.setCan_l2 (m : Side) (c : Can) : (s.setCan m c).l2 = s.l2 := by cases m <;> rfl
@[simp] theorem State.setCan_upset (m : Side) (c : Can) : (s.setCan m c).upset = s.upset := by cases m <;> rfl
@[simp] theorem State.setCan_schA (m : Side) (c : Can) : (s.setCan m c).schA = s.schA := by cases m <;> rfl
@[simp] theorem State.setCan_schB (m : Side) (c : Can) : (s.setCan m c).schB = s.schB := by cases m <;> rfl
@[simp] theorem State.setCan_irt (m : Side) (c : Can) : (s.setCan m c).irt = s.irt := by cases m <;> rfl
@[simp] theorem State.setCan_drc (m : Side) (c : Can) : (s.setCan m c).drc = s.drc := by cases m <;> rfl
@[simp] theorem State.setCan_xsp (m : Side) (c : Can) : (s.setCan m c).xsp = s.xsp := by cases m <;> rfl
@[simp] theorem State.setCan_spk (m : Side) (c : Can) : (s.setCan m c).spk = s.spk := by cases m <;> rfl
@[simp] theorem State.setCan_wrd (m : Side) (c : Can) : (s.setCan m c).wrd = s.wrd := by cases m <;> rfl
@[simp] theorem State.setCan_gate (m : Side) (c : Can) : (s.setCan m c).gate = s.gate := by cases m <;> rfl
@[simp] theorem State.setCan_clk (m : Side) (c : Can) : (s.setCan m c).clk = s.clk := by cases m <;> rfl
@[simp] theorem State.setCan_grm (m : Side) (c : Can) : (s.setCan m c).grm = s.grm := by cases m <;> rfl
@[simp] theorem State.setCan_cta (m : Side) (c : Can) : (s.setCan m c).cta = s.cta := by cases m <;> rfl
@[simp] theorem State.setCan_pio (m : Side) (c : Can) : (s.setCan m c).pio = s.pio := by cases m <;> rfl
@[simp] theorem State.setCan_usb (m : Side) (c : Can) : (s.setCan m c).usb = s.usb := by cases m <;> rfl
@[simp] theorem State.setCan_nfc (m : Side) (c : Can) : (s.setCan m c).nfc = s.nfc := by cases m <;> rfl
@[simp] theorem State.setCan_uat (m : Side) (c : Can) : (s.setCan m c).uat = s.uat := by cases m <;> rfl
@[simp] theorem State.setCan_cpu (m : Side) (c : Can) (u : Tandem) : (s.setCan m c).cpu u = s.cpu u := by cases u <;> cases m <;> rfl
@[simp] theorem State.setCan_sch (m : Side) (c : Can) (u : Side) : (s.setCan m c).sch u = s.sch u := by cases u <;> cases m <;> rfl

@[simp] theorem State.modCan_pending (m : Side) (f : Can → Can) : (s.modCan m f).pending = s.pending := by cases m <;> rfl
@[simp] theorem State.modCan_free (m : Side) (f : Can → Can) : (s.modCan m f).free = s.free := by cases m <;> rfl
@[simp] theorem State.modCan_rdata (m : Side) (f : Can → Can) : (s.modCan m f).rdata = s.rdata := by cases m <;> rfl
@[simp] theorem State.modCan_us (m : Side) (f : Can → Can) : (s.modCan m f).us = s.us := by cases m <;> rfl
@[simp] theorem State.modCan_relUs (m : Side) (f : Can → Can) : (s.modCan m f).relUs = s.relUs := by cases m <;> rfl
@[simp] theorem State.modCan_cpuA (m : Side) (f : Can → Can) : (s.modCan m f).cpuA = s.cpuA := by cases m <;> rfl
@[simp] theorem State.modCan_cpuB (m : Side) (f : Can → Can) : (s.modCan m f).cpuB = s.cpuB := by cases m <;> rfl
@[simp] theorem State.modCan_cpuG (m : Side) (f : Can → Can) : (s.modCan m f).cpuG = s.cpuG := by cases m <;> rfl
@[simp] theorem State.modCan_mem (m : Side) (f : Can → Can) : (s.modCan m f).mem = s.mem := by cases m <;> rfl
@[simp] theorem State.modCan_l2 (m : Side) (f : Can → Can) : (s.modCan m f).l2 = s.l2 := by cases m <;> rfl
@[simp] theorem State.modCan_upset (m : Side) (f : Can → Can) : (s.modCan m f).upset = s.upset := by cases m <;> rfl
@[simp] theorem State.modCan_schA (m : Side) (f : Can → Can) : (s.modCan m f).schA = s.schA := by cases m <;> rfl
@[simp] theorem State.modCan_schB (m : Side) (f : Can → Can) : (s.modCan m f).schB = s.schB := by cases m <;> rfl
@[simp] theorem State.modCan_irt (m : Side) (f : Can → Can) : (s.modCan m f).irt = s.irt := by cases m <;> rfl
@[simp] theorem State.modCan_drc (m : Side) (f : Can → Can) : (s.modCan m f).drc = s.drc := by cases m <;> rfl
@[simp] theorem State.modCan_xsp (m : Side) (f : Can → Can) : (s.modCan m f).xsp = s.xsp := by cases m <;> rfl
@[simp] theorem State.modCan_spk (m : Side) (f : Can → Can) : (s.modCan m f).spk = s.spk := by cases m <;> rfl
@[simp] theorem State.modCan_wrd (m : Side) (f : Can → Can) : (s.modCan m f).wrd = s.wrd := by cases m <;> rfl
@[simp] theorem State.modCan_gate (m : Side) (f : Can → Can) : (s.modCan m f).gate = s.gate := by cases m <;> rfl
@[simp] theorem State.modCan_clk (m : Side) (f : Can → Can) : (s.modCan m f).clk = s.clk := by cases m <;> rfl
@[simp] theorem State.modCan_grm (m : Side) (f : Can → Can) : (s.modCan m f).grm = s.grm := by cases m <;> rfl
@[simp] theorem State.modCan_cta (m : Side) (f : Can → Can) : (s.modCan m f).cta = s.cta := by cases m <;> rfl
@[simp] theorem State.modCan_pio (m : Side) (f : Can → Can) : (s.modCan m f).pio = s.pio := by cases m <;> rfl
@[simp] theorem State.modCan_usb (m : Side) (f : Can → Can) : (s.modCan m f).usb = s.usb := by cases m <;> rfl
@[simp] theorem State.modCan_nfc (m : Side) (f : Can → Can) : (s.modCan m f).nfc = s.nfc := by cases m <;> rfl
@[simp] theorem State.modCan_uat (m : Side) (f : Can → Can) : (s.modCan m f).uat = s.uat := by cases m <;> rfl
@[simp] theorem State.modCan_cpu (m : Side) (f : Can → Can) (u : Tandem) : (s.modCan m f).cpu u = s.cpu u := by cases u <;> cases m <;> rfl
@[simp] theorem State.modCan_sch (m : Side) (f : Can → Can) (u : Side) : (s.modCan m f).sch u = s.sch u := by cases u <;> cases m <;> rfl

@[simp] theorem State.modIrt_pending (f : Irt → Irt) : (s.modIrt f).pending = s.pending := rfl
@[simp] theorem State.modIrt_free (f : Irt → Irt) : (s.modIrt f).free = s.free := rfl
@[simp] theorem State.modIrt_rdata (f : Irt → Irt) : (s.modIrt f).rdata = s.rdata := rfl
@[simp] theorem State.modIrt_us (f : Irt → Irt) : (s.modIrt f).us = s.us := rfl
@[simp] theorem State.modIrt_relUs (f : Irt → Irt) : (s.modIrt f).relUs = s.relUs := rfl
@[simp] theorem State.modIrt_cpuA (f : Irt → Irt) : (s.modIrt f).cpuA = s.cpuA := rfl
@[simp] theorem State.modIrt_cpuB (f : Irt → Irt) : (s.modIrt f).cpuB = s.cpuB := rfl
@[simp] theorem State.modIrt_cpuG (f : Irt → Irt) : (s.modIrt f).cpuG = s.cpuG := rfl
@[simp] theorem State.modIrt_mem (f : Irt → Irt) : (s.modIrt f).mem = s.mem := rfl
@[simp] theorem State.modIrt_l2 (f : Irt → Irt) : (s.modIrt f).l2 = s.l2 := rfl
@[simp] theorem State.modIrt_upset (f : Irt → Irt) : (s.modIrt f).upset = s.upset := rfl
@[simp] theorem State.modIrt_schA (f : Irt → Irt) : (s.modIrt f).schA = s.schA := rfl
@[simp] theorem State.modIrt_schB (f : Irt → Irt) : (s.modIrt f).schB = s.schB := rfl
@[simp] theorem State.modIrt_drc (f : Irt → Irt) : (s.modIrt f).drc = s.drc := rfl
@[simp] theorem State.modIrt_xsp (f : Irt → Irt) : (s.modIrt f).xsp = s.xsp := rfl
@[simp] theorem State.modIrt_spk (f : Irt → Irt) : (s.modIrt f).spk = s.spk := rfl
@[simp] theorem State.modIrt_wrd (f : Irt → Irt) : (s.modIrt f).wrd = s.wrd := rfl
@[simp] theorem State.modIrt_gate (f : Irt → Irt) : (s.modIrt f).gate = s.gate := rfl
@[simp] theorem State.modIrt_clk (f : Irt → Irt) : (s.modIrt f).clk = s.clk := rfl
@[simp] theorem State.modIrt_grm (f : Irt → Irt) : (s.modIrt f).grm = s.grm := rfl
@[simp] theorem State.modIrt_cta (f : Irt → Irt) : (s.modIrt f).cta = s.cta := rfl
@[simp] theorem State.modIrt_pio (f : Irt → Irt) : (s.modIrt f).pio = s.pio := rfl
@[simp] theorem State.modIrt_usb (f : Irt → Irt) : (s.modIrt f).usb = s.usb := rfl
@[simp] theorem State.modIrt_canA (f : Irt → Irt) : (s.modIrt f).canA = s.canA := rfl
@[simp] theorem State.modIrt_canB (f : Irt → Irt) : (s.modIrt f).canB = s.canB := rfl
@[simp] theorem State.modIrt_nfc (f : Irt → Irt) : (s.modIrt f).nfc = s.nfc := rfl
@[simp] theorem State.modIrt_uat (f : Irt → Irt) : (s.modIrt f).uat = s.uat := rfl
@[simp] theorem State.modIrt_own (f : Irt → Irt) : (s.modIrt f).irt = f s.irt := rfl
@[simp] theorem State.modIrt_cpu (f : Irt → Irt) (u : Tandem) : (s.modIrt f).cpu u = s.cpu u := by cases u <;> rfl
@[simp] theorem State.modIrt_sch (f : Irt → Irt) (u : Side) : (s.modIrt f).sch u = s.sch u := by cases u <;> rfl
@[simp] theorem State.modIrt_can (f : Irt → Irt) (u : Side) : (s.modIrt f).can u = s.can u := by cases u <;> rfl

@[simp] theorem State.modSpk_pending (f : Spk → Spk) : (s.modSpk f).pending = s.pending := rfl
@[simp] theorem State.modSpk_free (f : Spk → Spk) : (s.modSpk f).free = s.free := rfl
@[simp] theorem State.modSpk_rdata (f : Spk → Spk) : (s.modSpk f).rdata = s.rdata := rfl
@[simp] theorem State.modSpk_us (f : Spk → Spk) : (s.modSpk f).us = s.us := rfl
@[simp] theorem State.modSpk_relUs (f : Spk → Spk) : (s.modSpk f).relUs = s.relUs := rfl
@[simp] theorem State.modSpk_cpuA (f : Spk → Spk) : (s.modSpk f).cpuA = s.cpuA := rfl
@[simp] theorem State.modSpk_cpuB (f : Spk → Spk) : (s.modSpk f).cpuB = s.cpuB := rfl
@[simp] theorem State.modSpk_cpuG (f : Spk → Spk) : (s.modSpk f).cpuG = s.cpuG := rfl
@[simp] theorem State.modSpk_mem (f : Spk → Spk) : (s.modSpk f).mem = s.mem := rfl
@[simp] theorem State.modSpk_l2 (f : Spk → Spk) : (s.modSpk f).l2 = s.l2 := rfl
@[simp] theorem State.modSpk_upset (f : Spk → Spk) : (s.modSpk f).upset = s.upset := rfl
@[simp] theorem State.modSpk_schA (f : Spk → Spk) : (s.modSpk f).schA = s.schA := rfl
@[simp] theorem State.modSpk_schB (f : Spk → Spk) : (s.modSpk f).schB = s.schB := rfl
@[simp] theorem State.modSpk_irt (f : Spk → Spk) : (s.modSpk f).irt = s.irt := rfl
@[simp] theorem State.modSpk_drc (f : Spk → Spk) : (s.modSpk f).drc = s.drc := rfl
@[simp] theorem State.modSpk_xsp (f : Spk → Spk) : (s.modSpk f).xsp = s.xsp := rfl
@[simp] theorem State.modSpk_wrd (f : Spk → Spk) : (s.modSpk f).wrd = s.wrd := rfl
@[simp] theorem State.modSpk_gate (f : Spk → Spk) : (s.modSpk f).gate = s.gate := rfl
@[simp] theorem State.modSpk_clk (f : Spk → Spk) : (s.modSpk f).clk = s.clk := rfl
@[simp] theorem State.modSpk_grm (f : Spk → Spk) : (s.modSpk f).grm = s.grm := rfl
@[simp] theorem State.modSpk_cta (f : Spk → Spk) : (s.modSpk f).cta = s.cta := rfl
@[simp] theorem State.modSpk_pio (f : Spk → Spk) : (s.modSpk f).pio = s.pio := rfl
@[simp] theorem State.modSpk_usb (f : Spk → Spk) : (s.modSpk f).usb = s.usb := rfl
@[simp] theorem State.modSpk_canA (f : Spk → Spk) : (s.modSpk f).canA = s.canA := rfl
@[simp] theorem State.modSpk_canB (f : Spk → Spk) : (s.modSpk f).canB = s.canB := rfl
@[simp] theorem State.modSpk_nfc (f : Spk → Spk) : (s.modSpk f).nfc = s.nfc := rfl
@[simp] theorem State.modSpk_uat (f : Spk → Spk) : (s.modSpk f).uat = s.uat := rfl
@[simp] theorem State.modSpk_own (f : Spk → Spk) : (s.modSpk f).spk = f s.spk := rfl
@[simp] theorem State.modSpk_cpu (f : Spk → Spk) (u : Tandem) : (s.modSpk f).cpu u = s.cpu u := by cases u <;> rfl
@[simp] theorem State.modSpk_sch (f : Spk → Spk) (u : Side) : (s.modSpk f).sch u = s.sch u := by cases u <;> rfl
@[simp] theorem State.modSpk_can (f : Spk → Spk) (u : Side) : (s.modSpk f).can u = s.can u := by cases u <;> rfl

@[simp] theorem State.modWrd_pending (f : Wrd → Wrd) : (s.modWrd f).pending = s.pending := rfl
@[simp] theorem State.modWrd_free (f : Wrd → Wrd) : (s.modWrd f).free = s.free := rfl
@[simp] theorem State.modWrd_rdata (f : Wrd → Wrd) : (s.modWrd f).rdata = s.rdata := rfl
@[simp] theorem State.modWrd_us (f : Wrd → Wrd) : (s.modWrd f).us = s.us := rfl
@[simp] theorem State.modWrd_relUs (f : Wrd → Wrd) : (s.modWrd f).relUs = s.relUs := rfl
@[simp] theorem State.modWrd_cpuA (f : Wrd → Wrd) : (s.modWrd f).cpuA = s.cpuA := rfl
@[simp] theorem State.modWrd_cpuB (f : Wrd → Wrd) : (s.modWrd f).cpuB = s.cpuB := rfl
@[simp] theorem State.modWrd_cpuG (f : Wrd → Wrd) : (s.modWrd f).cpuG = s.cpuG := rfl
@[simp] theorem State.modWrd_mem (f : Wrd → Wrd) : (s.modWrd f).mem = s.mem := rfl
@[simp] theorem State.modWrd_l2 (f : Wrd → Wrd) : (s.modWrd f).l2 = s.l2 := rfl
@[simp] theorem State.modWrd_upset (f : Wrd → Wrd) : (s.modWrd f).upset = s.upset := rfl
@[simp] theorem State.modWrd_schA (f : Wrd → Wrd) : (s.modWrd f).schA = s.schA := rfl
@[simp] theorem State.modWrd_schB (f : Wrd → Wrd) : (s.modWrd f).schB = s.schB := rfl
@[simp] theorem State.modWrd_irt (f : Wrd → Wrd) : (s.modWrd f).irt = s.irt := rfl
@[simp] theorem State.modWrd_drc (f : Wrd → Wrd) : (s.modWrd f).drc = s.drc := rfl
@[simp] theorem State.modWrd_xsp (f : Wrd → Wrd) : (s.modWrd f).xsp = s.xsp := rfl
@[simp] theorem State.modWrd_spk (f : Wrd → Wrd) : (s.modWrd f).spk = s.spk := rfl
@[simp] theorem State.modWrd_gate (f : Wrd → Wrd) : (s.modWrd f).gate = s.gate := rfl
@[simp] theorem State.modWrd_clk (f : Wrd → Wrd) : (s.modWrd f).clk = s.clk := rfl
@[simp] theorem State.modWrd_grm (f : Wrd → Wrd) : (s.modWrd f).grm = s.grm := rfl
@[simp] theorem State.modWrd_cta (f : Wrd → Wrd) : (s.modWrd f).cta = s.cta := rfl
@[simp] theorem State.modWrd_pio (f : Wrd → Wrd) : (s.modWrd f).pio = s.pio := rfl
@[simp] theorem State.modWrd_usb (f : Wrd → Wrd) : (s.modWrd f).usb = s.usb := rfl
@[simp] theorem State.modWrd_canA (f : Wrd → Wrd) : (s.modWrd f).canA = s.canA := rfl
@[simp] theorem State.modWrd_canB (f : Wrd → Wrd) : (s.modWrd f).canB = s.canB := rfl
@[simp] theorem State.modWrd_nfc (f : Wrd → Wrd) : (s.modWrd f).nfc = s.nfc := rfl
@[simp] theorem State.modWrd_uat (f : Wrd → Wrd) : (s.modWrd f).uat = s.uat := rfl
@[simp] theorem State.modWrd_own (f : Wrd → Wrd) : (s.modWrd f).wrd = f s.wrd := rfl
@[simp] theorem State.modWrd_cpu (f : Wrd → Wrd) (u : Tandem) : (s.modWrd f).cpu u = s.cpu u := by cases u <;> rfl
@[simp] theorem State.modWrd_sch (f : Wrd → Wrd) (u : Side) : (s.modWrd f).sch u = s.sch u := by cases u <;> rfl
@[simp] theorem State.modWrd_can (f : Wrd → Wrd) (u : Side) : (s.modWrd f).can u = s.can u := by cases u <;> rfl

@[simp] theorem State.modGate_pending (f : Gate → Gate) : (s.modGate f).pending = s.pending := rfl
@[simp] theorem State.modGate_free (f : Gate → Gate) : (s.modGate f).free = s.free := rfl
@[simp] theorem State.modGate_rdata (f : Gate → Gate) : (s.modGate f).rdata = s.rdata := rfl
@[simp] theorem State.modGate_us (f : Gate → Gate) : (s.modGate f).us = s.us := rfl
@[simp] theorem State.modGate_relUs (f : Gate → Gate) : (s.modGate f).relUs = s.relUs := rfl
@[simp] theorem State.modGate_cpuA (f : Gate → Gate) : (s.modGate f).cpuA = s.cpuA := rfl
@[simp] theorem State.modGate_cpuB (f : Gate → Gate) : (s.modGate f).cpuB = s.cpuB := rfl
@[simp] theorem State.modGate_cpuG (f : Gate → Gate) : (s.modGate f).cpuG = s.cpuG := rfl
@[simp] theorem State.modGate_mem (f : Gate → Gate) : (s.modGate f).mem = s.mem := rfl
@[simp] theorem State.modGate_l2 (f : Gate → Gate) : (s.modGate f).l2 = s.l2 := rfl
@[simp] theorem State.modGate_upset (f : Gate → Gate) : (s.modGate f).upset = s.upset := rfl
@[simp] theorem State.modGate_schA (f : Gate → Gate) : (s.modGate f).schA = s.schA := rfl
@[simp] theorem State.modGate_schB (f : Gate → Gate) : (s.modGate f).schB = s.schB := rfl
@[simp] theorem State.modGate_irt (f : Gate → Gate) : (s.modGate f).irt = s.irt := rfl
@[simp] theorem State.modGate_drc (f : Gate → Gate) : (s.modGate f).drc = s.drc := rfl
@[simp] theorem State.modGate_xsp (f : Gate → Gate) : (s.modGate f).xsp = s.xsp := rfl
@[simp] theorem State.modGate_spk (f : Gate → Gate) : (s.modGate f).spk = s.spk := rfl
@[simp] theorem State.modGate_wrd (f : Gate → Gate) : (s.modGate f).wrd = s.wrd := rfl
@[simp] theorem State.modGate_clk (f : Gate → Gate) : (s.modGate f).clk = s.clk := rfl
@[simp] theorem State.modGate_grm (f : Gate → Gate) : (s.modGate f).grm = s.grm := rfl
@[simp] theorem State.modGate_cta (f : Gate → Gate) : (s.modGate f).cta = s.cta := rfl
@[simp] theorem State.modGate_pio (f : Gate → Gate) : (s.modGate f).pio = s.pio := rfl
@[simp] theorem State.modGate_usb (f : Gate → Gate) : (s.modGate f).usb = s.usb := rfl
@[simp] theorem State.modGate_canA (f : Gate → Gate) : (s.modGate f).canA = s.canA := rfl
@[simp] theorem State.modGate_canB (f : Gate → Gate) : (s.modGate f).canB = s.canB := rfl
@[simp] theorem State.modGate_nfc (f : Gate → Gate) : (s.modGate f).nfc = s.nfc := rfl
@[simp] theorem State.modGate_uat (f : Gate → Gate) : (s.modGate f).uat = s.uat := rfl
@[simp] theorem State.modGate_own (f : Gate → Gate) : (s.modGate f).gate = f s.gate := rfl
@[simp] theorem State.modGate_cpu (f : Gate → Gate) (u : Tandem) : (s.modGate f).cpu u = s.cpu u := by cases u <;> rfl
@[simp] theorem State.modGate_sch (f : Gate → Gate) (u : Side) : (s.modGate f).sch u = s.sch u := by cases u <;> rfl
@[simp] theorem State.modGate_can (f : Gate → Gate) (u : Side) : (s.modGate f).can u = s.can u := by cases u <;> rfl

@[simp] theorem State.modClk_pending (f : Clk → Clk) : (s.modClk f).pending = s.pending := rfl
@[simp] theorem State.modClk_free (f : Clk → Clk) : (s.modClk f).free = s.free := rfl
@[simp] theorem State.modClk_rdata (f : Clk → Clk) : (s.modClk f).rdata = s.rdata := rfl
@[simp] theorem State.modClk_us (f : Clk → Clk) : (s.modClk f).us = s.us := rfl
@[simp] theorem State.modClk_relUs (f : Clk → Clk) : (s.modClk f).relUs = s.relUs := rfl
@[simp] theorem State.modClk_cpuA (f : Clk → Clk) : (s.modClk f).cpuA = s.cpuA := rfl
@[simp] theorem State.modClk_cpuB (f : Clk → Clk) : (s.modClk f).cpuB = s.cpuB := rfl
@[simp] theorem State.modClk_cpuG (f : Clk → Clk) : (s.modClk f).cpuG = s.cpuG := rfl
@[simp] theorem State.modClk_mem (f : Clk → Clk) : (s.modClk f).mem = s.mem := rfl
@[simp] theorem State.modClk_l2 (f : Clk → Clk) : (s.modClk f).l2 = s.l2 := rfl
@[simp] theorem State.modClk_upset (f : Clk → Clk) : (s.modClk f).upset = s.upset := rfl
@[simp] theorem State.modClk_schA (f : Clk → Clk) : (s.modClk f).schA = s.schA := rfl
@[simp] theorem State.modClk_schB (f : Clk → Clk) : (s.modClk f).schB = s.schB := rfl
@[simp] theorem State.modClk_irt (f : Clk → Clk) : (s.modClk f).irt = s.irt := rfl
@[simp] theorem State.modClk_drc (f : Clk → Clk) : (s.modClk f).drc = s.drc := rfl
@[simp] theorem State.modClk_xsp (f : Clk → Clk) : (s.modClk f).xsp = s.xsp := rfl
@[simp] theorem State.modClk_spk (f : Clk → Clk) : (s.modClk f).spk = s.spk := rfl
@[simp] theorem State.modClk_wrd (f : Clk → Clk) : (s.modClk f).wrd = s.wrd := rfl
@[simp] theorem State.modClk_gate (f : Clk → Clk) : (s.modClk f).gate = s.gate := rfl
@[simp] theorem State.modClk_grm (f : Clk → Clk) : (s.modClk f).grm = s.grm := rfl
@[simp] theorem State.modClk_cta (f : Clk → Clk) : (s.modClk f).cta = s.cta := rfl
@[simp] theorem State.modClk_pio (f : Clk → Clk) : (s.modClk f).pio = s.pio := rfl
@[simp] theorem State.modClk_usb (f : Clk → Clk) : (s.modClk f).usb = s.usb := rfl
@[simp] theorem State.modClk_canA (f : Clk → Clk) : (s.modClk f).canA = s.canA := rfl
@[simp] theorem State.modClk_canB (f : Clk → Clk) : (s.modClk f).canB = s.canB := rfl
@[simp] theorem State.modClk_nfc (f : Clk → Clk) : (s.modClk f).nfc = s.nfc := rfl
@[simp] theorem State.modClk_uat (f : Clk → Clk) : (s.modClk f).uat = s.uat := rfl
@[simp] theorem State.modClk_own (f : Clk → Clk) : (s.modClk f).clk = f s.clk := rfl
@[simp] theorem State.modClk_cpu (f : Clk → Clk) (u : Tandem) : (s.modClk f).cpu u = s.cpu u := by cases u <;> rfl
@[simp] theorem State.modClk_sch (f : Clk → Clk) (u : Side) : (s.modClk f).sch u = s.sch u := by cases u <;> rfl
@[simp] theorem State.modClk_can (f : Clk → Clk) (u : Side) : (s.modClk f).can u = s.can u := by cases u <;> rfl

@[simp] theorem State.modGrm_pending (f : Grm → Grm) : (s.modGrm f).pending = s.pending := rfl
@[simp] theorem State.modGrm_free (f : Grm → Grm) : (s.modGrm f).free = s.free := rfl
@[simp] theorem State.modGrm_rdata (f : Grm → Grm) : (s.modGrm f).rdata = s.rdata := rfl
@[simp] theorem State.modGrm_us (f : Grm → Grm) : (s.modGrm f).us = s.us := rfl
@[simp] theorem State.modGrm_relUs (f : Grm → Grm) : (s.modGrm f).relUs = s.relUs := rfl
@[simp] theorem State.modGrm_cpuA (f : Grm → Grm) : (s.modGrm f).cpuA = s.cpuA := rfl
@[simp] theorem State.modGrm_cpuB (f : Grm → Grm) : (s.modGrm f).cpuB = s.cpuB := rfl
@[simp] theorem State.modGrm_cpuG (f : Grm → Grm) : (s.modGrm f).cpuG = s.cpuG := rfl
@[simp] theorem State.modGrm_mem (f : Grm → Grm) : (s.modGrm f).mem = s.mem := rfl
@[simp] theorem State.modGrm_l2 (f : Grm → Grm) : (s.modGrm f).l2 = s.l2 := rfl
@[simp] theorem State.modGrm_upset (f : Grm → Grm) : (s.modGrm f).upset = s.upset := rfl
@[simp] theorem State.modGrm_schA (f : Grm → Grm) : (s.modGrm f).schA = s.schA := rfl
@[simp] theorem State.modGrm_schB (f : Grm → Grm) : (s.modGrm f).schB = s.schB := rfl
@[simp] theorem State.modGrm_irt (f : Grm → Grm) : (s.modGrm f).irt = s.irt := rfl
@[simp] theorem State.modGrm_drc (f : Grm → Grm) : (s.modGrm f).drc = s.drc := rfl
@[simp] theorem State.modGrm_xsp (f : Grm → Grm) : (s.modGrm f).xsp = s.xsp := rfl
@[simp] theorem State.modGrm_spk (f : Grm → Grm) : (s.modGrm f).spk = s.spk := rfl
@[simp] theorem State.modGrm_wrd (f : Grm → Grm) : (s.modGrm f).wrd = s.wrd := rfl
@[simp] theorem State.modGrm_gate (f : Grm → Grm) : (s.modGrm f).gate = s.gate := rfl
@[simp] theorem State.modGrm_clk (f : Grm → Grm) : (s.modGrm f).clk = s.clk := rfl
@[simp] theorem State.modGrm_cta (f : Grm → Grm) : (s.modGrm f).cta = s.cta := rfl
@[simp] theorem State.modGrm_pio (f : Grm → Grm) : (s.modGrm f).pio = s.pio := rfl
@[simp] theorem State.modGrm_usb (f : Grm → Grm) : (s.modGrm f).usb = s.usb := rfl
@[simp] theorem State.modGrm_canA (f : Grm → Grm) : (s.modGrm f).canA = s.canA := rfl
@[simp] theorem State.modGrm_canB (f : Grm → Grm) : (s.modGrm f).canB = s.canB := rfl
@[simp] theorem State.modGrm_nfc (f : Grm → Grm) : (s.modGrm f).nfc = s.nfc := rfl
@[simp] theorem State.modGrm_uat (f : Grm → Grm) : (s.modGrm f).uat = s.uat := rfl
@[simp] theorem State.modGrm_own (f : Grm → Grm) : (s.modGrm f).grm = f s.grm := rfl
@[simp] theorem State.modGrm_cpu (f : Grm → Grm) (u : Tandem) : (s.modGrm f).cpu u = s.cpu u := by cases u <;> rfl
@[simp] theorem State.modGrm_sch (f : Grm → Grm) (u : Side) : (s.modGrm f).sch u = s.sch u := by cases u <;> rfl
@[simp] theorem State.modGrm_can (f : Grm → Grm) (u : Side) : (s.modGrm f).can u = s.can u := by cases u <;> rfl

@[simp] theorem State.modMeta_pending (f : GrmMeta → GrmMeta) : (s.modMeta f).pending = s.pending := rfl
@[simp] theorem State.modMeta_free (f : GrmMeta → GrmMeta) : (s.modMeta f).free = s.free := rfl
@[simp] theorem State.modMeta_rdata (f : GrmMeta → GrmMeta) : (s.modMeta f).rdata = s.rdata := rfl
@[simp] theorem State.modMeta_us (f : GrmMeta → GrmMeta) : (s.modMeta f).us = s.us := rfl
@[simp] theorem State.modMeta_relUs (f : GrmMeta → GrmMeta) : (s.modMeta f).relUs = s.relUs := rfl
@[simp] theorem State.modMeta_cpuA (f : GrmMeta → GrmMeta) : (s.modMeta f).cpuA = s.cpuA := rfl
@[simp] theorem State.modMeta_cpuB (f : GrmMeta → GrmMeta) : (s.modMeta f).cpuB = s.cpuB := rfl
@[simp] theorem State.modMeta_cpuG (f : GrmMeta → GrmMeta) : (s.modMeta f).cpuG = s.cpuG := rfl
@[simp] theorem State.modMeta_mem (f : GrmMeta → GrmMeta) : (s.modMeta f).mem = s.mem := rfl
@[simp] theorem State.modMeta_l2 (f : GrmMeta → GrmMeta) : (s.modMeta f).l2 = s.l2 := rfl
@[simp] theorem State.modMeta_upset (f : GrmMeta → GrmMeta) : (s.modMeta f).upset = s.upset := rfl
@[simp] theorem State.modMeta_schA (f : GrmMeta → GrmMeta) : (s.modMeta f).schA = s.schA := rfl
@[simp] theorem State.modMeta_schB (f : GrmMeta → GrmMeta) : (s.modMeta f).schB = s.schB := rfl
@[simp] theorem State.modMeta_irt (f : GrmMeta → GrmMeta) : (s.modMeta f).irt = s.irt := rfl
@[simp] theorem State.modMeta_drc (f : GrmMeta → GrmMeta) : (s.modMeta f).drc = s.drc := rfl
@[simp] theorem State.modMeta_xsp (f : GrmMeta → GrmMeta) : (s.modMeta f).xsp = s.xsp := rfl
@[simp] theorem State.modMeta_spk (f : GrmMeta → GrmMeta) : (s.modMeta f).spk = s.spk := rfl
@[simp] theorem State.modMeta_wrd (f : GrmMeta → GrmMeta) : (s.modMeta f).wrd = s.wrd := rfl
@[simp] theorem State.modMeta_gate (f : GrmMeta → GrmMeta) : (s.modMeta f).gate = s.gate := rfl
@[simp] theorem State.modMeta_clk (f : GrmMeta → GrmMeta) : (s.modMeta f).clk = s.clk := rfl
@[simp] theorem State.modMeta_cta (f : GrmMeta → GrmMeta) : (s.modMeta f).cta = s.cta := rfl
@[simp] theorem State.modMeta_pio (f : GrmMeta → GrmMeta) : (s.modMeta f).pio = s.pio := rfl
@[simp] theorem State.modMeta_usb (f : GrmMeta → GrmMeta) : (s.modMeta f).usb = s.usb := rfl
@[simp] theorem State.modMeta_canA (f : GrmMeta → GrmMeta) : (s.modMeta f).canA = s.canA := rfl
@[simp] theorem State.modMeta_canB (f : GrmMeta → GrmMeta) : (s.modMeta f).canB = s.canB := rfl
@[simp] theorem State.modMeta_nfc (f : GrmMeta → GrmMeta) : (s.modMeta f).nfc = s.nfc := rfl
@[simp] theorem State.modMeta_uat (f : GrmMeta → GrmMeta) : (s.modMeta f).uat = s.uat := rfl
@[simp] theorem State.modMeta_cpu (f : GrmMeta → GrmMeta) (u : Tandem) : (s.modMeta f).cpu u = s.cpu u := by cases u <;> rfl
@[simp] theorem State.modMeta_sch (f : GrmMeta → GrmMeta) (u : Side) : (s.modMeta f).sch u = s.sch u := by cases u <;> rfl
@[simp] theorem State.modMeta_can (f : GrmMeta → GrmMeta) (u : Side) : (s.modMeta f).can u = s.can u := by cases u <;> rfl

@[simp] theorem State.modPio_pending (f : Pio → Pio) : (s.modPio f).pending = s.pending := rfl
@[simp] theorem State.modPio_free (f : Pio → Pio) : (s.modPio f).free = s.free := rfl
@[simp] theorem State.modPio_rdata (f : Pio → Pio) : (s.modPio f).rdata = s.rdata := rfl
@[simp] theorem State.modPio_us (f : Pio → Pio) : (s.modPio f).us = s.us := rfl
@[simp] theorem State.modPio_relUs (f : Pio → Pio) : (s.modPio f).relUs = s.relUs := rfl
@[simp] theorem State.modPio_cpuA (f : Pio → Pio) : (s.modPio f).cpuA = s.cpuA := rfl
@[simp] theorem State.modPio_cpuB (f : Pio → Pio) : (s.modPio f).cpuB = s.cpuB := rfl
@[simp] theorem State.modPio_cpuG (f : Pio → Pio) : (s.modPio f).cpuG = s.cpuG := rfl
@[simp] theorem State.modPio_mem (f : Pio → Pio) : (s.modPio f).mem = s.mem := rfl
@[simp] theorem State.modPio_l2 (f : Pio → Pio) : (s.modPio f).l2 = s.l2 := rfl
@[simp] theorem State.modPio_upset (f : Pio → Pio) : (s.modPio f).upset = s.upset := rfl
@[simp] theorem State.modPio_schA (f : Pio → Pio) : (s.modPio f).schA = s.schA := rfl
@[simp] theorem State.modPio_schB (f : Pio → Pio) : (s.modPio f).schB = s.schB := rfl
@[simp] theorem State.modPio_irt (f : Pio → Pio) : (s.modPio f).irt = s.irt := rfl
@[simp] theorem State.modPio_drc (f : Pio → Pio) : (s.modPio f).drc = s.drc := rfl
@[simp] theorem State.modPio_xsp (f : Pio → Pio) : (s.modPio f).xsp = s.xsp := rfl
@[simp] theorem State.modPio_spk (f : Pio → Pio) : (s.modPio f).spk = s.spk := rfl
@[simp] theorem State.modPio_wrd (f : Pio → Pio) : (s.modPio f).wrd = s.wrd := rfl
@[simp] theorem State.modPio_gate (f : Pio → Pio) : (s.modPio f).gate = s.gate := rfl
@[simp] theorem State.modPio_clk (f : Pio → Pio) : (s.modPio f).clk = s.clk := rfl
@[simp] theorem State.modPio_grm (f : Pio → Pio) : (s.modPio f).grm = s.grm := rfl
@[simp] theorem State.modPio_cta (f : Pio → Pio) : (s.modPio f).cta = s.cta := rfl
@[simp] theorem State.modPio_usb (f : Pio → Pio) : (s.modPio f).usb = s.usb := rfl
@[simp] theorem State.modPio_canA (f : Pio → Pio) : (s.modPio f).canA = s.canA := rfl
@[simp] theorem State.modPio_canB (f : Pio → Pio) : (s.modPio f).canB = s.canB := rfl
@[simp] theorem State.modPio_nfc (f : Pio → Pio) : (s.modPio f).nfc = s.nfc := rfl
@[simp] theorem State.modPio_uat (f : Pio → Pio) : (s.modPio f).uat = s.uat := rfl
@[simp] theorem State.modPio_own (f : Pio → Pio) : (s.modPio f).pio = f s.pio := rfl
@[simp] theorem State.modPio_cpu (f : Pio → Pio) (u : Tandem) : (s.modPio f).cpu u = s.cpu u := by cases u <;> rfl
@[simp] theorem State.modPio_sch (f : Pio → Pio) (u : Side) : (s.modPio f).sch u = s.sch u := by cases u <;> rfl
@[simp] theorem State.modPio_can (f : Pio → Pio) (u : Side) : (s.modPio f).can u = s.can u := by cases u <;> rfl

@[simp] theorem State.modUsb_pending (f : Usb → Usb) : (s.modUsb f).pending = s.pending := rfl
@[simp] theorem State.modUsb_free (f : Usb → Usb) : (s.modUsb f).free = s.free := rfl
@[simp] theorem State.modUsb_rdata (f : Usb → Usb) : (s.modUsb f).rdata = s.rdata := rfl
@[simp] theorem State.modUsb_us (f : Usb → Usb) : (s.modUsb f).us = s.us := rfl
@[simp] theorem State.modUsb_relUs (f : Usb → Usb) : (s.modUsb f).relUs = s.relUs := rfl
@[simp] theorem State.modUsb_cpuA (f : Usb → Usb) : (s.modUsb f).cpuA = s.cpuA := rfl
@[simp] theorem State.modUsb_cpuB (f : Usb → Usb) : (s.modUsb f).cpuB = s.cpuB := rfl
@[simp] theorem State.modUsb_cpuG (f : Usb → Usb) : (s.modUsb f).cpuG = s.cpuG := rfl
@[simp] theorem State.modUsb_mem (f : Usb → Usb) : (s.modUsb f).mem = s.mem := rfl
@[simp] theorem State.modUsb_l2 (f : Usb → Usb) : (s.modUsb f).l2 = s.l2 := rfl
@[simp] theorem State.modUsb_upset (f : Usb → Usb) : (s.modUsb f).upset = s.upset := rfl
@[simp] theorem State.modUsb_schA (f : Usb → Usb) : (s.modUsb f).schA = s.schA := rfl
@[simp] theorem State.modUsb_schB (f : Usb → Usb) : (s.modUsb f).schB = s.schB := rfl
@[simp] theorem State.modUsb_irt (f : Usb → Usb) : (s.modUsb f).irt = s.irt := rfl
@[simp] theorem State.modUsb_drc (f : Usb → Usb) : (s.modUsb f).drc = s.drc := rfl
@[simp] theorem State.modUsb_xsp (f : Usb → Usb) : (s.modUsb f).xsp = s.xsp := rfl
@[simp] theorem State.modUsb_spk (f : Usb → Usb) : (s.modUsb f).spk = s.spk := rfl
@[simp] theorem State.modUsb_wrd (f : Usb → Usb) : (s.modUsb f).wrd = s.wrd := rfl
@[simp] theorem State.modUsb_gate (f : Usb → Usb) : (s.modUsb f).gate = s.gate := rfl
@[simp] theorem State.modUsb_clk (f : Usb → Usb) : (s.modUsb f).clk = s.clk := rfl
@[simp] theorem State.modUsb_grm (f : Usb → Usb) : (s.modUsb f).grm = s.grm := rfl
@[simp] theorem State.modUsb_cta (f : Usb → Usb) : (s.modUsb f).cta = s.cta := rfl
@[simp] theorem State.modUsb_pio (f : Usb → Usb) : (s.modUsb f).pio = s.pio := rfl
@[simp] theorem State.modUsb_canA (f : Usb → Usb) : (s.modUsb f).canA = s.canA := rfl
@[simp] theorem State.modUsb_canB (f : Usb → Usb) : (s.modUsb f).canB = s.canB := rfl
@[simp] theorem State.modUsb_nfc (f : Usb → Usb) : (s.modUsb f).nfc = s.nfc := rfl
@[simp] theorem State.modUsb_uat (f : Usb → Usb) : (s.modUsb f).uat = s.uat := rfl
@[simp] theorem State.modUsb_own (f : Usb → Usb) : (s.modUsb f).usb = f s.usb := rfl
@[simp] theorem State.modUsb_cpu (f : Usb → Usb) (u : Tandem) : (s.modUsb f).cpu u = s.cpu u := by cases u <;> rfl
@[simp] theorem State.modUsb_sch (f : Usb → Usb) (u : Side) : (s.modUsb f).sch u = s.sch u := by cases u <;> rfl
@[simp] theorem State.modUsb_can (f : Usb → Usb) (u : Side) : (s.modUsb f).can u = s.can u := by cases u <;> rfl

@[simp] theorem State.modNfc_pending (f : Nfc → Nfc) : (s.modNfc f).pending = s.pending := rfl
@[simp] theorem State.modNfc_free (f : Nfc → Nfc) : (s.modNfc f).free = s.free := rfl
@[simp] theorem State.modNfc_rdata (f : Nfc → Nfc) : (s.modNfc f).rdata = s.rdata := rfl
@[simp] theorem State.modNfc_us (f : Nfc → Nfc) : (s.modNfc f).us = s.us := rfl
@[simp] theorem State.modNfc_relUs (f : Nfc → Nfc) : (s.modNfc f).relUs = s.relUs := rfl
@[simp] theorem State.modNfc_cpuA (f : Nfc → Nfc) : (s.modNfc f).cpuA = s.cpuA := rfl
@[simp] theorem State.modNfc_cpuB (f : Nfc → Nfc) : (s.modNfc f).cpuB = s.cpuB := rfl
@[simp] theorem State.modNfc_cpuG (f : Nfc → Nfc) : (s.modNfc f).cpuG = s.cpuG := rfl
@[simp] theorem State.modNfc_mem (f : Nfc → Nfc) : (s.modNfc f).mem = s.mem := rfl
@[simp] theorem State.modNfc_l2 (f : Nfc → Nfc) : (s.modNfc f).l2 = s.l2 := rfl
@[simp] theorem State.modNfc_upset (f : Nfc → Nfc) : (s.modNfc f).upset = s.upset := rfl
@[simp] theorem State.modNfc_schA (f : Nfc → Nfc) : (s.modNfc f).schA = s.schA := rfl
@[simp] theorem State.modNfc_schB (f : Nfc → Nfc) : (s.modNfc f).schB = s.schB := rfl
@[simp] theorem State.modNfc_irt (f : Nfc → Nfc) : (s.modNfc f).irt = s.irt := rfl
@[simp] theorem State.modNfc_drc (f : Nfc → Nfc) : (s.modNfc f).drc = s.drc := rfl
@[simp] theorem State.modNfc_xsp (f : Nfc → Nfc) : (s.modNfc f).xsp = s.xsp := rfl
@[simp] theorem State.modNfc_spk (f : Nfc → Nfc) : (s.modNfc f).spk = s.spk := rfl
@[simp] theorem State.modNfc_wrd (f : Nfc → Nfc) : (s.modNfc f).wrd = s.wrd := rfl
@[simp] theorem State.modNfc_gate (f : Nfc → Nfc) : (s.modNfc f).gate = s.gate := rfl
@[simp] theorem State.modNfc_clk (f : Nfc → Nfc) : (s.modNfc f).clk = s.clk := rfl
@[simp] theorem State.modNfc_grm (f : Nfc → Nfc) : (s.modNfc f).grm = s.grm := rfl
@[simp] theorem State.modNfc_cta (f : Nfc → Nfc) : (s.modNfc f).cta = s.cta := rfl
@[simp] theorem State.modNfc_pio (f : Nfc → Nfc) : (s.modNfc f).pio = s.pio := rfl
@[simp] theorem State.modNfc_usb (f : Nfc → Nfc) : (s.modNfc f).usb = s.usb := rfl
@[simp] theorem State.modNfc_canA (f : Nfc → Nfc) : (s.modNfc f).canA = s.canA := rfl
@[simp] theorem State.modNfc_canB (f : Nfc → Nfc) : (s.modNfc f).canB = s.canB := rfl
@[simp] theorem State.modNfc_uat (f : Nfc → Nfc) : (s.modNfc f).uat = s.uat := rfl
@[simp] theorem State.modNfc_own (f : Nfc → Nfc) : (s.modNfc f).nfc = f s.nfc := rfl
@[simp] theorem State.modNfc_cpu (f : Nfc → Nfc) (u : Tandem) : (s.modNfc f).cpu u = s.cpu u := by cases u <;> rfl
@[simp] theorem State.modNfc_sch (f : Nfc → Nfc) (u : Side) : (s.modNfc f).sch u = s.sch u := by cases u <;> rfl
@[simp] theorem State.modNfc_can (f : Nfc → Nfc) (u : Side) : (s.modNfc f).can u = s.can u := by cases u <;> rfl

@[simp] theorem State.modUat_pending (f : Uat → Uat) : (s.modUat f).pending = s.pending := rfl
@[simp] theorem State.modUat_free (f : Uat → Uat) : (s.modUat f).free = s.free := rfl
@[simp] theorem State.modUat_rdata (f : Uat → Uat) : (s.modUat f).rdata = s.rdata := rfl
@[simp] theorem State.modUat_us (f : Uat → Uat) : (s.modUat f).us = s.us := rfl
@[simp] theorem State.modUat_relUs (f : Uat → Uat) : (s.modUat f).relUs = s.relUs := rfl
@[simp] theorem State.modUat_cpuA (f : Uat → Uat) : (s.modUat f).cpuA = s.cpuA := rfl
@[simp] theorem State.modUat_cpuB (f : Uat → Uat) : (s.modUat f).cpuB = s.cpuB := rfl
@[simp] theorem State.modUat_cpuG (f : Uat → Uat) : (s.modUat f).cpuG = s.cpuG := rfl
@[simp] theorem State.modUat_mem (f : Uat → Uat) : (s.modUat f).mem = s.mem := rfl
@[simp] theorem State.modUat_l2 (f : Uat → Uat) : (s.modUat f).l2 = s.l2 := rfl
@[simp] theorem State.modUat_upset (f : Uat → Uat) : (s.modUat f).upset = s.upset := rfl
@[simp] theorem State.modUat_schA (f : Uat → Uat) : (s.modUat f).schA = s.schA := rfl
@[simp] theorem State.modUat_schB (f : Uat → Uat) : (s.modUat f).schB = s.schB := rfl
@[simp] theorem State.modUat_irt (f : Uat → Uat) : (s.modUat f).irt = s.irt := rfl
@[simp] theorem State.modUat_drc (f : Uat → Uat) : (s.modUat f).drc = s.drc := rfl
@[simp] theorem State.modUat_xsp (f : Uat → Uat) : (s.modUat f).xsp = s.xsp := rfl
@[simp] theorem State.modUat_spk (f : Uat → Uat) : (s.modUat f).spk = s.spk := rfl
@[simp] theorem State.modUat_wrd (f : Uat → Uat) : (s.modUat f).wrd = s.wrd := rfl
@[simp] theorem State.modUat_gate (f : Uat → Uat) : (s.modUat f).gate = s.gate := rfl
@[simp] theorem State.modUat_clk (f : Uat → Uat) : (s.modUat f).clk = s.clk := rfl
@[simp] theorem State.modUat_grm (f : Uat → Uat) : (s.modUat f).grm = s.grm := rfl
@[simp] theorem State.modUat_cta (f : Uat → Uat) : (s.modUat f).cta = s.cta := rfl
@[simp] theorem State.modUat_pio (f : Uat → Uat) : (s.modUat f).pio = s.pio := rfl
@[simp] theorem State.modUat_usb (f : Uat → Uat) : (s.modUat f).usb = s.usb := rfl
@[simp] theorem State.modUat_canA (f : Uat → Uat) : (s.modUat f).canA = s.canA := rfl
@[simp] theorem State.modUat_canB (f : Uat → Uat) : (s.modUat f).canB = s.canB := rfl
@[simp] theorem State.modUat_nfc (f : Uat → Uat) : (s.modUat f).nfc = s.nfc := rfl
@[simp] theorem State.modUat_own (f : Uat → Uat) : (s.modUat f).uat = f s.uat := rfl
@[simp] theorem State.modUat_cpu (f : Uat → Uat) (u : Tandem) : (s.modUat f).cpu u = s.cpu u := by cases u <;> rfl
@[simp] theorem State.modUat_sch (f : Uat → Uat) (u : Side) : (s.modUat f).sch u = s.sch u := by cases u <;> rfl
@[simp] theorem State.modUat_can (f : Uat → Uat) (u : Side) : (s.modUat f).can u = s.can u := by cases u <;> rfl

@[simp] theorem State.detect_pending (b : Fin 18) (d : Nat) : (s.detect b d).pending = s.pending := rfl
@[simp] theorem State.detect_free (b : Fin 18) (d : Nat) : (s.detect b d).free = s.free := rfl
@[simp] theorem State.detect_rdata (b : Fin 18) (d : Nat) : (s.detect b d).rdata = s.rdata := rfl
@[simp] theorem State.detect_us (b : Fin 18) (d : Nat) : (s.detect b d).us = s.us := rfl
@[simp] theorem State.detect_relUs (b : Fin 18) (d : Nat) : (s.detect b d).relUs = s.relUs := rfl
@[simp] theorem State.detect_cpuA (b : Fin 18) (d : Nat) : (s.detect b d).cpuA = s.cpuA := rfl
@[simp] theorem State.detect_cpuB (b : Fin 18) (d : Nat) : (s.detect b d).cpuB = s.cpuB := rfl
@[simp] theorem State.detect_cpuG (b : Fin 18) (d : Nat) : (s.detect b d).cpuG = s.cpuG := rfl
@[simp] theorem State.detect_mem (b : Fin 18) (d : Nat) : (s.detect b d).mem = s.mem := rfl
@[simp] theorem State.detect_l2 (b : Fin 18) (d : Nat) : (s.detect b d).l2 = s.l2 := rfl
@[simp] theorem State.detect_upset (b : Fin 18) (d : Nat) : (s.detect b d).upset = s.upset := rfl
@[simp] theorem State.detect_schA (b : Fin 18) (d : Nat) : (s.detect b d).schA = s.schA := rfl
@[simp] theorem State.detect_schB (b : Fin 18) (d : Nat) : (s.detect b d).schB = s.schB := rfl
@[simp] theorem State.detect_irt (b : Fin 18) (d : Nat) : (s.detect b d).irt = s.irt := rfl
@[simp] theorem State.detect_drc (b : Fin 18) (d : Nat) : (s.detect b d).drc = s.drc := rfl
@[simp] theorem State.detect_xsp (b : Fin 18) (d : Nat) : (s.detect b d).xsp = s.xsp := rfl
@[simp] theorem State.detect_spk (b : Fin 18) (d : Nat) : (s.detect b d).spk = s.spk := rfl
@[simp] theorem State.detect_gate (b : Fin 18) (d : Nat) : (s.detect b d).gate = s.gate := rfl
@[simp] theorem State.detect_clk (b : Fin 18) (d : Nat) : (s.detect b d).clk = s.clk := rfl
@[simp] theorem State.detect_grm (b : Fin 18) (d : Nat) : (s.detect b d).grm = s.grm := rfl
@[simp] theorem State.detect_cta (b : Fin 18) (d : Nat) : (s.detect b d).cta = s.cta := rfl
@[simp] theorem State.detect_pio (b : Fin 18) (d : Nat) : (s.detect b d).pio = s.pio := rfl
@[simp] theorem State.detect_usb (b : Fin 18) (d : Nat) : (s.detect b d).usb = s.usb := rfl
@[simp] theorem State.detect_canA (b : Fin 18) (d : Nat) : (s.detect b d).canA = s.canA := rfl
@[simp] theorem State.detect_canB (b : Fin 18) (d : Nat) : (s.detect b d).canB = s.canB := rfl
@[simp] theorem State.detect_nfc (b : Fin 18) (d : Nat) : (s.detect b d).nfc = s.nfc := rfl
@[simp] theorem State.detect_uat (b : Fin 18) (d : Nat) : (s.detect b d).uat = s.uat := rfl
@[simp] theorem State.detect_cpu (b : Fin 18) (d : Nat) (u : Tandem) : (s.detect b d).cpu u = s.cpu u := by cases u <;> rfl
@[simp] theorem State.detect_sch (b : Fin 18) (d : Nat) (u : Side) : (s.detect b d).sch u = s.sch u := by cases u <;> rfl
@[simp] theorem State.detect_can (b : Fin 18) (d : Nat) (u : Side) : (s.detect b d).can u = s.can u := by cases u <;> rfl

@[simp] theorem State.mchk_pending (d : Nat) : (s.mchk d).pending = s.pending := rfl
@[simp] theorem State.mchk_free (d : Nat) : (s.mchk d).free = s.free := rfl
@[simp] theorem State.mchk_rdata (d : Nat) : (s.mchk d).rdata = s.rdata := rfl
@[simp] theorem State.mchk_us (d : Nat) : (s.mchk d).us = s.us := rfl
@[simp] theorem State.mchk_relUs (d : Nat) : (s.mchk d).relUs = s.relUs := rfl
@[simp] theorem State.mchk_cpuA (d : Nat) : (s.mchk d).cpuA = s.cpuA := rfl
@[simp] theorem State.mchk_cpuB (d : Nat) : (s.mchk d).cpuB = s.cpuB := rfl
@[simp] theorem State.mchk_cpuG (d : Nat) : (s.mchk d).cpuG = s.cpuG := rfl
@[simp] theorem State.mchk_mem (d : Nat) : (s.mchk d).mem = s.mem := rfl
@[simp] theorem State.mchk_l2 (d : Nat) : (s.mchk d).l2 = s.l2 := rfl
@[simp] theorem State.mchk_upset (d : Nat) : (s.mchk d).upset = s.upset := rfl
@[simp] theorem State.mchk_schA (d : Nat) : (s.mchk d).schA = s.schA := rfl
@[simp] theorem State.mchk_schB (d : Nat) : (s.mchk d).schB = s.schB := rfl
@[simp] theorem State.mchk_irt (d : Nat) : (s.mchk d).irt = s.irt := rfl
@[simp] theorem State.mchk_drc (d : Nat) : (s.mchk d).drc = s.drc := rfl
@[simp] theorem State.mchk_xsp (d : Nat) : (s.mchk d).xsp = s.xsp := rfl
@[simp] theorem State.mchk_spk (d : Nat) : (s.mchk d).spk = s.spk := rfl
@[simp] theorem State.mchk_gate (d : Nat) : (s.mchk d).gate = s.gate := rfl
@[simp] theorem State.mchk_clk (d : Nat) : (s.mchk d).clk = s.clk := rfl
@[simp] theorem State.mchk_grm (d : Nat) : (s.mchk d).grm = s.grm := rfl
@[simp] theorem State.mchk_cta (d : Nat) : (s.mchk d).cta = s.cta := rfl
@[simp] theorem State.mchk_pio (d : Nat) : (s.mchk d).pio = s.pio := rfl
@[simp] theorem State.mchk_usb (d : Nat) : (s.mchk d).usb = s.usb := rfl
@[simp] theorem State.mchk_canA (d : Nat) : (s.mchk d).canA = s.canA := rfl
@[simp] theorem State.mchk_canB (d : Nat) : (s.mchk d).canB = s.canB := rfl
@[simp] theorem State.mchk_nfc (d : Nat) : (s.mchk d).nfc = s.nfc := rfl
@[simp] theorem State.mchk_uat (d : Nat) : (s.mchk d).uat = s.uat := rfl
@[simp] theorem State.mchk_cpu (d : Nat) (u : Tandem) : (s.mchk d).cpu u = s.cpu u := by cases u <;> rfl
@[simp] theorem State.mchk_sch (d : Nat) (u : Side) : (s.mchk d).sch u = s.sch u := by cases u <;> rfl
@[simp] theorem State.mchk_can (d : Nat) (u : Side) : (s.mchk d).can u = s.can u := by cases u <;> rfl

@[simp] theorem State.eccCorr_pending (g : Nat) : (s.eccCorr g).pending = s.pending := rfl
@[simp] theorem State.eccCorr_free (g : Nat) : (s.eccCorr g).free = s.free := rfl
@[simp] theorem State.eccCorr_rdata (g : Nat) : (s.eccCorr g).rdata = s.rdata := rfl
@[simp] theorem State.eccCorr_us (g : Nat) : (s.eccCorr g).us = s.us := rfl
@[simp] theorem State.eccCorr_relUs (g : Nat) : (s.eccCorr g).relUs = s.relUs := rfl
@[simp] theorem State.eccCorr_cpuA (g : Nat) : (s.eccCorr g).cpuA = s.cpuA := rfl
@[simp] theorem State.eccCorr_cpuB (g : Nat) : (s.eccCorr g).cpuB = s.cpuB := rfl
@[simp] theorem State.eccCorr_cpuG (g : Nat) : (s.eccCorr g).cpuG = s.cpuG := rfl
@[simp] theorem State.eccCorr_mem (g : Nat) : (s.eccCorr g).mem = s.mem := rfl
@[simp] theorem State.eccCorr_l2 (g : Nat) : (s.eccCorr g).l2 = s.l2 := rfl
@[simp] theorem State.eccCorr_upset (g : Nat) : (s.eccCorr g).upset = s.upset := rfl
@[simp] theorem State.eccCorr_schA (g : Nat) : (s.eccCorr g).schA = s.schA := rfl
@[simp] theorem State.eccCorr_schB (g : Nat) : (s.eccCorr g).schB = s.schB := rfl
@[simp] theorem State.eccCorr_drc (g : Nat) : (s.eccCorr g).drc = s.drc := rfl
@[simp] theorem State.eccCorr_xsp (g : Nat) : (s.eccCorr g).xsp = s.xsp := rfl
@[simp] theorem State.eccCorr_spk (g : Nat) : (s.eccCorr g).spk = s.spk := rfl
@[simp] theorem State.eccCorr_wrd (g : Nat) : (s.eccCorr g).wrd = s.wrd := rfl
@[simp] theorem State.eccCorr_gate (g : Nat) : (s.eccCorr g).gate = s.gate := rfl
@[simp] theorem State.eccCorr_clk (g : Nat) : (s.eccCorr g).clk = s.clk := rfl
@[simp] theorem State.eccCorr_grm (g : Nat) : (s.eccCorr g).grm = s.grm := rfl
@[simp] theorem State.eccCorr_cta (g : Nat) : (s.eccCorr g).cta = s.cta := rfl
@[simp] theorem State.eccCorr_pio (g : Nat) : (s.eccCorr g).pio = s.pio := rfl
@[simp] theorem State.eccCorr_usb (g : Nat) : (s.eccCorr g).usb = s.usb := rfl
@[simp] theorem State.eccCorr_canA (g : Nat) : (s.eccCorr g).canA = s.canA := rfl
@[simp] theorem State.eccCorr_canB (g : Nat) : (s.eccCorr g).canB = s.canB := rfl
@[simp] theorem State.eccCorr_nfc (g : Nat) : (s.eccCorr g).nfc = s.nfc := rfl
@[simp] theorem State.eccCorr_uat (g : Nat) : (s.eccCorr g).uat = s.uat := rfl
@[simp] theorem State.eccCorr_cpu (g : Nat) (u : Tandem) : (s.eccCorr g).cpu u = s.cpu u := by cases u <;> rfl
@[simp] theorem State.eccCorr_sch (g : Nat) (u : Side) : (s.eccCorr g).sch u = s.sch u := by cases u <;> rfl
@[simp] theorem State.eccCorr_can (g : Nat) (u : Side) : (s.eccCorr g).can u = s.can u := by cases u <;> rfl

@[simp] theorem State.eccUnc_pending (g : Nat) : (s.eccUnc g).pending = s.pending := rfl
@[simp] theorem State.eccUnc_free (g : Nat) : (s.eccUnc g).free = s.free := rfl
@[simp] theorem State.eccUnc_rdata (g : Nat) : (s.eccUnc g).rdata = s.rdata := rfl
@[simp] theorem State.eccUnc_us (g : Nat) : (s.eccUnc g).us = s.us := rfl
@[simp] theorem State.eccUnc_relUs (g : Nat) : (s.eccUnc g).relUs = s.relUs := rfl
@[simp] theorem State.eccUnc_cpuA (g : Nat) : (s.eccUnc g).cpuA = s.cpuA := rfl
@[simp] theorem State.eccUnc_cpuB (g : Nat) : (s.eccUnc g).cpuB = s.cpuB := rfl
@[simp] theorem State.eccUnc_cpuG (g : Nat) : (s.eccUnc g).cpuG = s.cpuG := rfl
@[simp] theorem State.eccUnc_mem (g : Nat) : (s.eccUnc g).mem = s.mem := rfl
@[simp] theorem State.eccUnc_l2 (g : Nat) : (s.eccUnc g).l2 = s.l2 := rfl
@[simp] theorem State.eccUnc_upset (g : Nat) : (s.eccUnc g).upset = s.upset := rfl
@[simp] theorem State.eccUnc_schA (g : Nat) : (s.eccUnc g).schA = s.schA := rfl
@[simp] theorem State.eccUnc_schB (g : Nat) : (s.eccUnc g).schB = s.schB := rfl
@[simp] theorem State.eccUnc_drc (g : Nat) : (s.eccUnc g).drc = s.drc := rfl
@[simp] theorem State.eccUnc_xsp (g : Nat) : (s.eccUnc g).xsp = s.xsp := rfl
@[simp] theorem State.eccUnc_spk (g : Nat) : (s.eccUnc g).spk = s.spk := rfl
@[simp] theorem State.eccUnc_wrd (g : Nat) : (s.eccUnc g).wrd = s.wrd := rfl
@[simp] theorem State.eccUnc_gate (g : Nat) : (s.eccUnc g).gate = s.gate := rfl
@[simp] theorem State.eccUnc_clk (g : Nat) : (s.eccUnc g).clk = s.clk := rfl
@[simp] theorem State.eccUnc_grm (g : Nat) : (s.eccUnc g).grm = s.grm := rfl
@[simp] theorem State.eccUnc_cta (g : Nat) : (s.eccUnc g).cta = s.cta := rfl
@[simp] theorem State.eccUnc_pio (g : Nat) : (s.eccUnc g).pio = s.pio := rfl
@[simp] theorem State.eccUnc_usb (g : Nat) : (s.eccUnc g).usb = s.usb := rfl
@[simp] theorem State.eccUnc_canA (g : Nat) : (s.eccUnc g).canA = s.canA := rfl
@[simp] theorem State.eccUnc_canB (g : Nat) : (s.eccUnc g).canB = s.canB := rfl
@[simp] theorem State.eccUnc_nfc (g : Nat) : (s.eccUnc g).nfc = s.nfc := rfl
@[simp] theorem State.eccUnc_uat (g : Nat) : (s.eccUnc g).uat = s.uat := rfl
@[simp] theorem State.eccUnc_cpu (g : Nat) (u : Tandem) : (s.eccUnc g).cpu u = s.cpu u := by cases u <;> rfl
@[simp] theorem State.eccUnc_sch (g : Nat) (u : Side) : (s.eccUnc g).sch u = s.sch u := by cases u <;> rfl
@[simp] theorem State.eccUnc_can (g : Nat) (u : Side) : (s.eccUnc g).can u = s.can u := by cases u <;> rfl

@[simp] theorem State.vc_pending (k : Nat) : (s.vc k).pending = s.pending := rfl
@[simp] theorem State.vc_free (k : Nat) : (s.vc k).free = s.free := rfl
@[simp] theorem State.vc_rdata (k : Nat) : (s.vc k).rdata = s.rdata := rfl
@[simp] theorem State.vc_us (k : Nat) : (s.vc k).us = s.us := rfl
@[simp] theorem State.vc_relUs (k : Nat) : (s.vc k).relUs = s.relUs := rfl
@[simp] theorem State.vc_cpuA (k : Nat) : (s.vc k).cpuA = s.cpuA := rfl
@[simp] theorem State.vc_cpuB (k : Nat) : (s.vc k).cpuB = s.cpuB := rfl
@[simp] theorem State.vc_cpuG (k : Nat) : (s.vc k).cpuG = s.cpuG := rfl
@[simp] theorem State.vc_mem (k : Nat) : (s.vc k).mem = s.mem := rfl
@[simp] theorem State.vc_l2 (k : Nat) : (s.vc k).l2 = s.l2 := rfl
@[simp] theorem State.vc_upset (k : Nat) : (s.vc k).upset = s.upset := rfl
@[simp] theorem State.vc_schA (k : Nat) : (s.vc k).schA = s.schA := rfl
@[simp] theorem State.vc_schB (k : Nat) : (s.vc k).schB = s.schB := rfl
@[simp] theorem State.vc_drc (k : Nat) : (s.vc k).drc = s.drc := rfl
@[simp] theorem State.vc_xsp (k : Nat) : (s.vc k).xsp = s.xsp := rfl
@[simp] theorem State.vc_spk (k : Nat) : (s.vc k).spk = s.spk := rfl
@[simp] theorem State.vc_wrd (k : Nat) : (s.vc k).wrd = s.wrd := rfl
@[simp] theorem State.vc_gate (k : Nat) : (s.vc k).gate = s.gate := rfl
@[simp] theorem State.vc_clk (k : Nat) : (s.vc k).clk = s.clk := rfl
@[simp] theorem State.vc_grm (k : Nat) : (s.vc k).grm = s.grm := rfl
@[simp] theorem State.vc_cta (k : Nat) : (s.vc k).cta = s.cta := rfl
@[simp] theorem State.vc_pio (k : Nat) : (s.vc k).pio = s.pio := rfl
@[simp] theorem State.vc_usb (k : Nat) : (s.vc k).usb = s.usb := rfl
@[simp] theorem State.vc_canA (k : Nat) : (s.vc k).canA = s.canA := rfl
@[simp] theorem State.vc_canB (k : Nat) : (s.vc k).canB = s.canB := rfl
@[simp] theorem State.vc_nfc (k : Nat) : (s.vc k).nfc = s.nfc := rfl
@[simp] theorem State.vc_uat (k : Nat) : (s.vc k).uat = s.uat := rfl
@[simp] theorem State.vc_cpu (k : Nat) (u : Tandem) : (s.vc k).cpu u = s.cpu u := by cases u <;> rfl
@[simp] theorem State.vc_sch (k : Nat) (u : Side) : (s.vc k).sch u = s.sch u := by cases u <;> rfl
@[simp] theorem State.vc_can (k : Nat) (u : Side) : (s.vc k).can u = s.can u := by cases u <;> rfl

@[simp] theorem State.freeNext_pending : (s.freeNext).pending = s.pending := rfl
@[simp] theorem State.freeNext_rdata : (s.freeNext).rdata = s.rdata := rfl
@[simp] theorem State.freeNext_us : (s.freeNext).us = s.us := rfl
@[simp] theorem State.freeNext_relUs : (s.freeNext).relUs = s.relUs := rfl
@[simp] theorem State.freeNext_cpuA : (s.freeNext).cpuA = s.cpuA := rfl
@[simp] theorem State.freeNext_cpuB : (s.freeNext).cpuB = s.cpuB := rfl
@[simp] theorem State.freeNext_cpuG : (s.freeNext).cpuG = s.cpuG := rfl
@[simp] theorem State.freeNext_mem : (s.freeNext).mem = s.mem := rfl
@[simp] theorem State.freeNext_l2 : (s.freeNext).l2 = s.l2 := rfl
@[simp] theorem State.freeNext_upset : (s.freeNext).upset = s.upset := rfl
@[simp] theorem State.freeNext_schA : (s.freeNext).schA = s.schA := rfl
@[simp] theorem State.freeNext_schB : (s.freeNext).schB = s.schB := rfl
@[simp] theorem State.freeNext_irt : (s.freeNext).irt = s.irt := rfl
@[simp] theorem State.freeNext_drc : (s.freeNext).drc = s.drc := rfl
@[simp] theorem State.freeNext_xsp : (s.freeNext).xsp = s.xsp := rfl
@[simp] theorem State.freeNext_spk : (s.freeNext).spk = s.spk := rfl
@[simp] theorem State.freeNext_wrd : (s.freeNext).wrd = s.wrd := rfl
@[simp] theorem State.freeNext_gate : (s.freeNext).gate = s.gate := rfl
@[simp] theorem State.freeNext_clk : (s.freeNext).clk = s.clk := rfl
@[simp] theorem State.freeNext_grm : (s.freeNext).grm = s.grm := rfl
@[simp] theorem State.freeNext_cta : (s.freeNext).cta = s.cta := rfl
@[simp] theorem State.freeNext_pio : (s.freeNext).pio = s.pio := rfl
@[simp] theorem State.freeNext_usb : (s.freeNext).usb = s.usb := rfl
@[simp] theorem State.freeNext_canA : (s.freeNext).canA = s.canA := rfl
@[simp] theorem State.freeNext_canB : (s.freeNext).canB = s.canB := rfl
@[simp] theorem State.freeNext_nfc : (s.freeNext).nfc = s.nfc := rfl
@[simp] theorem State.freeNext_uat : (s.freeNext).uat = s.uat := rfl
@[simp] theorem State.freeNext_cpu  (u : Tandem) : (s.freeNext ).cpu u = s.cpu u := by cases u <;> rfl
@[simp] theorem State.freeNext_sch  (u : Side) : (s.freeNext ).sch u = s.sch u := by cases u <;> rfl
@[simp] theorem State.freeNext_can  (u : Side) : (s.freeNext ).can u = s.can u := by cases u <;> rfl

@[simp] theorem State.modFront_pending (t : Tandem) (f : Front → Front) : (s.modFront t f).pending = s.pending := by cases t <;> rfl
@[simp] theorem State.modFront_free (t : Tandem) (f : Front → Front) : (s.modFront t f).free = s.free := by cases t <;> rfl
@[simp] theorem State.modFront_rdata (t : Tandem) (f : Front → Front) : (s.modFront t f).rdata = s.rdata := by cases t <;> rfl
@[simp] theorem State.modFront_us (t : Tandem) (f : Front → Front) : (s.modFront t f).us = s.us := by cases t <;> rfl
@[simp] theorem State.modFront_relUs (t : Tandem) (f : Front → Front) : (s.modFront t f).relUs = s.relUs := by cases t <;> rfl
@[simp] theorem State.modFront_mem (t : Tandem) (f : Front → Front) : (s.modFront t f).mem = s.mem := by cases t <;> rfl
@[simp] theorem State.modFront_l2 (t : Tandem) (f : Front → Front) : (s.modFront t f).l2 = s.l2 := by cases t <;> rfl
@[simp] theorem State.modFront_upset (t : Tandem) (f : Front → Front) : (s.modFront t f).upset = s.upset := by cases t <;> rfl
@[simp] theorem State.modFront_schA (t : Tandem) (f : Front → Front) : (s.modFront t f).schA = s.schA := by cases t <;> rfl
@[simp] theorem State.modFront_schB (t : Tandem) (f : Front → Front) : (s.modFront t f).schB = s.schB := by cases t <;> rfl
@[simp] theorem State.modFront_irt (t : Tandem) (f : Front → Front) : (s.modFront t f).irt = s.irt := by cases t <;> rfl
@[simp] theorem State.modFront_drc (t : Tandem) (f : Front → Front) : (s.modFront t f).drc = s.drc := by cases t <;> rfl
@[simp] theorem State.modFront_xsp (t : Tandem) (f : Front → Front) : (s.modFront t f).xsp = s.xsp := by cases t <;> rfl
@[simp] theorem State.modFront_spk (t : Tandem) (f : Front → Front) : (s.modFront t f).spk = s.spk := by cases t <;> rfl
@[simp] theorem State.modFront_wrd (t : Tandem) (f : Front → Front) : (s.modFront t f).wrd = s.wrd := by cases t <;> rfl
@[simp] theorem State.modFront_gate (t : Tandem) (f : Front → Front) : (s.modFront t f).gate = s.gate := by cases t <;> rfl
@[simp] theorem State.modFront_clk (t : Tandem) (f : Front → Front) : (s.modFront t f).clk = s.clk := by cases t <;> rfl
@[simp] theorem State.modFront_grm (t : Tandem) (f : Front → Front) : (s.modFront t f).grm = s.grm := by cases t <;> rfl
@[simp] theorem State.modFront_cta (t : Tandem) (f : Front → Front) : (s.modFront t f).cta = s.cta := by cases t <;> rfl
@[simp] theorem State.modFront_pio (t : Tandem) (f : Front → Front) : (s.modFront t f).pio = s.pio := by cases t <;> rfl
@[simp] theorem State.modFront_usb (t : Tandem) (f : Front → Front) : (s.modFront t f).usb = s.usb := by cases t <;> rfl
@[simp] theorem State.modFront_canA (t : Tandem) (f : Front → Front) : (s.modFront t f).canA = s.canA := by cases t <;> rfl
@[simp] theorem State.modFront_canB (t : Tandem) (f : Front → Front) : (s.modFront t f).canB = s.canB := by cases t <;> rfl
@[simp] theorem State.modFront_nfc (t : Tandem) (f : Front → Front) : (s.modFront t f).nfc = s.nfc := by cases t <;> rfl
@[simp] theorem State.modFront_uat (t : Tandem) (f : Front → Front) : (s.modFront t f).uat = s.uat := by cases t <;> rfl
@[simp] theorem State.modFront_sch (t : Tandem) (f : Front → Front) (u : Side) : (s.modFront t f).sch u = s.sch u := by cases u <;> cases t <;> rfl
@[simp] theorem State.modFront_can (t : Tandem) (f : Front → Front) (u : Side) : (s.modFront t f).can u = s.can u := by cases u <;> cases t <;> rfl

@[simp] theorem State.event_pending (t : Tandem) (k n : Nat) : (s.event t k n).pending = s.pending := by cases t <;> rfl
@[simp] theorem State.event_free (t : Tandem) (k n : Nat) : (s.event t k n).free = s.free := by cases t <;> rfl
@[simp] theorem State.event_rdata (t : Tandem) (k n : Nat) : (s.event t k n).rdata = s.rdata := by cases t <;> rfl
@[simp] theorem State.event_us (t : Tandem) (k n : Nat) : (s.event t k n).us = s.us := by cases t <;> rfl
@[simp] theorem State.event_relUs (t : Tandem) (k n : Nat) : (s.event t k n).relUs = s.relUs := by cases t <;> rfl
@[simp] theorem State.event_mem (t : Tandem) (k n : Nat) : (s.event t k n).mem = s.mem := by cases t <;> rfl
@[simp] theorem State.event_l2 (t : Tandem) (k n : Nat) : (s.event t k n).l2 = s.l2 := by cases t <;> rfl
@[simp] theorem State.event_upset (t : Tandem) (k n : Nat) : (s.event t k n).upset = s.upset := by cases t <;> rfl
@[simp] theorem State.event_schA (t : Tandem) (k n : Nat) : (s.event t k n).schA = s.schA := by cases t <;> rfl
@[simp] theorem State.event_schB (t : Tandem) (k n : Nat) : (s.event t k n).schB = s.schB := by cases t <;> rfl
@[simp] theorem State.event_irt (t : Tandem) (k n : Nat) : (s.event t k n).irt = s.irt := by cases t <;> rfl
@[simp] theorem State.event_drc (t : Tandem) (k n : Nat) : (s.event t k n).drc = s.drc := by cases t <;> rfl
@[simp] theorem State.event_xsp (t : Tandem) (k n : Nat) : (s.event t k n).xsp = s.xsp := by cases t <;> rfl
@[simp] theorem State.event_spk (t : Tandem) (k n : Nat) : (s.event t k n).spk = s.spk := by cases t <;> rfl
@[simp] theorem State.event_wrd (t : Tandem) (k n : Nat) : (s.event t k n).wrd = s.wrd := by cases t <;> rfl
@[simp] theorem State.event_gate (t : Tandem) (k n : Nat) : (s.event t k n).gate = s.gate := by cases t <;> rfl
@[simp] theorem State.event_clk (t : Tandem) (k n : Nat) : (s.event t k n).clk = s.clk := by cases t <;> rfl
@[simp] theorem State.event_grm (t : Tandem) (k n : Nat) : (s.event t k n).grm = s.grm := by cases t <;> rfl
@[simp] theorem State.event_cta (t : Tandem) (k n : Nat) : (s.event t k n).cta = s.cta := by cases t <;> rfl
@[simp] theorem State.event_pio (t : Tandem) (k n : Nat) : (s.event t k n).pio = s.pio := by cases t <;> rfl
@[simp] theorem State.event_usb (t : Tandem) (k n : Nat) : (s.event t k n).usb = s.usb := by cases t <;> rfl
@[simp] theorem State.event_canA (t : Tandem) (k n : Nat) : (s.event t k n).canA = s.canA := by cases t <;> rfl
@[simp] theorem State.event_canB (t : Tandem) (k n : Nat) : (s.event t k n).canB = s.canB := by cases t <;> rfl
@[simp] theorem State.event_nfc (t : Tandem) (k n : Nat) : (s.event t k n).nfc = s.nfc := by cases t <;> rfl
@[simp] theorem State.event_uat (t : Tandem) (k n : Nat) : (s.event t k n).uat = s.uat := by cases t <;> rfl
@[simp] theorem State.event_sch (t : Tandem) (k n : Nat) (u : Side) : (s.event t k n).sch u = s.sch u := by cases u <;> cases t <;> rfl
@[simp] theorem State.event_can (t : Tandem) (k n : Nat) (u : Side) : (s.event t k n).can u = s.can u := by cases u <;> cases t <;> rfl

@[simp] theorem State.clearSite_pending (x : Site) : (s.clearSite x).pending = s.pending := rfl
@[simp] theorem State.clearSite_free (x : Site) : (s.clearSite x).free = s.free := rfl
@[simp] theorem State.clearSite_rdata (x : Site) : (s.clearSite x).rdata = s.rdata := rfl
@[simp] theorem State.clearSite_us (x : Site) : (s.clearSite x).us = s.us := rfl
@[simp] theorem State.clearSite_relUs (x : Site) : (s.clearSite x).relUs = s.relUs := rfl
@[simp] theorem State.clearSite_cpuA (x : Site) : (s.clearSite x).cpuA = s.cpuA := rfl
@[simp] theorem State.clearSite_cpuB (x : Site) : (s.clearSite x).cpuB = s.cpuB := rfl
@[simp] theorem State.clearSite_cpuG (x : Site) : (s.clearSite x).cpuG = s.cpuG := rfl
@[simp] theorem State.clearSite_mem (x : Site) : (s.clearSite x).mem = s.mem := rfl
@[simp] theorem State.clearSite_l2 (x : Site) : (s.clearSite x).l2 = s.l2 := rfl
@[simp] theorem State.clearSite_schA (x : Site) : (s.clearSite x).schA = s.schA := rfl
@[simp] theorem State.clearSite_schB (x : Site) : (s.clearSite x).schB = s.schB := rfl
@[simp] theorem State.clearSite_irt (x : Site) : (s.clearSite x).irt = s.irt := rfl
@[simp] theorem State.clearSite_drc (x : Site) : (s.clearSite x).drc = s.drc := rfl
@[simp] theorem State.clearSite_xsp (x : Site) : (s.clearSite x).xsp = s.xsp := rfl
@[simp] theorem State.clearSite_spk (x : Site) : (s.clearSite x).spk = s.spk := rfl
@[simp] theorem State.clearSite_wrd (x : Site) : (s.clearSite x).wrd = s.wrd := rfl
@[simp] theorem State.clearSite_gate (x : Site) : (s.clearSite x).gate = s.gate := rfl
@[simp] theorem State.clearSite_clk (x : Site) : (s.clearSite x).clk = s.clk := rfl
@[simp] theorem State.clearSite_grm (x : Site) : (s.clearSite x).grm = s.grm := rfl
@[simp] theorem State.clearSite_cta (x : Site) : (s.clearSite x).cta = s.cta := rfl
@[simp] theorem State.clearSite_pio (x : Site) : (s.clearSite x).pio = s.pio := rfl
@[simp] theorem State.clearSite_usb (x : Site) : (s.clearSite x).usb = s.usb := rfl
@[simp] theorem State.clearSite_canA (x : Site) : (s.clearSite x).canA = s.canA := rfl
@[simp] theorem State.clearSite_canB (x : Site) : (s.clearSite x).canB = s.canB := rfl
@[simp] theorem State.clearSite_nfc (x : Site) : (s.clearSite x).nfc = s.nfc := rfl
@[simp] theorem State.clearSite_uat (x : Site) : (s.clearSite x).uat = s.uat := rfl
@[simp] theorem State.clearSite_cpu (x : Site) (u : Tandem) : (s.clearSite x).cpu u = s.cpu u := by cases u <;> rfl
@[simp] theorem State.clearSite_sch (x : Site) (u : Side) : (s.clearSite x).sch u = s.sch u := by cases u <;> rfl
@[simp] theorem State.clearSite_can (x : Site) (u : Side) : (s.clearSite x).can u = s.can u := by cases u <;> rfl

@[simp] theorem State.setSite_pending (x : Site) (n : Nat) : (s.setSite x n).pending = s.pending := rfl
@[simp] theorem State.setSite_free (x : Site) (n : Nat) : (s.setSite x n).free = s.free := rfl
@[simp] theorem State.setSite_rdata (x : Site) (n : Nat) : (s.setSite x n).rdata = s.rdata := rfl
@[simp] theorem State.setSite_us (x : Site) (n : Nat) : (s.setSite x n).us = s.us := rfl
@[simp] theorem State.setSite_relUs (x : Site) (n : Nat) : (s.setSite x n).relUs = s.relUs := rfl
@[simp] theorem State.setSite_cpuA (x : Site) (n : Nat) : (s.setSite x n).cpuA = s.cpuA := rfl
@[simp] theorem State.setSite_cpuB (x : Site) (n : Nat) : (s.setSite x n).cpuB = s.cpuB := rfl
@[simp] theorem State.setSite_cpuG (x : Site) (n : Nat) : (s.setSite x n).cpuG = s.cpuG := rfl
@[simp] theorem State.setSite_mem (x : Site) (n : Nat) : (s.setSite x n).mem = s.mem := rfl
@[simp] theorem State.setSite_l2 (x : Site) (n : Nat) : (s.setSite x n).l2 = s.l2 := rfl
@[simp] theorem State.setSite_schA (x : Site) (n : Nat) : (s.setSite x n).schA = s.schA := rfl
@[simp] theorem State.setSite_schB (x : Site) (n : Nat) : (s.setSite x n).schB = s.schB := rfl
@[simp] theorem State.setSite_irt (x : Site) (n : Nat) : (s.setSite x n).irt = s.irt := rfl
@[simp] theorem State.setSite_drc (x : Site) (n : Nat) : (s.setSite x n).drc = s.drc := rfl
@[simp] theorem State.setSite_xsp (x : Site) (n : Nat) : (s.setSite x n).xsp = s.xsp := rfl
@[simp] theorem State.setSite_spk (x : Site) (n : Nat) : (s.setSite x n).spk = s.spk := rfl
@[simp] theorem State.setSite_wrd (x : Site) (n : Nat) : (s.setSite x n).wrd = s.wrd := rfl
@[simp] theorem State.setSite_gate (x : Site) (n : Nat) : (s.setSite x n).gate = s.gate := rfl
@[simp] theorem State.setSite_clk (x : Site) (n : Nat) : (s.setSite x n).clk = s.clk := rfl
@[simp] theorem State.setSite_grm (x : Site) (n : Nat) : (s.setSite x n).grm = s.grm := rfl
@[simp] theorem State.setSite_cta (x : Site) (n : Nat) : (s.setSite x n).cta = s.cta := rfl
@[simp] theorem State.setSite_pio (x : Site) (n : Nat) : (s.setSite x n).pio = s.pio := rfl
@[simp] theorem State.setSite_usb (x : Site) (n : Nat) : (s.setSite x n).usb = s.usb := rfl
@[simp] theorem State.setSite_canA (x : Site) (n : Nat) : (s.setSite x n).canA = s.canA := rfl
@[simp] theorem State.setSite_canB (x : Site) (n : Nat) : (s.setSite x n).canB = s.canB := rfl
@[simp] theorem State.setSite_nfc (x : Site) (n : Nat) : (s.setSite x n).nfc = s.nfc := rfl
@[simp] theorem State.setSite_uat (x : Site) (n : Nat) : (s.setSite x n).uat = s.uat := rfl
@[simp] theorem State.setSite_cpu (x : Site) (n : Nat) (u : Tandem) : (s.setSite x n).cpu u = s.cpu u := by cases u <;> rfl
@[simp] theorem State.setSite_sch (x : Site) (n : Nat) (u : Side) : (s.setSite x n).sch u = s.sch u := by cases u <;> rfl
@[simp] theorem State.setSite_can (x : Site) (n : Nat) (u : Side) : (s.setSite x n).can u = s.can u := by cases u <;> rfl

@[simp] theorem State.heal_pending (p : Site → Bool) : (s.heal p).pending = s.pending := rfl
@[simp] theorem State.heal_free (p : Site → Bool) : (s.heal p).free = s.free := rfl
@[simp] theorem State.heal_rdata (p : Site → Bool) : (s.heal p).rdata = s.rdata := rfl
@[simp] theorem State.heal_us (p : Site → Bool) : (s.heal p).us = s.us := rfl
@[simp] theorem State.heal_relUs (p : Site → Bool) : (s.heal p).relUs = s.relUs := rfl
@[simp] theorem State.heal_cpuA (p : Site → Bool) : (s.heal p).cpuA = s.cpuA := rfl
@[simp] theorem State.heal_cpuB (p : Site → Bool) : (s.heal p).cpuB = s.cpuB := rfl
@[simp] theorem State.heal_cpuG (p : Site → Bool) : (s.heal p).cpuG = s.cpuG := rfl
@[simp] theorem State.heal_mem (p : Site → Bool) : (s.heal p).mem = s.mem := rfl
@[simp] theorem State.heal_l2 (p : Site → Bool) : (s.heal p).l2 = s.l2 := rfl
@[simp] theorem State.heal_schA (p : Site → Bool) : (s.heal p).schA = s.schA := rfl
@[simp] theorem State.heal_schB (p : Site → Bool) : (s.heal p).schB = s.schB := rfl
@[simp] theorem State.heal_irt (p : Site → Bool) : (s.heal p).irt = s.irt := rfl
@[simp] theorem State.heal_drc (p : Site → Bool) : (s.heal p).drc = s.drc := rfl
@[simp] theorem State.heal_xsp (p : Site → Bool) : (s.heal p).xsp = s.xsp := rfl
@[simp] theorem State.heal_spk (p : Site → Bool) : (s.heal p).spk = s.spk := rfl
@[simp] theorem State.heal_wrd (p : Site → Bool) : (s.heal p).wrd = s.wrd := rfl
@[simp] theorem State.heal_gate (p : Site → Bool) : (s.heal p).gate = s.gate := rfl
@[simp] theorem State.heal_clk (p : Site → Bool) : (s.heal p).clk = s.clk := rfl
@[simp] theorem State.heal_grm (p : Site → Bool) : (s.heal p).grm = s.grm := rfl
@[simp] theorem State.heal_cta (p : Site → Bool) : (s.heal p).cta = s.cta := rfl
@[simp] theorem State.heal_pio (p : Site → Bool) : (s.heal p).pio = s.pio := rfl
@[simp] theorem State.heal_usb (p : Site → Bool) : (s.heal p).usb = s.usb := rfl
@[simp] theorem State.heal_canA (p : Site → Bool) : (s.heal p).canA = s.canA := rfl
@[simp] theorem State.heal_canB (p : Site → Bool) : (s.heal p).canB = s.canB := rfl
@[simp] theorem State.heal_nfc (p : Site → Bool) : (s.heal p).nfc = s.nfc := rfl
@[simp] theorem State.heal_uat (p : Site → Bool) : (s.heal p).uat = s.uat := rfl
@[simp] theorem State.heal_cpu (p : Site → Bool) (u : Tandem) : (s.heal p).cpu u = s.cpu u := by cases u <;> rfl
@[simp] theorem State.heal_sch (p : Site → Bool) (u : Side) : (s.heal p).sch u = s.sch u := by cases u <;> rfl
@[simp] theorem State.heal_can (p : Site → Bool) (u : Side) : (s.heal p).can u = s.can u := by cases u <;> rfl

@[simp] theorem State.hw_pending (r : State) : (s.hw r).pending = s.pending := rfl
@[simp] theorem State.hw_rdata (r : State) : (s.hw r).rdata = s.rdata := rfl
@[simp] theorem State.hw_us (r : State) : (s.hw r).us = s.us := rfl
@[simp] theorem State.hw_relUs (r : State) : (s.hw r).relUs = s.relUs := rfl
@[simp] theorem State.hw_mem (r : State) : (s.hw r).mem = s.mem := rfl
@[simp] theorem State.hw_schA (r : State) : (s.hw r).schA = s.schA := rfl
@[simp] theorem State.hw_schB (r : State) : (s.hw r).schB = s.schB := rfl
@[simp] theorem State.hw_xsp (r : State) : (s.hw r).xsp = s.xsp := rfl
@[simp] theorem State.hw_gate (r : State) : (s.hw r).gate = s.gate := rfl
@[simp] theorem State.hw_clk (r : State) : (s.hw r).clk = s.clk := rfl
@[simp] theorem State.hw_grm (r : State) : (s.hw r).grm = s.grm := rfl
@[simp] theorem State.hw_cta (r : State) : (s.hw r).cta = s.cta := rfl
@[simp] theorem State.hw_pio (r : State) : (s.hw r).pio = s.pio := rfl
@[simp] theorem State.hw_usb (r : State) : (s.hw r).usb = s.usb := rfl
@[simp] theorem State.hw_canA (r : State) : (s.hw r).canA = s.canA := rfl
@[simp] theorem State.hw_canB (r : State) : (s.hw r).canB = s.canB := rfl
@[simp] theorem State.hw_nfc (r : State) : (s.hw r).nfc = s.nfc := rfl
@[simp] theorem State.hw_uat (r : State) : (s.hw r).uat = s.uat := rfl
@[simp] theorem State.hw_sch (r : State) (u : Side) : (s.hw r).sch u = s.sch u := by cases u <;> rfl
@[simp] theorem State.hw_can (r : State) (u : Side) : (s.hw r).can u = s.can u := by cases u <;> rfl

/-! Tandems. -/

@[simp] theorem State.cpu_setCpu_same (t : Tandem) (c : Cpu) : (s.setCpu t c).cpu t = c := by cases t <;> rfl
theorem State.cpu_setCpu_other (t u : Tandem) (c : Cpu) (h : u ≠ t) : (s.setCpu t c).cpu u = s.cpu u := by
  cases t <;> cases u <;> first | rfl | exact absurd rfl h
@[simp] theorem State.cpu_modCpu_same (t : Tandem) (f : Cpu → Cpu) : (s.modCpu t f).cpu t = f (s.cpu t) := by cases t <;> rfl
theorem State.cpu_modCpu_other (t u : Tandem) (f : Cpu → Cpu) (h : u ≠ t) : (s.modCpu t f).cpu u = s.cpu u := by
  cases t <;> cases u <;> first | rfl | exact absurd rfl h
@[simp] theorem State.setCpu_setCpu (t : Tandem) (c d : Cpu) : (s.setCpu t c).setCpu t d = s.setCpu t d := by cases t <;> rfl
@[simp] theorem State.setCpu_cpu (t : Tandem) : s.setCpu t (s.cpu t) = s := by cases t <;> rfl
@[simp] theorem State.modCpu_setCpu (t : Tandem) (f : Cpu → Cpu) (d : Cpu) : (s.modCpu t f).setCpu t d = s.setCpu t d := by
  cases t <;> rfl
@[simp] theorem State.setCpu_modCpu (t : Tandem) (c : Cpu) (f : Cpu → Cpu) :
    (s.setCpu t c).modCpu t f = s.setCpu t (f c) := by cases t <;> rfl
@[simp] theorem State.modCpu_modCpu (t : Tandem) (f g : Cpu → Cpu) :
    (s.modCpu t f).modCpu t g = s.modCpu t fun c => g (f c) := by cases t <;> rfl
@[simp] theorem State.cpu_freeSet (n : Nat) (t : Tandem) : ({ s with free := n } : State).cpu t = s.cpu t := by cases t <;> rfl
theorem State.setCpu_freeSet (n : Nat) (t : Tandem) (c : Cpu) :
    ({ s with free := n } : State).setCpu t c = { s.setCpu t c with free := n } := by cases t <;> rfl

/-! Caches, lookups and check bits. -/

@[simp] theorem State.cpu_hw (r : State) (t : Tandem) : (s.hw r).cpu t = (s.cpu t).hw (r.cpu t) := by cases t <;> rfl
@[simp] theorem State.hw_hw (r q : State) : (s.hw r).hw q = s.hw q := rfl
@[simp] theorem State.hw_self : s.hw s = s := rfl

/-! Schedulers and CAN controllers. -/

@[simp] theorem State.sch_setSch_same (m : Side) (c : Sch) : (s.setSch m c).sch m = c := by cases m <;> rfl
@[simp] theorem State.sch_modSch_same (m : Side) (f : Sch → Sch) : (s.modSch m f).sch m = f (s.sch m) := by cases m <;> rfl
@[simp] theorem State.can_setCan_same (m : Side) (c : Can) : (s.setCan m c).can m = c := by cases m <;> rfl
@[simp] theorem State.can_modCan_same (m : Side) (f : Can → Can) : (s.modCan m f).can m = f (s.can m) := by cases m <;> rfl
theorem State.sch_setSch_other (m u : Side) (c : Sch) (h : u ≠ m) : (s.setSch m c).sch u = s.sch u := by
  cases m <;> cases u <;> first | rfl | exact absurd rfl h
theorem State.can_setCan_other (m u : Side) (c : Can) (h : u ≠ m) : (s.setCan m c).can u = s.can u := by
  cases m <;> cases u <;> first | rfl | exact absurd rfl h

/-! Lockers. -/

variable (c : Cpu) (l : Locker)

@[simp] theorem Cpu.locker_setLocker_same (n : Nat) : (c.setLocker n l).locker n = l := by
  simp [Cpu.locker, Cpu.setLocker]
theorem Cpu.locker_setLocker_other (n m : Nat) (h : m ≠ n) : (c.setLocker n l).locker m = c.locker m := by
  simp [Cpu.locker, Cpu.setLocker, tget_tset_other _ _ _ _ _ h]
@[simp] theorem Cpu.setLocker_cur (n : Nat) : (c.setLocker n l).cur = c.cur := rfl
@[simp] theorem Cpu.setLk_cur : (c.setLk l).cur = c.cur := rfl
@[simp] theorem Cpu.lk_setLk : (c.setLk l).lk = l := by simp [Cpu.lk, Cpu.setLk]
theorem Cpu.locker_setLk_other (n : Nat) (h : n ≠ c.cur.val) : (c.setLk l).locker n = c.locker n :=
  Cpu.locker_setLocker_other c l _ _ h

@[simp] theorem Cpu.setLk_run : (c.setLk l).run = c.run := rfl
@[simp] theorem Cpu.setLk_pcOver : (c.setLk l).pcOver = c.pcOver := rfl
@[simp] theorem Cpu.setLk_slot : (c.setLk l).slot = c.slot := rfl
@[simp] theorem Cpu.setLk_entering : (c.setLk l).entering = c.entering := rfl
@[simp] theorem Cpu.setLk_wait : (c.setLk l).wait = c.wait := rfl
@[simp] theorem Cpu.setLk_emuword : (c.setLk l).emuword = c.emuword := rfl
@[simp] theorem Cpu.setLk_cpl : (c.setLk l).cpl = c.cpl := rfl
@[simp] theorem Cpu.setLk_dfActive : (c.setLk l).dfActive = c.dfActive := rfl
@[simp] theorem Cpu.setLk_glide : (c.setLk l).glide = c.glide := rfl
@[simp] theorem Cpu.setLk_glideVec : (c.setLk l).glideVec = c.glideVec := rfl
@[simp] theorem Cpu.setLk_vtab : (c.setLk l).vtab = c.vtab := rfl
@[simp] theorem Cpu.setLk_shadow : (c.setLk l).shadow = c.shadow := rfl
@[simp] theorem Cpu.setLk_govCount : (c.setLk l).govCount = c.govCount := rfl
@[simp] theorem Cpu.setLk_govLast : (c.setLk l).govLast = c.govLast := rfl
@[simp] theorem Cpu.setLk_dwinP : (c.setLk l).dwinP = c.dwinP := rfl
@[simp] theorem Cpu.setLk_dwinX : (c.setLk l).dwinX = c.dwinX := rfl
@[simp] theorem Cpu.setLk_pmctl : (c.setLk l).pmctl = c.pmctl := rfl
@[simp] theorem Cpu.setLk_pmsel : (c.setLk l).pmsel = c.pmsel := rfl
@[simp] theorem Cpu.setLk_pmcyc : (c.setLk l).pmcyc = c.pmcyc := rfl
@[simp] theorem Cpu.setLk_pmret : (c.setLk l).pmret = c.pmret := rfl
@[simp] theorem Cpu.setLk_pmev : (c.setLk l).pmev = c.pmev := rfl
@[simp] theorem Cpu.setLk_timctl : (c.setLk l).timctl = c.timctl := rfl
@[simp] theorem Cpu.setLk_tlbhi : (c.setLk l).tlbhi = c.tlbhi := rfl
@[simp] theorem Cpu.setLk_tlblo : (c.setLk l).tlblo = c.tlblo := rfl
@[simp] theorem Cpu.setLk_xctl : (c.setLk l).xctl = c.xctl := rfl
@[simp] theorem Cpu.setLk_xmiss : (c.setLk l).xmiss = c.xmiss := rfl
@[simp] theorem Cpu.setLk_xmulti : (c.setLk l).xmulti = c.xmulti := rfl
@[simp] theorem Cpu.setLk_xrej : (c.setLk l).xrej = c.xrej := rfl
@[simp] theorem Cpu.setLk_xwptr : (c.setLk l).xwptr = c.xwptr := rfl
@[simp] theorem Cpu.setLk_tlb : (c.setLk l).tlb = c.tlb := rfl
@[simp] theorem Cpu.setLk_itlb : (c.setLk l).itlb = c.itlb := rfl
@[simp] theorem Cpu.setLk_dtlb : (c.setLk l).dtlb = c.dtlb := rfl
@[simp] theorem Cpu.setLk_resv : (c.setLk l).resv = c.resv := rfl
@[simp] theorem Cpu.setLk_hold : (c.setLk l).hold = c.hold := rfl
@[simp] theorem Cpu.setLk_sb : (c.setLk l).sb = c.sb := rfl
@[simp] theorem Cpu.setLk_front : (c.setLk l).front = c.front := rfl

@[simp] theorem Cpu.hw_run (d : Cpu) : (c.hw d).run = c.run := rfl
@[simp] theorem Cpu.hw_cur (d : Cpu) : (c.hw d).cur = c.cur := rfl
@[simp] theorem Cpu.hw_pcOver (d : Cpu) : (c.hw d).pcOver = c.pcOver := rfl
@[simp] theorem Cpu.hw_slot (d : Cpu) : (c.hw d).slot = c.slot := rfl
@[simp] theorem Cpu.hw_entering (d : Cpu) : (c.hw d).entering = c.entering := rfl
@[simp] theorem Cpu.hw_wait (d : Cpu) : (c.hw d).wait = c.wait := rfl
@[simp] theorem Cpu.hw_emuword (d : Cpu) : (c.hw d).emuword = c.emuword := rfl
@[simp] theorem Cpu.hw_cpl (d : Cpu) : (c.hw d).cpl = c.cpl := rfl
@[simp] theorem Cpu.hw_dfActive (d : Cpu) : (c.hw d).dfActive = c.dfActive := rfl
@[simp] theorem Cpu.hw_glide (d : Cpu) : (c.hw d).glide = c.glide := rfl
@[simp] theorem Cpu.hw_glideVec (d : Cpu) : (c.hw d).glideVec = c.glideVec := rfl
@[simp] theorem Cpu.hw_vtab (d : Cpu) : (c.hw d).vtab = c.vtab := rfl
@[simp] theorem Cpu.hw_shadow (d : Cpu) : (c.hw d).shadow = c.shadow := rfl
@[simp] theorem Cpu.hw_govCount (d : Cpu) : (c.hw d).govCount = c.govCount := rfl
@[simp] theorem Cpu.hw_govLast (d : Cpu) : (c.hw d).govLast = c.govLast := rfl
@[simp] theorem Cpu.hw_dwinP (d : Cpu) : (c.hw d).dwinP = c.dwinP := rfl
@[simp] theorem Cpu.hw_dwinX (d : Cpu) : (c.hw d).dwinX = c.dwinX := rfl
@[simp] theorem Cpu.hw_pmctl (d : Cpu) : (c.hw d).pmctl = c.pmctl := rfl
@[simp] theorem Cpu.hw_pmsel (d : Cpu) : (c.hw d).pmsel = c.pmsel := rfl
@[simp] theorem Cpu.hw_pmcyc (d : Cpu) : (c.hw d).pmcyc = c.pmcyc := rfl
@[simp] theorem Cpu.hw_pmret (d : Cpu) : (c.hw d).pmret = c.pmret := rfl
@[simp] theorem Cpu.hw_pmev (d : Cpu) : (c.hw d).pmev = c.pmev := rfl
@[simp] theorem Cpu.hw_timctl (d : Cpu) : (c.hw d).timctl = c.timctl := rfl
@[simp] theorem Cpu.hw_tlbhi (d : Cpu) : (c.hw d).tlbhi = c.tlbhi := rfl
@[simp] theorem Cpu.hw_tlblo (d : Cpu) : (c.hw d).tlblo = c.tlblo := rfl
@[simp] theorem Cpu.hw_xctl (d : Cpu) : (c.hw d).xctl = c.xctl := rfl
@[simp] theorem Cpu.hw_xmiss (d : Cpu) : (c.hw d).xmiss = c.xmiss := rfl
@[simp] theorem Cpu.hw_xmulti (d : Cpu) : (c.hw d).xmulti = d.xmulti := rfl
@[simp] theorem Cpu.hw_xrej (d : Cpu) : (c.hw d).xrej = c.xrej := rfl
@[simp] theorem Cpu.hw_xwptr (d : Cpu) : (c.hw d).xwptr = c.xwptr := rfl
@[simp] theorem Cpu.hw_tlb (d : Cpu) : (c.hw d).tlb = d.tlb := rfl
@[simp] theorem Cpu.hw_itlb (d : Cpu) : (c.hw d).itlb = d.itlb := rfl
@[simp] theorem Cpu.hw_dtlb (d : Cpu) : (c.hw d).dtlb = d.dtlb := rfl
@[simp] theorem Cpu.hw_resv (d : Cpu) : (c.hw d).resv = d.resv := rfl
@[simp] theorem Cpu.hw_hold (d : Cpu) : (c.hw d).hold = c.hold := rfl
@[simp] theorem Cpu.hw_sb (d : Cpu) : (c.hw d).sb = c.sb := rfl
@[simp] theorem Cpu.hw_front (d : Cpu) : (c.hw d).front = d.front := rfl
@[simp] theorem Cpu.hw_lockers (d : Cpu) : (c.hw d).lockers = c.lockers := rfl
@[simp] theorem Cpu.hw_lk (d : Cpu) : (c.hw d).lk = c.lk := rfl
@[simp] theorem Cpu.hw_locker (d : Cpu) (n : Nat) : (c.hw d).locker n = c.locker n := rfl
@[simp] theorem Cpu.hw_self : c.hw c = c := rfl
@[simp] theorem Cpu.hw_hw (d e : Cpu) : (c.hw d).hw e = c.hw e := rfl

@[simp] theorem Locker.setG_c (r : Reg) (v : TWord) : (l.setG r v).c = l.c := by unfold Locker.setG; split <;> rfl
@[simp] theorem Locker.setG_pcc (r : Reg) (v : TWord) : (l.setG r v).pcc = l.pcc := by unfold Locker.setG; split <;> rfl
@[simp] theorem Locker.setG_f (r : Reg) (v : TWord) : (l.setG r v).f = l.f := by unfold Locker.setG; split <;> rfl
@[simp] theorem Locker.setG_ecause (r : Reg) (v : TWord) : (l.setG r v).ecause = l.ecause := by unfold Locker.setG; split <;> rfl
@[simp] theorem Locker.setG_eaddr (r : Reg) (v : TWord) : (l.setG r v).eaddr = l.eaddr := by unfold Locker.setG; split <;> rfl
@[simp] theorem Locker.setG_enext (r : Reg) (v : TWord) : (l.setG r v).enext = l.enext := by unfold Locker.setG; split <;> rfl
@[simp] theorem Locker.setG_estat (r : Reg) (v : TWord) : (l.setG r v).estat = l.estat := by unfold Locker.setG; split <;> rfl
@[simp] theorem Locker.setG_mod0Base (r : Reg) (v : TWord) : (l.setG r v).mod0Base = l.mod0Base := by unfold Locker.setG; split <;> rfl
@[simp] theorem Locker.setG_mod0Ctl (r : Reg) (v : TWord) : (l.setG r v).mod0Ctl = l.mod0Ctl := by unfold Locker.setG; split <;> rfl
@[simp] theorem Locker.setG_mod1Base (r : Reg) (v : TWord) : (l.setG r v).mod1Base = l.mod1Base := by unfold Locker.setG; split <;> rfl
@[simp] theorem Locker.setG_mod1Ctl (r : Reg) (v : TWord) : (l.setG r v).mod1Ctl = l.mod1Ctl := by unfold Locker.setG; split <;> rfl
@[simp] theorem Locker.setG_crcp0 (r : Reg) (v : TWord) : (l.setG r v).crcp0 = l.crcp0 := by unfold Locker.setG; split <;> rfl
@[simp] theorem Locker.setG_crcp1 (r : Reg) (v : TWord) : (l.setG r v).crcp1 = l.crcp1 := by unfold Locker.setG; split <;> rfl
@[simp] theorem Locker.setG_crcp2 (r : Reg) (v : TWord) : (l.setG r v).crcp2 = l.crcp2 := by unfold Locker.setG; split <;> rfl
@[simp] theorem Locker.setG_fcsr (r : Reg) (v : TWord) : (l.setG r v).fcsr = l.fcsr := by unfold Locker.setG; split <;> rfl
@[simp] theorem Locker.setG_qstat (r : Reg) (v : TWord) : (l.setG r v).qstat = l.qstat := by unfold Locker.setG; split <;> rfl
@[simp] theorem Locker.setG_lkfrm (r : Reg) (v : TWord) : (l.setG r v).lkfrm = l.lkfrm := by unfold Locker.setG; split <;> rfl
@[simp] theorem Locker.setG_lkrsv (r : Reg) (v : TWord) : (l.setG r v).lkrsv = l.lkrsv := by unfold Locker.setG; split <;> rfl
@[simp] theorem Locker.setC_g (r : CReg) (v : Cap) : (l.setC r v).g = l.g := by unfold Locker.setC; split <;> rfl
@[simp] theorem Locker.setC_pcc (r : CReg) (v : Cap) : (l.setC r v).pcc = l.pcc := by unfold Locker.setC; split <;> rfl
@[simp] theorem Locker.setC_f (r : CReg) (v : Cap) : (l.setC r v).f = l.f := by unfold Locker.setC; split <;> rfl
@[simp] theorem Locker.setC_ecause (r : CReg) (v : Cap) : (l.setC r v).ecause = l.ecause := by unfold Locker.setC; split <;> rfl
@[simp] theorem Locker.setC_eaddr (r : CReg) (v : Cap) : (l.setC r v).eaddr = l.eaddr := by unfold Locker.setC; split <;> rfl
@[simp] theorem Locker.setC_enext (r : CReg) (v : Cap) : (l.setC r v).enext = l.enext := by unfold Locker.setC; split <;> rfl
@[simp] theorem Locker.setC_estat (r : CReg) (v : Cap) : (l.setC r v).estat = l.estat := by unfold Locker.setC; split <;> rfl
@[simp] theorem Locker.setC_mod0Base (r : CReg) (v : Cap) : (l.setC r v).mod0Base = l.mod0Base := by unfold Locker.setC; split <;> rfl
@[simp] theorem Locker.setC_mod0Ctl (r : CReg) (v : Cap) : (l.setC r v).mod0Ctl = l.mod0Ctl := by unfold Locker.setC; split <;> rfl
@[simp] theorem Locker.setC_mod1Base (r : CReg) (v : Cap) : (l.setC r v).mod1Base = l.mod1Base := by unfold Locker.setC; split <;> rfl
@[simp] theorem Locker.setC_mod1Ctl (r : CReg) (v : Cap) : (l.setC r v).mod1Ctl = l.mod1Ctl := by unfold Locker.setC; split <;> rfl
@[simp] theorem Locker.setC_crcp0 (r : CReg) (v : Cap) : (l.setC r v).crcp0 = l.crcp0 := by unfold Locker.setC; split <;> rfl
@[simp] theorem Locker.setC_crcp1 (r : CReg) (v : Cap) : (l.setC r v).crcp1 = l.crcp1 := by unfold Locker.setC; split <;> rfl
@[simp] theorem Locker.setC_crcp2 (r : CReg) (v : Cap) : (l.setC r v).crcp2 = l.crcp2 := by unfold Locker.setC; split <;> rfl
@[simp] theorem Locker.setC_fcsr (r : CReg) (v : Cap) : (l.setC r v).fcsr = l.fcsr := by unfold Locker.setC; split <;> rfl
@[simp] theorem Locker.setC_qstat (r : CReg) (v : Cap) : (l.setC r v).qstat = l.qstat := by unfold Locker.setC; split <;> rfl
@[simp] theorem Locker.setC_lkfrm (r : CReg) (v : Cap) : (l.setC r v).lkfrm = l.lkfrm := by unfold Locker.setC; split <;> rfl
@[simp] theorem Locker.setC_lkrsv (r : CReg) (v : Cap) : (l.setC r v).lkrsv = l.lkrsv := by unfold Locker.setC; split <;> rfl
@[simp] theorem Locker.setF_g (r : FReg) (v : TWord) : (l.setF r v).g = l.g := rfl
@[simp] theorem Locker.setF_c (r : FReg) (v : TWord) : (l.setF r v).c = l.c := rfl
@[simp] theorem Locker.setF_pcc (r : FReg) (v : TWord) : (l.setF r v).pcc = l.pcc := rfl
@[simp] theorem Locker.setF_ecause (r : FReg) (v : TWord) : (l.setF r v).ecause = l.ecause := rfl
@[simp] theorem Locker.setF_eaddr (r : FReg) (v : TWord) : (l.setF r v).eaddr = l.eaddr := rfl
@[simp] theorem Locker.setF_enext (r : FReg) (v : TWord) : (l.setF r v).enext = l.enext := rfl
@[simp] theorem Locker.setF_estat (r : FReg) (v : TWord) : (l.setF r v).estat = l.estat := rfl
@[simp] theorem Locker.setF_mod0Base (r : FReg) (v : TWord) : (l.setF r v).mod0Base = l.mod0Base := rfl
@[simp] theorem Locker.setF_mod0Ctl (r : FReg) (v : TWord) : (l.setF r v).mod0Ctl = l.mod0Ctl := rfl
@[simp] theorem Locker.setF_mod1Base (r : FReg) (v : TWord) : (l.setF r v).mod1Base = l.mod1Base := rfl
@[simp] theorem Locker.setF_mod1Ctl (r : FReg) (v : TWord) : (l.setF r v).mod1Ctl = l.mod1Ctl := rfl
@[simp] theorem Locker.setF_crcp0 (r : FReg) (v : TWord) : (l.setF r v).crcp0 = l.crcp0 := rfl
@[simp] theorem Locker.setF_crcp1 (r : FReg) (v : TWord) : (l.setF r v).crcp1 = l.crcp1 := rfl
@[simp] theorem Locker.setF_crcp2 (r : FReg) (v : TWord) : (l.setF r v).crcp2 = l.crcp2 := rfl
@[simp] theorem Locker.setF_fcsr (r : FReg) (v : TWord) : (l.setF r v).fcsr = l.fcsr := rfl
@[simp] theorem Locker.setF_qstat (r : FReg) (v : TWord) : (l.setF r v).qstat = l.qstat := rfl
@[simp] theorem Locker.setF_lkfrm (r : FReg) (v : TWord) : (l.setF r v).lkfrm = l.lkfrm := rfl
@[simp] theorem Locker.setF_lkrsv (r : FReg) (v : TWord) : (l.setF r v).lkrsv = l.lkrsv := rfl

/-- A read of a general register after a write: g0 reads as 0 and takes no write. -/
theorem Locker.getG_setG (r q : Reg) (v : TWord) :
    (l.setG r v).getG q = if q = r ∧ r ≠ 0 then v else l.getG q := by
  unfold Locker.setG Locker.getG
  by_cases hr : r = 0
  · simp [hr]
  · by_cases hq : q = 0
    · simp [hr, hq, Ne.symm hr]
    · by_cases h : q = r
      · simp [hr, h]
      · have : q.val ≠ r.val := fun e => h (Fin.ext e)
        simp [hr, hq, h, tget_tset_other _ _ _ _ _ this]

theorem Locker.getC_setC (r q : CReg) (v : Cap) :
    (l.setC r v).getC q = if q = r ∧ r ≠ 0 then v else l.getC q := by
  unfold Locker.setC Locker.getC
  by_cases hr : r = 0
  · simp [hr]
  · by_cases hq : q = 0
    · simp [hr, hq, Ne.symm hr]
    · by_cases h : q = r
      · simp [hr, h]
      · have : q.val ≠ r.val := fun e => h (Fin.ext e)
        simp [hr, hq, h, tget_tset_other _ _ _ _ _ this]

theorem Locker.getF_setF (r q : FReg) (v : TWord) :
    (l.setF r v).getF q = if q = r then v else l.getF q := by
  unfold Locker.setF Locker.getF
  by_cases h : q = r
  · simp [h]
  · have : q.val ≠ r.val := fun e => h (Fin.ext e)
    simp [h, tget_tset_other _ _ _ _ _ this]

@[simp] theorem Locker.getG_zero : l.getG 0 = TWord.int 0 := by simp [Locker.getG]
@[simp] theorem Locker.getC_zero : l.getC 0 = Cap.null := by simp [Locker.getC]
@[simp] theorem Locker.setG_zero (v : TWord) : l.setG 0 v = l := by simp [Locker.setG]
@[simp] theorem Locker.setC_zero (v : Cap) : l.setC 0 v = l := by simp [Locker.setC]

end Sys2Proof.Machine
end

