-- ==== Sys2Proof/Laws/Memory.lean ====
section
/-! SUPPORT. The canonical form of the volatile memory, kept by every operation that writes it, and the device writes of a
store, none of which touches it. -/

namespace Sys2Proof.Machine

/-- A fold of updates that keep a property keeps it. -/
theorem foldl_keeps {α : Type} (P : State → Prop) (f : State → α → State) (h : ∀ s x, P s → P (f s x)) :
    ∀ (l : List α) (s : State), P s → P (l.foldl f s)
  | [], _, hs => hs
  | x :: r, s, hs => foldl_keeps P f h r (f s x) (h s x hs)

theorem foldl_mem {α : Type} (f : State → α → State) (h : ∀ s x, (f s x).mem = s.mem) (l : List α) (s : State) :
    (l.foldl f s).mem = s.mem := by
  induction l generalizing s with
  | nil => rfl
  | cons x r ih => rw [List.foldl_cons, ih, h]

/-- What leaves the memory as it is keeps the form. -/
theorem State.MemOk.of_mem {s s' : State} (hs : s.MemOk) (h : s'.mem = s.mem) : s'.MemOk := by
  unfold State.MemOk; rw [h]; exact hs

/-! The operations that write words. -/

theorem memWf_tset {m : Tbl TWord} (h : Memory.wf m = true) (k : Nat) (v : TWord) :
    Memory.wf (tset TWord.unwritten m k v) = true := twf_tset _ k v h

theorem memWf_tclr {m : Tbl TWord} (h : Memory.wf m = true) (lo hi : Nat) : Memory.wf (tclr m lo hi) = true :=
  twf_tclr _ lo hi h

theorem State.setMem_ok (s : State) (w : Nat) (v : TWord) (hs : s.MemOk) : (s.setMem w v).MemOk := by
  unfold State.setMem; dsimp only
  split
  · exact memWf_tset (memWf_tclr hs _ _) w v
  · exact memWf_tset hs w v

theorem State.writeWords_ok (s : State) (t : Tandem) (ws : List (Nat × TWord)) (hs : s.MemOk) :
    (s.writeWords t ws).MemOk := by
  unfold State.writeWords
  split
  · exact hs
  · dsimp only
    split
    · exact hs
    · exact foldl_keeps State.MemOk _ (fun s p h => s.setMem_ok p.1 p.2 h) _ _ hs

/-- Clearing words, as a clear of blocks and a warm reset do. -/
theorem State.tclr_ok (s s' : State) (lo hi : Nat) (hs : s.MemOk) (h : s'.mem = tclr s.mem lo hi) : s'.MemOk := by
  unfold State.MemOk; rw [h]; exact memWf_tclr hs lo hi

/-! The gatehouse's loads. -/

theorem State.copyLoad_ok (s : State) (r : Rec) (hs : s.MemOk) : (s.copyLoad r).MemOk := by
  unfold State.copyLoad
  exact foldl_keeps State.MemOk _ (fun s i h => State.setMem_ok _ _ _ (h.of_mem (State.clearSite_mem s _))) _ _ hs

theorem State.dropLoads_ok (s : State) (l : List Rec) (hs : s.MemOk) : (s.dropLoads l).MemOk := by
  unfold State.dropLoads
  exact foldl_keeps State.MemOk _ (fun s r h => s.tclr_ok _ _ _ h rfl) _ _ hs

theorem State.runLoads_ok (misread : Option (Fin 16)) (l : List Rec) (i : Nat) (done : List Rec) (s : State)
    (hs : s.MemOk) : (State.runLoads misread l i done s).1.MemOk := by
  induction l generalizing i done s with
  | nil => exact hs
  | cons r rs ih =>
    unfold State.runLoads; dsimp only
    split <;> (rw [apply_ite Prod.fst]; split)
    all_goals first | exact s.copyLoad_ok r hs | exact ih _ _ _ (s.copyLoad_ok r hs)

theorem applyGpatch_ok (v : List Byte) (s : State) (hs : s.MemOk) : (applyGpatch v s).MemOk := by
  unfold applyGpatch
  split
  · exact hs
  · refine foldl_keeps State.MemOk _ (fun s i h => ?_) _ _ hs
    split
    · exact State.MemOk.of_mem (State.setMem_ok _ _ _ (h.of_mem ((State.clearSite_mem _ _).trans (State.modGate_mem s _))))
        (by rw [State.freeNext_mem, State.freeNext_mem])
    · exact h

/-! The resets. -/

theorem State.flush_ok (s : State) (t : Tandem) (n : Nat) (hs : s.MemOk) : (s.flush t n).MemOk := by
  unfold State.flush
  exact foldl_keeps State.MemOk _ (fun s e h => s.writeWords_ok t _ h) _ _ (hs.of_mem (by simp))

theorem State.flushAll_ok (s : State) (hs : s.MemOk) : s.flushAll.MemOk := by
  unfold State.flushAll
  exact foldl_keeps State.MemOk _ (fun s t h => s.flush_ok t _ h) _ _ hs

/-! A device store leaves the memory as it is. -/

@[simp] theorem canSubmit_mem (s : State) (x0 : Side) (x1 : Side) (x2 : Nat) : (canSubmit x0 x1 x2 s).mem = s.mem := by
  unfold canSubmit; dsimp only; (repeat' split) <;> simp
@[simp] theorem canRelease_mem (s : State) (x0 : Side) (x1 : Side) (x2 : Nat) : (canRelease x0 x1 x2 s).mem = s.mem := by
  unfold canRelease; simp [apply_ite State.mem]
@[simp] theorem canAbort_mem (s : State) (x0 : Side) (x1 : Side) (x2 : Nat) : (canAbort x0 x1 x2 s).mem = s.mem := by
  unfold canAbort; simp [apply_ite State.mem]
@[simp] theorem canSetSeq_mem (s : State) (x0 : Side) (x1 : Side) (x2 : Nat) (x3 : BitVec 16) :
    (canSetSeq x0 x1 x2 x3 s).mem = s.mem := by
  unfold canSetSeq; simp [apply_ite State.mem]
@[simp] theorem mbcfgWrite_mem (s : State) (h x0 : Side) (x1 : Nat) (x2 : Nat) : (mbcfgWrite h x0 x1 x2 s).mem = s.mem := by
  unfold mbcfgWrite; simp [apply_ite State.mem]
@[simp] theorem mbdataWrite_mem (s : State) (x0 : Side) (x1 : Side) (x2 : Nat) (x3 : Nat) (x4 : Nat) :
    (mbdataWrite x0 x1 x2 x3 x4 s).mem = s.mem := by
  unfold mbdataWrite; simp [apply_ite State.mem]
@[simp] theorem mbgoWrite_mem (s : State) (x0 : Side) (x1 : Side) (x2 : Nat) (x3 : Nat) :
    (mbgoWrite x0 x1 x2 x3 s).mem = s.mem := by
  unfold mbgoWrite; (repeat' split) <;> simp
@[simp] theorem canWriteBy_mem (s : State) (x0 : Side) (x1 : Side) (x2 : Nat) (x3 : Nat) :
    (canWriteBy x0 x1 x2 x3 s).mem = s.mem := by
  unfold canWriteBy; simp [apply_ite State.mem]
@[simp] theorem canWrite_mem (s : State) (x0 : Side) (x1 : Tandem) (x2 : Nat) (x3 : Nat) :
    (canWrite x0 x1 x2 x3 s).mem = s.mem := by
  unfold canWrite; split <;> simp
@[simp] theorem State.setChan_mem (s : State) (x1 : Nat) (x2 : Chan) : (State.setChan s x1 x2).mem = s.mem := by
  simp [State.setChan]
@[simp] theorem State.modChan_mem (s : State) (x1 : Nat) (x2 : Chan → Chan) : (State.modChan s x1 x2).mem = s.mem := by
  simp [State.modChan]
@[simp] theorem State.onChans_mem (s : State) (x1 : Nat) (x2 : Chan → Chan) : (State.onChans s x1 x2).mem = s.mem := by
  unfold State.onChans; rw [foldl_mem]; intros; split <;> simp
@[simp] theorem chanWrite_mem (s : State) (x0 : Nat) (x1 : Nat) (x2 : Nat) : (chanWrite x0 x1 x2 s).mem = s.mem := by
  unfold chanWrite; (repeat' split) <;> simp
@[simp] theorem ctaWrite_mem (s : State) (x0 : Nat) (x1 : Nat) : (ctaWrite x0 x1 s).mem = s.mem := by
  unfold ctaWrite; (repeat' split) <;> simp
@[simp] theorem State.nfcAbandon_mem (s : State) : (State.nfcAbandon s).mem = s.mem := by
  unfold State.nfcAbandon; (repeat' split) <;> simp
@[simp] theorem State.nfcHostWrite_mem (s : State) (x1 : Tandem) (x2 : Nat) :
    (State.nfcHostWrite s x1 x2).mem = s.mem := by
  unfold State.nfcHostWrite; simp [apply_ite State.mem]
@[simp] theorem State.nfcLockWrite_mem (s : State) (x1 : Nat) : (State.nfcLockWrite s x1).mem = s.mem := by
  unfold State.nfcLockWrite; split <;> simp
@[simp] theorem State.nfcReset_mem (s : State) : (State.nfcReset s).mem = s.mem := by
  unfold State.nfcReset; simp [apply_ite State.mem]
@[simp] theorem nfcWrite_mem (s : State) (x0 : Tandem) (x1 : Nat) (x2 : Nat) : (nfcWrite x0 x1 x2 s).mem = s.mem := by
  unfold nfcWrite; (repeat' split) <;> simp
@[simp] theorem bcfgWrite_mem (s : State) (x0 : Nat) : (bcfgWrite x0 s).mem = s.mem := by
  unfold bcfgWrite; rw [foldl_mem]; intros; simp
@[simp] theorem scfgWrite_mem (s : State) (x0 : Nat) : (scfgWrite x0 s).mem = s.mem := by
  simp [scfgWrite]
@[simp] theorem pwmWrite_mem (s : State) (x0 : Nat) (x1 : Nat) : (pwmWrite x0 x1 s).mem = s.mem := by
  unfold pwmWrite; split <;> simp
@[simp] theorem cfgWrite_mem (s : State) (x0 : Nat) (x1 : Nat) : (cfgWrite x0 x1 s).mem = s.mem := by
  unfold cfgWrite; split <;> simp
@[simp] theorem bankWrite_mem (s : State) (x0 : Nat) (x1 : Nat) (x2 : Nat) : (bankWrite x0 x1 x2 s).mem = s.mem := by
  unfold bankWrite; split <;> simp
@[simp] theorem pioWrite_mem (s : State) (x0 : Nat) (x1 : Nat) : (pioWrite x0 x1 s).mem = s.mem := by
  unfold pioWrite; (repeat' split) <;> simp
@[simp] theorem schCtlWrite_mem (s : State) (x0 : Side) (x1 : Nat) : (schCtlWrite x0 x1 s).mem = s.mem := by
  unfold schCtlWrite; simp [apply_ite State.mem]
@[simp] theorem schCtxWrite_mem (s : State) (x0 : Side) (x1 : Fin 64) (x2 : Nat) :
    (schCtxWrite x0 x1 x2 s).mem = s.mem := by
  simp [schCtxWrite]
@[simp] theorem schWrite_mem (s : State) (x0 : Side) (x1 : Tandem) (x2 : Nat) (x3 : Nat) :
    (schWrite x0 x1 x2 x3 s).mem = s.mem := by
  unfold schWrite; (repeat' split) <;> simp
@[simp] theorem State.modSes_mem (s : State) (x1 : Fin 5) (x2 : Session → Session) :
    (State.modSes s x1 x2).mem = s.mem := by
  simp [State.modSes]
@[simp] theorem State.say_mem (s : State) (x1 : Fin 5) (x2 : Bool) (x3 : Text) : (State.say s x1 x2 x3).mem = s.mem := by
  simp [State.say]
@[simp] theorem State.prompt_mem (s : State) (x1 : Fin 5) : (State.prompt s x1).mem = s.mem := by
  unfold State.prompt; split <;> simp
@[simp] theorem State.eraseNext_mem (s : State) (x1 : ImgUpd) (x2 : Nat) : (State.eraseNext s x1 x2).mem = s.mem := rfl
@[simp] theorem State.warmStart_mem (s : State) : (State.warmStart s).mem = s.mem := by
  unfold State.warmStart; split <;> simp
@[simp] theorem State.imgAbort_mem (s : State) : (State.imgAbort s).mem = s.mem := by
  unfold State.imgAbort; split <;> simp [State.invalidate, apply_ite State.mem]
@[simp] theorem State.freeHelm_mem (s : State) : (State.freeHelm s).mem = s.mem := by
  simp [State.freeHelm]
@[simp] theorem State.endSession_mem (s : State) (x1 : Fin 5) : (State.endSession s x1).mem = s.mem := by
  unfold State.endSession; dsimp only; (repeat' split) <;> simp
@[simp] theorem State.startSession_mem (s : State) (x1 : Fin 5) (x2 : Option Text) :
    (State.startSession s x1 x2).mem = s.mem := by
  unfold State.startSession; rw [State.prompt_mem, foldl_mem] <;> simp
@[simp] theorem State.settleSessions_mem (s : State) (x1 : Option Text) : (State.settleSessions s x1).mem = s.mem := by
  unfold State.settleSessions; rw [foldl_mem]; intros; (repeat' split) <;> simp
@[simp] theorem State.usbSession_mem (s : State) : (State.usbSession s).mem = s.mem := by
  unfold State.usbSession; split <;> simp
@[simp] theorem State.usbWake_mem (s : State) (x1 : Bool) : (State.usbWake s x1).mem = s.mem := by
  unfold State.usbWake; split <;> simp
@[simp] theorem ctlWrite_mem (s : State) (x0 : Nat) : (ctlWrite x0 s).mem = s.mem := by
  simp [ctlWrite]
@[simp] theorem usbCtlWrite_mem (s : State) (x0 : Nat) : (usbCtlWrite x0 s).mem = s.mem := by
  unfold usbCtlWrite; split <;> simp
@[simp] theorem epgoWrite_mem (s : State) (x0 : Tandem) (x1 : Nat) (x2 : Nat) : (epgoWrite x0 x1 x2 s).mem = s.mem := by
  unfold epgoWrite; split <;> simp
@[simp] theorem usbWrite_mem (s : State) (x0 : Tandem) (x1 : Nat) (x2 : Nat) : (usbWrite x0 x1 x2 s).mem = s.mem := by
  unfold usbWrite; simp [apply_ite State.mem]
@[simp] theorem State.unlatch_mem (s : State) : (State.unlatch s).mem = s.mem := by
  simp [State.unlatch]
@[simp] theorem State.routeWrite_mem (s : State) (x1 : Tandem) (x2 : Nat) (x3 : BitVec 32) :
    (State.routeWrite s x1 x2 x3).mem = s.mem := by
  unfold State.routeWrite; simp [apply_ite State.mem]
@[simp] theorem State.dbSet_mem (s : State) (x1 : Tandem) (x2 : Nat) : (State.dbSet s x1 x2).mem = s.mem := by
  simp [State.dbSet]
@[simp] theorem State.vcClr_mem (s : State) (x1 : Nat) : (State.vcClr s x1).mem = s.mem := by
  unfold State.vcClr; split <;> simp
@[simp] theorem irtWrite_mem (s : State) (x0 : Tandem) (x1 : Nat) (x2 : Nat) : (irtWrite x0 x1 x2 s).mem = s.mem := by
  unfold irtWrite; (repeat' split) <;> simp
@[simp] theorem drcWrite_mem (s : State) (x0 : Nat) (x1 : Nat) : (drcWrite x0 x1 s).mem = s.mem := by
  unfold drcWrite; split <;> simp
@[simp] theorem xspCmdWrite_mem (s : State) (x0 : Tandem) (x1 : Nat) : (xspCmdWrite x0 x1 s).mem = s.mem := by
  unfold xspCmdWrite; (repeat' split) <;> simp
@[simp] theorem xspWrite_mem (s : State) (x0 : Tandem) (x1 : Nat) (x2 : Nat) : (xspWrite x0 x1 x2 s).mem = s.mem := by
  unfold xspWrite; (repeat' split) <;> simp
@[simp] theorem State.evalStart_mem (s : State) : (State.evalStart s).mem = s.mem := by
  unfold State.evalStart; split <;> simp
@[simp] theorem State.setDate_mem (s : State) (x1 : Nat) : (State.setDate s x1).mem = s.mem := by
  unfold State.setDate; dsimp only; (repeat' split) <;> simp
@[simp] theorem grmWrite_mem (s : State) (x0 : Nat) (x1 : Nat) : (grmWrite x0 x1 s).mem = s.mem := by
  unfold grmWrite
  split
  · exact State.modGrm_mem _ _
  split
  · exact State.setDate_mem _ _
  split
  · exact State.modMeta_mem _ _
  split
  · exact State.modMeta_mem _ _
  split
  · dsimp only
    split
    · rw [State.evalStart_mem, State.modGrm_mem]
    · exact State.modGrm_mem _ _
  · rfl
@[simp] theorem spkWrite_mem (s : State) (x0 : Nat) (x1 : Nat) : (spkWrite x0 x1 s).mem = s.mem := by
  unfold spkWrite; split <;> simp
@[simp] theorem State.outsOff_mem (s : State) : (State.outsOff s).mem = s.mem := by
  unfold State.outsOff; split <;> simp
@[simp] theorem State.safeWrite_mem (s : State) (x1 : Nat) : (State.safeWrite s x1).mem = s.mem := by
  unfold State.safeWrite; (repeat' split) <;> simp
@[simp] theorem State.wdService_mem (s : State) (x1 : Tandem) (x2 : Tandem) (x3 : Nat) :
    (State.wdService s x1 x2 x3).mem = s.mem := by
  unfold State.wdService; simp [apply_ite State.mem]
@[simp] theorem State.wdConfig_mem (s : State) (x1 : Tandem) (x2 : Tandem) (x3 : Nat) :
    (State.wdConfig s x1 x2 x3).mem = s.mem := by
  unfold State.wdConfig; simp [apply_ite State.mem]
@[simp] theorem State.pctlWrite_mem (s : State) (x1 : Nat) : (State.pctlWrite s x1).mem = s.mem := by
  unfold State.pctlWrite; split <;> simp
@[simp] theorem State.pinjWrite_mem (s : State) (x1 : Nat) : (State.pinjWrite s x1).mem = s.mem := by
  unfold State.pinjWrite; split <;> simp
@[simp] theorem wrdWrite_mem (s : State) (x0 : Tandem) (x1 : Nat) (x2 : Nat) : (wrdWrite x0 x1 x2 s).mem = s.mem := by
  unfold wrdWrite; simp [apply_ite State.mem]
@[simp] theorem State.unitReset_mem (s : State) (x1 : Nat) : (State.unitReset s x1).mem = s.mem := by
  unfold State.unitReset; split <;> simp
@[simp] theorem State.urstWrite_mem (s : State) (x1 : Tandem) (x2 : Nat) : (State.urstWrite s x1 x2).mem = s.mem := by
  unfold State.urstWrite; rw [foldl_mem]; intros; split <;> simp
@[simp] theorem State.gateWrite_mem (s : State) (x1 : Tandem) (x2 : Bool) (x3 : Nat) :
    (State.gateWrite s x1 x2 x3).mem = s.mem := by
  simp [State.gateWrite]
@[simp] theorem State.rstcmd_mem (s : State) (x1 : Tandem) (x2 : Nat) : (State.rstcmd s x1 x2).mem = s.mem := by
  unfold State.rstcmd; dsimp only; (repeat' split) <;> simp
@[simp] theorem clkWrite_mem (s : State) (x0 : Tandem) (x1 : Nat) (x2 : Nat) : (clkWrite x0 x1 x2 s).mem = s.mem := by
  unfold clkWrite; (repeat' split) <;> simp
@[simp] theorem devWrite_mem (s : State) (x1 : Tandem) (x2 : Fin 17) (x3 : Nat) (x4 : Nat) :
    (devWrite s x1 x2 x3 x4).mem = s.mem := by
  unfold devWrite; split <;> simp

@[simp] theorem devStore_mem (s : State) (t : Tandem) (a n v : Nat) : (devStore s t a n v).mem = s.mem := by
  unfold devStore; split <;> simp

/-! The store buffer. -/

theorem State.drainHead_ok (s : State) (t : Tandem) (hs : s.MemOk) : (s.drainHead t).MemOk := by
  unfold State.drainHead
  split
  · exact hs
  · split
    · exact hs
    · dsimp only
      split
      · exact hs.of_mem (by simp)
      · exact State.writeWords_ok _ _ _ (hs.of_mem (by simp))

theorem drainN_ok (n : Nat) (t : Tandem) (s : State) (hs : s.MemOk) : (drainN n t s).MemOk := by
  induction n generalizing s with
  | zero => exact hs
  | succ n ih => exact ih _ (s.drainHead_ok t hs)

theorem State.drainAll_ok (s : State) (t : Tandem) (hs : s.MemOk) : (s.drainAll t).MemOk := drainN_ok _ t s hs

/-- Reset lists nothing. -/
theorem reset_memOk : State.reset.MemOk := rfl

end Sys2Proof.Machine
end

