-- ==== Sys2Proof/Laws/Quiet.lean ====
section
/-! SUPPORT. What caches, lookups and check bits may change, as two relations that compose: `Light` for the registers of the
cores and the warden's list, `Quiet` for the whole machine. Every operation of Cache.lean keeps the first, every fetch the
second. -/

namespace Sys2Proof.Machine

/-! The relations. -/

theorem TlbEnt.kill_kill (e : TlbEnt) : e.kill.kill = e.kill := by
  have h : ∀ v : W64, putBits (putBits v 55 1 0) 55 1 0 = putBits v 55 1 0 := by
    intro v
    unfold putBits
    simp [BitVec.and_assoc]
  simp [TlbEnt.kill, h]

theorem Cpu.Kept.refl (c : Cpu) : c.Kept c := ⟨fun _ => .inl rfl, .inl rfl, rfl, Nat.min_le_right _ _⟩

theorem Cpu.Kept.trans {a b c : Cpu} (h : a.Kept b) (k : b.Kept c) : a.Kept c where
  tlb i := by
    rcases h.tlb i with e1 | e1 <;> rcases k.tlb i with e2 | e2 <;> rw [e1] at e2
    · exact .inl e2
    · exact .inr e2
    · exact .inr e2
    · refine .inr (e2.trans ?_)
      cases tget none a.tlb i with
      | none => rfl
      | some e => simp [TlbEnt.kill_kill]
  resv := by
    rcases k.resv with e | e
    · rcases h.resv with d | d
      · exact .inl (e.trans d)
      · exact .inr (e.trans d)
    · exact .inr e
  dtlb := k.dtlb.trans h.dtlb
  xmulti := by have := h.xmulti; have := k.xmulti; omega

/-- What lies beneath a Quiet change: the cores keep what they hold, and the warden's list only grows. -/
structure Light (s r : State) : Prop where
  cores : ∀ u, (s.cpu u).Kept (r.cpu u)
  arrived : s.wrd.arrived <+: r.wrd.arrived

theorem Light.refl (s : State) : Light s s := ⟨fun _ => .refl _, List.prefix_refl _⟩
theorem Light.trans {a b c : State} (h : Light a b) (k : Light b c) : Light a c :=
  ⟨fun u => (h.cores u).trans (k.cores u), h.arrived.trans k.arrived⟩

/-- A step that changes neither cores nor list. -/
theorem Light.of_eq {s r : State} (hc : ∀ u, r.cpu u = s.cpu u) (ha : r.wrd.arrived = s.wrd.arrived) : Light s r :=
  ⟨fun u => hc u ▸ .refl _, ha ▸ List.prefix_refl _⟩

theorem Light.ite {p : Prop} [Decidable p] {s a b : State} (h : Light s a) (k : Light s b) : Light s (if p then a else b) := by
  split <;> assumption

theorem Light.foldl {α : Type} {f : State → α → State} (h : ∀ s x, Light s (f s x)) :
    ∀ (l : List α) (s : State), Light s (l.foldl f s)
  | [], s => .refl s
  | x :: r, s => (h s x).trans (Light.foldl h r (f s x))

theorem Quiet.refl (s : State) : Quiet s s := ⟨rfl, fun _ => .refl _, List.prefix_refl _⟩
theorem Quiet.trans {a b c : State} (h : Quiet a b) (k : Quiet b c) : Quiet a c where
  same := by rw [k.same, h.same]; rfl
  cores u := (h.cores u).trans (k.cores u)
  arrived := h.arrived.trans k.arrived
theorem Quiet.light {s r : State} (h : Quiet s r) : Light s r := ⟨h.cores, h.arrived⟩

/-- What lies beneath, and nothing else, of a Light change. -/
theorem Light.quiet {s r : State} (h : Light s r) : Quiet s (s.hw r) where
  same := rfl
  cores u := by
    have k := h.cores u
    rw [State.cpu_hw]
    exact ⟨k.tlb, k.resv, k.dtlb, k.xmulti⟩
  arrived := h.arrived

/-- A Quiet change leaves every word of memory but those of a flash window, whose copies in the L2 it may change (R546,
R574). -/
theorem Quiet.memWord {s r : State} (h : Quiet s r) (w : Nat) (hw : isWindow (8 * w) = false) : r.memWord w = s.memWord w := by
  rw [h.same]
  have h1 : (winABase ≤ 8 * w && decide (8 * w < winBBase)) = false := by
    simp only [isWindow, Bool.and_eq_false_iff, decide_eq_false_iff_not] at hw ⊢
    unfold winABase winBBase at *
    omega
  have h2 : (winBBase ≤ 8 * w && decide (8 * w < winBBase + 0x80000000)) = false := by
    simp only [isWindow, Bool.and_eq_false_iff, decide_eq_false_iff_not] at hw ⊢
    unfold winABase winBBase at *
    omega
  unfold State.memWord
  dsimp only
  rw [h1, h2]
  rfl

/-! Check bits. -/

section
variable (s : State)

theorem State.modFront_cpu (t u : Tandem) (f : Front → Front) :
    ∃ g, (s.modFront t f).cpu u = { s.cpu u with front := g } := by
  by_cases h : u = t
  · subst h
    exact ⟨f (s.cpu u).front, by simp [State.modFront]⟩
  · exact ⟨(s.cpu u).front, by simp [State.modFront, State.cpu_modCpu_other _ _ _ _ h]⟩

theorem Light.modFront (t : Tandem) (f : Front → Front) : Light s (s.modFront t f) where
  cores u := by
    obtain ⟨g, h⟩ := s.modFront_cpu t u f
    rw [h]
    exact ⟨fun _ => .inl rfl, .inl rfl, rfl, Nat.min_le_right _ _⟩
  arrived := by simp

theorem Light.event (t : Tandem) (k n : Nat) : Light s (s.event t k n) := by
  unfold State.event
  exact .ite (.refl s) (.modFront s t _)

theorem Light.eccCorr (g : Nat) : Light s (s.eccCorr g) := .of_eq (by simp) (by simp)
theorem Light.eccUnc (g : Nat) : Light s (s.eccUnc g) := .of_eq (by simp) (by simp)
theorem Light.clearSite (x : Site) : Light s (s.clearSite x) := .of_eq (by simp) (by simp)
theorem Light.setSite (x : Site) (n : Nat) : Light s (s.setSite x n) := .of_eq (by simp) (by simp)

theorem Light.dropped (g : Nat) : Light s (s.dropped g) := by
  unfold State.dropped
  exact ⟨fun u => by simpa using .refl _, by simp [State.mchk, State.detect]⟩

theorem Light.countWord (w n : Nat) (b : Bool) : Light s (s.countWord w n b) := by
  unfold State.countWord
  dsimp only
  have h : Light s (if b = true then s.eccUnc (s.memGroup w) else s.eccCorr (s.memGroup w)) := .ite (.eccUnc s _) (.eccCorr s _)
  revert h
  generalize (if b = true then s.eccUnc (s.memGroup w) else s.eccCorr (s.memGroup w)) = r
  intro h
  have k : ∀ q : State, q.cpuA = r.cpuA → q.cpuB = r.cpuB → q.cpuG = r.cpuG → q.wrd = r.wrd → Light s q := fun q a b c d =>
    h.trans (.of_eq (fun u => by cases u <;> assumption) (by rw [d]))
  exact .ite (k _ rfl rfl rfl rfl) (.ite (k _ rfl rfl rfl rfl) (.ite (k _ rfl rfl rfl rfl) h))

theorem Light.countSite (x : Site) (n : Nat) (b : Bool) : Light s (s.countSite x n b) := by
  unfold State.countSite
  dsimp only
  have own : Light s (if b = true then s.eccUnc 7 else s.eccCorr 7) := .ite (.eccUnc s _) (.eccCorr s _)
  split
  all_goals first
    | exact .countWord s _ n b
    | exact .ite (.eccUnc s _) ((Light.eccCorr s _).trans (.event _ _ _ _))
    | exact .ite (.eccUnc s _) (.eccCorr s _)
    | exact own.trans (.of_eq (fun u => by cases u <;> rfl) rfl)

theorem Light.check (x : Site) : Light s (s.check x).1 := by
  unfold State.check
  dsimp only
  split
  · exact .refl s
  · exact .countSite s x _ _

theorem Light.checkOnce (x : Site) : Light s (s.checkOnce x).1 := (Light.check s x).trans (.clearSite _ _)

theorem Light.checkWord (w : Nat) : Light s (s.checkWord w).1 := by
  unfold State.checkWord
  dsimp only
  split
  · exact .check s _
  · exact (Light.check s _).trans (.check _ _)

theorem Light.transfer (x : Site) (n : Nat) : Light s (s.transfer x n).1 := by
  unfold State.transfer
  dsimp only
  split
  · exact .refl s
  · exact (Light.countSite s x _ _).trans (.clearSite _ _)

/-! The L2. -/

theorem Light.backWord (w : Nat) : Light s (s.backWord w) := by
  unfold State.backWord
  dsimp only
  have h := (Light.check s (.l2 w)).trans (.transfer _ (.transfer .back) 1)
  exact .ite (h.trans ((Light.dropped _ _).trans (.setSite _ _ _))) (h.trans (.clearSite _ _))

theorem Cpu.lose_kept (c : Cpu) (line : Nat) : c.Kept (c.lose line) where
  tlb _ := .inl rfl
  resv := by
    unfold Cpu.lose
    dsimp only
    split
    · exact .inr rfl
    · exact .inl rfl
  dtlb := rfl
  xmulti := Nat.min_le_right _ _

theorem Light.l2Drop (e : L2Line) : Light s (s.l2Drop e) := by
  unfold State.l2Drop
  dsimp only
  have h : Light s (if e.dirty = true then (lineWords e.line).foldl State.backWord s else s) :=
    .ite (.foldl Light.backWord _ s) (.refl s)
  refine (h.trans (.foldl (fun s w => .clearSite s (.l2 w)) (lineWords e.line) _)).trans ?_
  exact ⟨fun u => by cases u <;> exact Cpu.lose_kept _ _, List.prefix_refl _⟩

theorem Light.fillWord (w : Nat) : Light s (s.fillWord w) := by
  unfold State.fillWord
  dsimp only
  have h : Light (s.clearSite (.l2 w))
      (if (s.clearSite (.l2 w)).unread w = true then (s.clearSite (.l2 w), false) else (s.clearSite (.l2 w)).checkWord w).1 := by
    split
    · exact .refl _
    · exact .checkWord _ w
  have k := ((Light.clearSite s (.l2 w)).trans h).trans (.transfer _ (.transfer .fill) (wordLimit w))
  exact .ite (k.trans (.setSite _ _ _)) k

theorem Light.l2Put (line : Nat) : Light s (s.l2Put line) := by
  unfold State.l2Put
  split
  · exact .of_eq (fun u => by cases u <;> rfl) rfl
  · dsimp only
    refine Light.trans (b := (lineWords line).foldl State.fillWord
      (match s.victim (s.l2At line) with | some e => s.l2Drop e | none => s)) (Light.trans ?_ (.foldl Light.fillWord _ _))
      (.of_eq (fun u => by cases u <;> rfl) rfl)
    split
    · exact .l2Drop s _
    · exact .refl s

theorem Light.l2Fill (line : Nat) : Light s (s.l2Fill line) := by
  unfold State.l2Fill
  dsimp only
  exact .ite ((Light.l2Put s _).trans (.l2Put _ _)) (.l2Put s _)

theorem Light.l2Read (t : Tandem) (w : Nat) : Light s (s.l2Read t w).1 := by
  unfold State.l2Read
  refine Light.trans (b := _) ?_ (.transfer _ _ _)
  split
  · exact (Light.l2Fill s _).trans (.check _ _)
  · exact .l2Fill s _

theorem Light.l2Remove (p : Nat → Bool) : Light s (s.l2Remove p) := .foldl Light.l2Drop _ s

/-! The L1 caches. -/

theorem Light.l1Fill (m : Side) (fetch : Bool) (l : Nat) : Light s (s.l1Fill m fetch l) := by
  unfold State.l1Fill
  exact .ite (.refl s) ((Light.foldl (fun s w => .clearSite s (l1Site m fetch w)) (halfWords l) s).trans (.modFront _ _ _))

theorem Light.readWord (t : Tandem) (fetch : Bool) (w : Nat) : Light s (s.readWord t fetch w).1 := by
  unfold State.readWord
  split
  · exact (Light.checkWord s w).trans (.transfer _ _ _)
  split
  · exact .l2Read s t w
  split
  · exact (Light.check s _).trans (Light.modFront _ t fun f => f.use fetch (w / 4) [])
  · exact ((Light.event s _ _ _).trans (.l2Read _ t w)).trans (.ite (.l1Fill _ _ _ _) (.refl _))

theorem Light.prefetch (m : Side) (w : Nat) : Light s (s.prefetch m w) := by
  unfold State.prefetch
  dsimp only
  split
  · exact .refl s
  · refine ((Light.event s _ _ _).trans (.foldl (fun s w => ?_) _ _)).trans (.l1Fill _ _ _ _)
    split
    · exact (Light.l2Read s _ w).trans (.dropped _ _)
    · exact .l2Read s _ w

theorem Light.fetchRead (t : Tandem) (w : Nat) : Light s (s.fetchRead t w).1 := by
  unfold State.fetchRead
  dsimp only
  split
  · split
    · exact (Light.readWord s t true w).trans (.prefetch _ _ _)
    · exact .readWord s t true w
  · exact .readWord s t true w

/-! Changes of a fetch stage. -/

theorem Quiet.modFront (t : Tandem) (f : Front → Front) : Quiet s (s.modFront t f) :=
  { Light.modFront s t f with same := by cases t <;> rfl }

theorem Quiet.freeNext : Quiet s s.freeNext := ⟨rfl, fun _ => .refl _, List.prefix_refl _⟩
theorem Quiet.free (n : Nat) : Quiet s { s with free := n } := ⟨rfl, fun u => by simpa using .refl _, List.prefix_refl _⟩

theorem Quiet.event (t : Tandem) (k n : Nat) : Quiet s (s.event t k n) := by
  unfold State.event
  split
  · exact .refl s
  · exact .modFront s t _

theorem Quiet.learn (t : Tandem) (g : Front → Front) : Quiet s (s.learn t g) := by
  unfold State.learn
  split
  · exact .refl s
  · exact .modFront s t g

theorem Light.discard (t : Tandem) (n next : Nat) : Light s (s.discard t n next) :=
  (Light.modFront s t _).trans (.foldl Light.dropped _ _)

theorem Quiet.flushFetch (t : Tandem) : Quiet s (s.flushFetch t) := by
  unfold State.flushFetch
  split
  · exact .modFront s t _
  · exact (Light.quiet ((Light.modFront s t _).trans (.discard _ t _ _))).trans (.free _ _)

theorem Quiet.decoded (t : Tandem) (a : Nat) : Quiet s (s.decoded t a) := by
  unfold State.decoded
  dsimp only
  split
  · exact .refl s
  split
  · exact .modFront s t _
  · exact Light.quiet ((Light.modFront s t _).trans (.discard _ t _ _))

theorem Quiet.fetchTagged (t : Tandem) (w : Nat) : Quiet s (s.fetchTagged t w).1 := (Light.fetchRead s t w).quiet

theorem Quiet.redirect (t : Tandem) : Quiet s (s.redirect t) := by
  unfold State.redirect
  dsimp only
  split <;> split
  all_goals first | exact .refl s | exact (Quiet.flushFetch s t).trans (.modFront _ t _)

theorem Quiet.clearSite (x : Site) : Quiet s (s.clearSite x) := ⟨rfl, fun u => by simpa using .refl _, List.prefix_refl _⟩

theorem Quiet.fStep (t : Tandem) (a : Nat) : Quiet s (s.fStep t a) := by
  unfold State.fStep
  dsimp only
  split
  · exact .modFront s t _
  split
  · exact .modFront s t _
  split
  · exact (Quiet.clearSite s _).trans (.modFront _ t _)
  · exact .modFront s t _

end

end Sys2Proof.Machine
end

