-- ==== Sys2Proof/Laws/Device.lean ====
section
/-! SUPPORT. A device store leaves every tandem's registers as they are. -/

namespace Sys2Proof.Machine

/-- A core without what caches, lookups, check bits and the stores of any tandem change. -/
def State.regs (s : State) (u : Tandem) : Cpu := { (s.cpu u).hw Cpu.reset with sb := [], hold := none }

variable {u : Tandem}

theorem foldl_regs {α : Type} (f : State → α → State) (h : ∀ s x, (f s x).regs u = s.regs u) (l : List α) (s : State) :
    (l.foldl f s).regs u = s.regs u := by
  induction l generalizing s with
  | nil => rfl
  | cons x r ih => rw [List.foldl_cons, ih, h]

@[simp] theorem State.hw_regs (s r : State) (u : Tandem) : (s.hw r).regs u = s.regs u := by cases u <;> rfl
@[simp] theorem State.withClk_regs (s : State) (c : Clk) (u : Tandem) : ({ s with clk := c } : State).regs u = s.regs u := by
  cases u <;> rfl
@[simp] theorem State.withCta_regs (s : State) (c : Tbl Chan) (u : Tandem) :
    ({ s with cta := c } : State).regs u = s.regs u := by
  cases u <;> rfl
@[simp] theorem State.withXsp_regs (s : State) (c : Xsp) (u : Tandem) : ({ s with xsp := c } : State).regs u = s.regs u := by
  cases u <;> rfl
@[simp] theorem State.withIrt_regs (s : State) (c : Irt) (u : Tandem) : ({ s with irt := c } : State).regs u = s.regs u := by
  cases u <;> rfl
@[simp] theorem State.withSpk_regs (s : State) (c : Spk) (u : Tandem) : ({ s with spk := c } : State).regs u = s.regs u := by
  cases u <;> rfl
@[simp] theorem State.withDrc_regs (s : State) (c : Drc) (u : Tandem) : ({ s with drc := c } : State).regs u = s.regs u := by
  cases u <;> rfl
@[simp] theorem State.setSch_regs (s : State) (m : Side) (c : Sch) (u : Tandem) : (s.setSch m c).regs u = s.regs u := by
  cases u <;> first | rfl | simp [State.regs]
@[simp] theorem State.modSch_regs (s : State) (m : Side) (f : Sch → Sch) (u : Tandem) : (s.modSch m f).regs u = s.regs u := by
  cases u <;> first | rfl | simp [State.regs]
@[simp] theorem State.setCan_regs (s : State) (m : Side) (c : Can) (u : Tandem) : (s.setCan m c).regs u = s.regs u := by
  cases u <;> first | rfl | simp [State.regs]
@[simp] theorem State.modCan_regs (s : State) (m : Side) (f : Can → Can) (u : Tandem) : (s.modCan m f).regs u = s.regs u := by
  cases u <;> first | rfl | simp [State.regs]
@[simp] theorem State.modIrt_regs (s : State) (f : Irt → Irt) (u : Tandem) : (s.modIrt f).regs u = s.regs u := by
  cases u <;> rfl
@[simp] theorem State.modSpk_regs (s : State) (f : Spk → Spk) (u : Tandem) : (s.modSpk f).regs u = s.regs u := by
  cases u <;> rfl
@[simp] theorem State.modWrd_regs (s : State) (f : Wrd → Wrd) (u : Tandem) : (s.modWrd f).regs u = s.regs u := by
  cases u <;> rfl
@[simp] theorem State.modGate_regs (s : State) (f : Gate → Gate) (u : Tandem) : (s.modGate f).regs u = s.regs u := by
  cases u <;> rfl
@[simp] theorem State.modClk_regs (s : State) (f : Clk → Clk) (u : Tandem) : (s.modClk f).regs u = s.regs u := by
  cases u <;> rfl
@[simp] theorem State.modGrm_regs (s : State) (f : Grm → Grm) (u : Tandem) : (s.modGrm f).regs u = s.regs u := by
  cases u <;> rfl
@[simp] theorem State.modMeta_regs (s : State) (f : GrmMeta → GrmMeta) (u : Tandem) : (s.modMeta f).regs u = s.regs u := by
  cases u <;> rfl
@[simp] theorem State.modPio_regs (s : State) (f : Pio → Pio) (u : Tandem) : (s.modPio f).regs u = s.regs u := by
  cases u <;> rfl
@[simp] theorem State.modUsb_regs (s : State) (f : Usb → Usb) (u : Tandem) : (s.modUsb f).regs u = s.regs u := by
  cases u <;> rfl
@[simp] theorem State.modNfc_regs (s : State) (f : Nfc → Nfc) (u : Tandem) : (s.modNfc f).regs u = s.regs u := by
  cases u <;> rfl
@[simp] theorem State.modUat_regs (s : State) (f : Uat → Uat) (u : Tandem) : (s.modUat f).regs u = s.regs u := by
  cases u <;> rfl
@[simp] theorem State.detect_regs (s : State) (b : Fin 18) (d : Nat) (u : Tandem) : (s.detect b d).regs u = s.regs u := by
  cases u <;> rfl
@[simp] theorem State.mchk_regs (s : State) (d : Nat) (u : Tandem) : (s.mchk d).regs u = s.regs u := by
  cases u <;> rfl
@[simp] theorem State.eccCorr_regs (s : State) (g : Nat) (u : Tandem) : (s.eccCorr g).regs u = s.regs u := by
  cases u <;> rfl
@[simp] theorem State.eccUnc_regs (s : State) (g : Nat) (u : Tandem) : (s.eccUnc g).regs u = s.regs u := by
  cases u <;> rfl
@[simp] theorem State.vc_regs (s : State) (k : Nat) (u : Tandem) : (s.vc k).regs u = s.regs u := by
  cases u <;> rfl
@[simp] theorem State.freeNext_regs (s : State)  (u : Tandem) : (s.freeNext).regs u = s.regs u := by
  cases u <;> rfl
@[simp] theorem State.clearSite_regs (s : State) (x : Site) (u : Tandem) : (s.clearSite x).regs u = s.regs u := by
  cases u <;> rfl
@[simp] theorem State.setSite_regs (s : State) (x : Site) (n : Nat) (u : Tandem) : (s.setSite x n).regs u = s.regs u := by
  cases u <;> rfl
@[simp] theorem State.heal_regs (s : State) (p : Site → Bool) (u : Tandem) : (s.heal p).regs u = s.regs u := by
  cases u <;> rfl
@[simp] theorem canSubmit_regs (s : State) (x0 : Side) (x1 : Side) (x2 : Nat) : (canSubmit x0 x1 x2 s).regs u = s.regs u := by
  unfold canSubmit; dsimp only; (repeat' split) <;> simp
@[simp] theorem canRelease_regs (s : State) (x0 : Side) (x1 : Side) (x2 : Nat) : (canRelease x0 x1 x2 s).regs u = s.regs u := by
  unfold canRelease; simp [apply_ite (fun q : State => q.regs u)]
@[simp] theorem canAbort_regs (s : State) (x0 : Side) (x1 : Side) (x2 : Nat) : (canAbort x0 x1 x2 s).regs u = s.regs u := by
  unfold canAbort; simp [apply_ite (fun q : State => q.regs u)]
@[simp] theorem canSetSeq_regs (s : State) (x0 : Side) (x1 : Side) (x2 : Nat) (x3 : BitVec 16) :
    (canSetSeq x0 x1 x2 x3 s).regs u = s.regs u := by
  unfold canSetSeq; simp [apply_ite (fun q : State => q.regs u)]
@[simp] theorem mbcfgWrite_regs (s : State) (h x0 : Side) (x1 : Nat) (x2 : Nat) :
    (mbcfgWrite h x0 x1 x2 s).regs u = s.regs u := by
  unfold mbcfgWrite; simp [apply_ite (fun q : State => q.regs u)]
@[simp] theorem mbdataWrite_regs (s : State) (x0 : Side) (x1 : Side) (x2 : Nat) (x3 : Nat) (x4 : Nat) :
    (mbdataWrite x0 x1 x2 x3 x4 s).regs u = s.regs u := by
  unfold mbdataWrite; simp [apply_ite (fun q : State => q.regs u)]
@[simp] theorem mbgoWrite_regs (s : State) (x0 : Side) (x1 : Side) (x2 : Nat) (x3 : Nat) :
    (mbgoWrite x0 x1 x2 x3 s).regs u = s.regs u := by
  unfold mbgoWrite; (repeat' split) <;> simp
@[simp] theorem canWriteBy_regs (s : State) (x0 : Side) (x1 : Side) (x2 : Nat) (x3 : Nat) :
    (canWriteBy x0 x1 x2 x3 s).regs u = s.regs u := by
  unfold canWriteBy; simp [apply_ite (fun q : State => q.regs u)]
@[simp] theorem canWrite_regs (s : State) (x0 : Side) (x1 : Tandem) (x2 : Nat) (x3 : Nat) :
    (canWrite x0 x1 x2 x3 s).regs u = s.regs u := by
  unfold canWrite; split <;> simp
@[simp] theorem State.setChan_regs (s : State) (x1 : Nat) (x2 : Chan) : (State.setChan s x1 x2).regs u = s.regs u := by
  cases u <;> rfl
@[simp] theorem State.modChan_regs (s : State) (x1 : Nat) (x2 : Chan → Chan) : (State.modChan s x1 x2).regs u = s.regs u := by
  simp [State.modChan]
@[simp] theorem State.onChans_regs (s : State) (x1 : Nat) (x2 : Chan → Chan) : (State.onChans s x1 x2).regs u = s.regs u := by
  unfold State.onChans; rw [foldl_regs]; intros; split <;> simp
@[simp] theorem chanWrite_regs (s : State) (x0 : Nat) (x1 : Nat) (x2 : Nat) : (chanWrite x0 x1 x2 s).regs u = s.regs u := by
  unfold chanWrite; (repeat' split) <;> simp
@[simp] theorem ctaWrite_regs (s : State) (x0 : Nat) (x1 : Nat) : (ctaWrite x0 x1 s).regs u = s.regs u := by
  unfold ctaWrite; (repeat' split) <;> simp
@[simp] theorem State.nfcAbandon_regs (s : State) : (State.nfcAbandon s).regs u = s.regs u := by
  unfold State.nfcAbandon; (repeat' split) <;> simp
@[simp] theorem State.nfcHostWrite_regs (s : State) (x1 : Tandem) (x2 : Nat) :
    (State.nfcHostWrite s x1 x2).regs u = s.regs u := by
  unfold State.nfcHostWrite; simp [apply_ite (fun q : State => q.regs u)]
@[simp] theorem State.nfcLockWrite_regs (s : State) (x1 : Nat) : (State.nfcLockWrite s x1).regs u = s.regs u := by
  unfold State.nfcLockWrite; split <;> simp
@[simp] theorem State.nfcReset_regs (s : State) : (State.nfcReset s).regs u = s.regs u := by
  unfold State.nfcReset; simp [apply_ite (fun q : State => q.regs u)]
@[simp] theorem nfcWrite_regs (s : State) (x0 : Tandem) (x1 : Nat) (x2 : Nat) : (nfcWrite x0 x1 x2 s).regs u = s.regs u := by
  unfold nfcWrite; (repeat' split) <;> simp
@[simp] theorem bcfgWrite_regs (s : State) (x0 : Nat) : (bcfgWrite x0 s).regs u = s.regs u := by
  unfold bcfgWrite; rw [foldl_regs]; intros; simp
@[simp] theorem scfgWrite_regs (s : State) (x0 : Nat) : (scfgWrite x0 s).regs u = s.regs u := by
  simp [scfgWrite]
@[simp] theorem pwmWrite_regs (s : State) (x0 : Nat) (x1 : Nat) : (pwmWrite x0 x1 s).regs u = s.regs u := by
  unfold pwmWrite; split <;> simp
@[simp] theorem cfgWrite_regs (s : State) (x0 : Nat) (x1 : Nat) : (cfgWrite x0 x1 s).regs u = s.regs u := by
  unfold cfgWrite; split <;> simp
@[simp] theorem bankWrite_regs (s : State) (x0 : Nat) (x1 : Nat) (x2 : Nat) : (bankWrite x0 x1 x2 s).regs u = s.regs u := by
  unfold bankWrite; split <;> simp
@[simp] theorem pioWrite_regs (s : State) (x0 : Nat) (x1 : Nat) : (pioWrite x0 x1 s).regs u = s.regs u := by
  unfold pioWrite; (repeat' split) <;> simp
@[simp] theorem schCtlWrite_regs (s : State) (x0 : Side) (x1 : Nat) : (schCtlWrite x0 x1 s).regs u = s.regs u := by
  unfold schCtlWrite; simp [apply_ite (fun q : State => q.regs u)]
@[simp] theorem schCtxWrite_regs (s : State) (x0 : Side) (x1 : Fin 64) (x2 : Nat) :
    (schCtxWrite x0 x1 x2 s).regs u = s.regs u := by
  simp [schCtxWrite]
@[simp] theorem schWrite_regs (s : State) (x0 : Side) (x1 : Tandem) (x2 : Nat) (x3 : Nat) :
    (schWrite x0 x1 x2 x3 s).regs u = s.regs u := by
  unfold schWrite; (repeat' split) <;> simp
@[simp] theorem State.modSes_regs (s : State) (x1 : Fin 5) (x2 : Session → Session) :
    (State.modSes s x1 x2).regs u = s.regs u := by
  simp [State.modSes]
@[simp] theorem State.say_regs (s : State) (x1 : Fin 5) (x2 : Bool) (x3 : Text) : (State.say s x1 x2 x3).regs u = s.regs u := by
  simp [State.say]
@[simp] theorem State.prompt_regs (s : State) (x1 : Fin 5) : (State.prompt s x1).regs u = s.regs u := by
  unfold State.prompt; split <;> simp
@[simp] theorem State.eraseNext_regs (s : State) (x1 : ImgUpd) (x2 : Nat) : (State.eraseNext s x1 x2).regs u = s.regs u := by
  cases u <;> rfl
@[simp] theorem State.warmStart_regs (s : State) : (State.warmStart s).regs u = s.regs u := by
  unfold State.warmStart; split
  · rfl
  · rw [State.modUat_regs, State.withClk_regs]
@[simp] theorem State.imgAbort_regs (s : State) : (State.imgAbort s).regs u = s.regs u := by
  unfold State.imgAbort; split
  · rfl
  · rw [State.modUat_regs, State.invalidate, State.hw_regs, State.withXsp_regs]
    split <;> simp
@[simp] theorem State.freeHelm_regs (s : State) : (State.freeHelm s).regs u = s.regs u := by
  simp [State.freeHelm]
@[simp] theorem State.endSession_regs (s : State) (x1 : Fin 5) : (State.endSession s x1).regs u = s.regs u := by
  unfold State.endSession; dsimp only
  rw [State.modSes_regs, State.modUat_regs]
  (repeat' split) <;> simp
@[simp] theorem State.startSession_regs (s : State) (x1 : Fin 5) (x2 : Option Text) :
    (State.startSession s x1 x2).regs u = s.regs u := by
  unfold State.startSession; rw [State.prompt_regs, foldl_regs] <;> simp
@[simp] theorem State.settleSessions_regs (s : State) (x1 : Option Text) : (State.settleSessions s x1).regs u = s.regs u := by
  unfold State.settleSessions; rw [foldl_regs]; intros; (repeat' split) <;> simp
@[simp] theorem State.usbSession_regs (s : State) : (State.usbSession s).regs u = s.regs u := by
  unfold State.usbSession; split <;> simp
@[simp] theorem State.usbWake_regs (s : State) (x1 : Bool) : (State.usbWake s x1).regs u = s.regs u := by
  unfold State.usbWake; split <;> simp
@[simp] theorem ctlWrite_regs (s : State) (x0 : Nat) : (ctlWrite x0 s).regs u = s.regs u := by
  simp [ctlWrite]
@[simp] theorem usbCtlWrite_regs (s : State) (x0 : Nat) : (usbCtlWrite x0 s).regs u = s.regs u := by
  unfold usbCtlWrite; split <;> simp
@[simp] theorem epgoWrite_regs (s : State) (x0 : Tandem) (x1 : Nat) (x2 : Nat) : (epgoWrite x0 x1 x2 s).regs u = s.regs u := by
  unfold epgoWrite; split <;> simp
@[simp] theorem usbWrite_regs (s : State) (x0 : Tandem) (x1 : Nat) (x2 : Nat) : (usbWrite x0 x1 x2 s).regs u = s.regs u := by
  unfold usbWrite; simp [apply_ite (fun q : State => q.regs u)]
@[simp] theorem State.unlatch_regs (s : State) : (State.unlatch s).regs u = s.regs u := by
  simp [State.unlatch]
@[simp] theorem State.routeWrite_regs (s : State) (x1 : Tandem) (x2 : Nat) (x3 : BitVec 32) :
    (State.routeWrite s x1 x2 x3).regs u = s.regs u := by
  unfold State.routeWrite; simp [apply_ite (fun q : State => q.regs u)]
@[simp] theorem State.dbSet_regs (s : State) (x1 : Tandem) (x2 : Nat) : (State.dbSet s x1 x2).regs u = s.regs u := by
  simp [State.dbSet]
@[simp] theorem State.vcClr_regs (s : State) (x1 : Nat) : (State.vcClr s x1).regs u = s.regs u := by
  unfold State.vcClr; split <;> simp
@[simp] theorem irtWrite_regs (s : State) (x0 : Tandem) (x1 : Nat) (x2 : Nat) : (irtWrite x0 x1 x2 s).regs u = s.regs u := by
  unfold irtWrite; (repeat' split) <;> simp
@[simp] theorem drcWrite_regs (s : State) (x0 : Nat) (x1 : Nat) : (drcWrite x0 x1 s).regs u = s.regs u := by
  unfold drcWrite
  rw [apply_ite (fun q : State => q.regs u), State.withDrc_regs, ite_self]
@[simp] theorem xspCmdWrite_regs (s : State) (x0 : Tandem) (x1 : Nat) : (xspCmdWrite x0 x1 s).regs u = s.regs u := by
  unfold xspCmdWrite; (repeat' split) <;> simp
@[simp] theorem xspWrite_regs (s : State) (x0 : Tandem) (x1 : Nat) (x2 : Nat) : (xspWrite x0 x1 x2 s).regs u = s.regs u := by
  unfold xspWrite; (repeat' split) <;> simp
@[simp] theorem State.evalStart_regs (s : State) : (State.evalStart s).regs u = s.regs u := by
  unfold State.evalStart; split <;> simp
@[simp] theorem State.setDate_regs (s : State) (x1 : Nat) : (State.setDate s x1).regs u = s.regs u := by
  unfold State.setDate; dsimp only; (repeat' split) <;> simp
@[simp] theorem grmWrite_regs (s : State) (x0 : Nat) (x1 : Nat) : (grmWrite x0 x1 s).regs u = s.regs u := by
  unfold grmWrite
  split
  · exact State.modGrm_regs _ _ _
  split
  · exact State.setDate_regs _ _
  split
  · exact State.modMeta_regs _ _ _
  split
  · exact State.modMeta_regs _ _ _
  split
  · dsimp only
    split
    · rw [State.evalStart_regs, State.modGrm_regs]
    · exact State.modGrm_regs _ _ _
  · rfl
@[simp] theorem spkWrite_regs (s : State) (x0 : Nat) (x1 : Nat) : (spkWrite x0 x1 s).regs u = s.regs u := by
  unfold spkWrite; split <;> simp
@[simp] theorem State.outsOff_regs (s : State) : (State.outsOff s).regs u = s.regs u := by
  unfold State.outsOff; split <;> simp
@[simp] theorem State.safeWrite_regs (s : State) (x1 : Nat) : (State.safeWrite s x1).regs u = s.regs u := by
  unfold State.safeWrite; (repeat' split) <;> simp
@[simp] theorem State.wdService_regs (s : State) (x1 : Tandem) (x2 : Tandem) (x3 : Nat) :
    (State.wdService s x1 x2 x3).regs u = s.regs u := by
  unfold State.wdService; simp [apply_ite (fun q : State => q.regs u)]
@[simp] theorem State.wdConfig_regs (s : State) (x1 : Tandem) (x2 : Tandem) (x3 : Nat) :
    (State.wdConfig s x1 x2 x3).regs u = s.regs u := by
  unfold State.wdConfig; simp [apply_ite (fun q : State => q.regs u)]
@[simp] theorem State.pctlWrite_regs (s : State) (x1 : Nat) : (State.pctlWrite s x1).regs u = s.regs u := by
  unfold State.pctlWrite; split <;> simp
@[simp] theorem State.pinjWrite_regs (s : State) (x1 : Nat) : (State.pinjWrite s x1).regs u = s.regs u := by
  unfold State.pinjWrite; split <;> simp
@[simp] theorem wrdWrite_regs (s : State) (x0 : Tandem) (x1 : Nat) (x2 : Nat) : (wrdWrite x0 x1 x2 s).regs u = s.regs u := by
  unfold wrdWrite; simp [apply_ite (fun q : State => q.regs u)]
@[simp] theorem State.unitReset_regs (s : State) (x1 : Nat) : (State.unitReset s x1).regs u = s.regs u := by
  unfold State.unitReset; split <;> simp
@[simp] theorem State.urstWrite_regs (s : State) (x1 : Tandem) (x2 : Nat) : (State.urstWrite s x1 x2).regs u = s.regs u := by
  unfold State.urstWrite; rw [foldl_regs]; intros; split <;> simp
@[simp] theorem State.gateWrite_regs (s : State) (x1 : Tandem) (x2 : Bool) (x3 : Nat) :
    (State.gateWrite s x1 x2 x3).regs u = s.regs u := by
  simp [State.gateWrite]
@[simp] theorem State.rstcmd_regs (s : State) (x1 : Tandem) (x2 : Nat) : (State.rstcmd s x1 x2).regs u = s.regs u := by
  unfold State.rstcmd; dsimp only; (repeat' split) <;> simp
@[simp] theorem clkWrite_regs (s : State) (x0 : Tandem) (x1 : Nat) (x2 : Nat) : (clkWrite x0 x1 x2 s).regs u = s.regs u := by
  unfold clkWrite; (repeat' split) <;> simp
@[simp] theorem devWrite_regs (s : State) (x1 : Tandem) (x2 : Fin 17) (x3 : Nat) (x4 : Nat) :
    (devWrite s x1 x2 x3 x4).regs u = s.regs u := by
  unfold devWrite; split <;> simp
@[simp] theorem devStore_regs (s : State) (t : Tandem) (a n v : Nat) : (devStore s t a n v).regs u = s.regs u := by
  unfold devStore; split <;> simp

/-! What the store buffer drains. -/

theorem State.setMem_regs (s : State) (w : Nat) (v : TWord) : (s.setMem w v).regs u = s.regs u := by
  cases u <;> (unfold State.setMem; dsimp only; split <;> rfl)

theorem State.loseResv_regs (s : State) (by_ : Option Tandem) (line : Nat) : (s.loseResv by_ line).regs u = s.regs u := by
  unfold State.loseResv State.regs
  cases u <;> (dsimp only [State.cpu]; split <;> rfl)

theorem State.writeWords_regs (s : State) (t : Tandem) (ws : List (Nat × TWord)) : (s.writeWords t ws).regs u = s.regs u := by
  unfold State.writeWords
  split
  · rfl
  · dsimp only
    rw [State.hw_regs]
    split
    · exact (State.withSpk_regs _ _ _).trans (s.loseResv_regs _ _)
    · rw [foldl_regs _ fun s p => s.setMem_regs _ _]
      exact s.loseResv_regs _ _

theorem State.setSb_regs (s : State) (t : Tandem) (l : List SbEnt) :
    (s.modCpu t fun c => { c with sb := l }).regs u = s.regs u := by
  unfold State.regs
  by_cases h : u = t
  · subst h; rw [State.cpu_modCpu_same]; rfl
  · rw [State.modCpu, State.cpu_setCpu_other _ _ _ _ h]

/-- A drain of the head entry changes no register. -/
theorem State.drainHead_regs (s : State) (t : Tandem) : (s.drainHead t).regs u = s.regs u := by
  unfold State.drainHead
  split
  · rfl
  split
  · rfl
  · dsimp only
    split
    · exact (devStore_regs _ _ _ _ _).trans (s.setSb_regs _ _)
    · exact (State.writeWords_regs _ _ _).trans (s.setSb_regs _ _)

theorem drainN_regs (n : Nat) (t : Tandem) (s : State) : (drainN n t s).regs u = s.regs u := by
  induction n generalizing s with
  | zero => rfl
  | succ n ih => exact (ih _).trans (s.drainHead_regs t)

theorem State.drainAll_regs (s : State) (t : Tandem) : (s.drainAll t).regs u = s.regs u := drainN_regs _ t s

theorem State.lk_of_regs {s s' : State} {t : Tandem} (h : s'.regs t = s.regs t) : (s'.cpu t).lk = (s.cpu t).lk  := by
  have e := congrArg (fun c : Cpu => c.lk) h
  exact e
theorem State.pmctl_of_regs {s s' : State} {t : Tandem} (h : s'.regs t = s.regs t) : (s'.cpu t).pmctl = (s.cpu t).pmctl  := by
  have e := congrArg (fun c : Cpu => c.pmctl) h
  exact e

end Sys2Proof.Machine
end

