-- ==== Sys2Proof/Laws/Runs.lean ====
section
/-! SUPPORT. How the bodies of words run, and what a translation, a fetch and a read of memory change. -/

namespace Sys2Proof.Machine

/-! The bodies of words. -/

variable {α β : Type}

@[simp] theorem Cm.run_pure (a : α) (s : State) : (pure a : Cm α).run s = .ok a s := rfl
@[simp] theorem Cm.run_bind (x : Cm α) (f : α → Cm β) (s : State) :
    (x >>= f).run s = match x.run s with | .ok a s' => (f a).run s' | .error e s' => .error e s' := by
  show EStateM.bind x f s = _
  unfold EStateM.bind EStateM.run
  cases x s <;> rfl
@[simp] theorem Cm.run_get (s : State) : (get : Cm State).run s = .ok s s := rfl
@[simp] theorem Cm.run_set (s s' : State) : (set s' : Cm Unit).run s = .ok () s' := rfl
@[simp] theorem Cm.run_modify (f : State → State) (s : State) : (modify f : Cm Unit).run s = .ok () (f s) := rfl
@[simp] theorem Cm.run_throw (e : Exc) (s : State) : (throw e : Cm α).run s = .error e s := rfl
@[simp] theorem Cm.run_raise (c d : Nat) (s : State) : (raise c d : Cm α).run s = .error ⟨c, d, 3, 0, false, 0⟩ s := rfl
@[simp] theorem Cm.run_raiseAt (c d v : Nat) (s : State) :
    (raiseAt c d v : Cm α).run s = .error ⟨c, d, 3, 0, false, v % 2 ^ 44⟩ s := rfl
@[simp] theorem Cm.run_raiseSrc (c d k n : Nat) (s : State) : (raiseSrc c d k n : Cm α).run s = .error ⟨c, d, k, n, false, 0⟩ s := rfl
@[simp] theorem Cm.run_raiseCapAt (d n v : Nat) (s : State) :
    (raiseCapAt d n v : Cm α).run s = .error ⟨1, d, 1, n, false, v % 2 ^ 44⟩ s := rfl
@[simp] theorem Cm.run_xlate (k : AKind) (d v : Nat) (s : State) :
    (xlate k d v : Cm α).run s = .error ⟨6, d, 3, k.code, false, v % 2 ^ 44⟩ s := rfl
@[simp] theorem Cm.run_tlbMiss (k : AKind) (v : Nat) (s : State) :
    (tlbMiss k v : Cm α).run s = .error ⟨5, 0x50, 3, k.code, false, v % 2 ^ 44⟩ s := rfl
@[simp] theorem Cm.run_ite (p : Prop) [Decidable p] (x y : Cm α) (s : State) :
    (if p then x else y).run s = if p then x.run s else y.run s := by split <;> rfl

/-- A data source delivers its bits. -/
@[simp] theorem needData_data (v : TWord) (k n : Nat) (s : State) (h : v.isData = true) :
    (needData v k n).run s = .ok v.bits s := by
  unfold TWord.isData at h
  unfold needData
  split <;> simp_all

theorem run_srcG (t : Tandem) (r : Reg) (s : State) (h : (s.g t r).isData = true) :
    (srcG t r).run s = .ok (s.g t r).bits s := by
  unfold srcG State.g at *
  simp only [Cm.run_bind, Cm.run_get]
  exact needData_data _ _ _ _ h

@[simp] theorem run_rawG (t : Tandem) (r : Reg) (s : State) : (rawG t r).run s = .ok (s.g t r) s := rfl
@[simp] theorem run_rawC (t : Tandem) (r : CReg) (s : State) : (rawC t r).run s = .ok (s.c t r) s := rfl
@[simp] theorem run_modLk (t : Tandem) (f : Locker → Locker) (s : State) :
    (Sys2Proof.Machine.modLk t f).run s = .ok () (s.modLk t f) := rfl
@[simp] theorem run_putG (t : Tandem) (r : Reg) (v : TWord) (s : State) : (putG t r v).run s = .ok () (s.wrG t r v) := rfl
@[simp] theorem run_putInt (t : Tandem) (r : Reg) (v : W64) (s : State) :
    (putInt t r v).run s = .ok () (s.wrG t r (.int v)) := rfl
@[simp] theorem run_putC (t : Tandem) (r : CReg) (v : Cap) (s : State) : (putC t r v).run s = .ok () (s.wrC t r v) := rfl
@[simp] theorem run_putF (t : Tandem) (r : FReg) (v : TWord) (s : State) : (putF t r v).run s = .ok () (s.wrF t r v) := rfl

/-! What a fetch changes. -/

/-- The state that a run leaves, whether it answers or faults. -/
def Cm.after : EStateM.Result Exc State α → State
  | .ok _ s => s
  | .error _ s => s

/-- Whether `x` answers or faults, it leaves a state that stands in `R` to the state it ran from. -/
def Cm.Keeps (R : State → State → Prop) (x : Cm α) : Prop := ∀ s, R s (Cm.after (x.run s))

/-- A relation that composes. -/
structure Composes (R : State → State → Prop) : Prop where
  refl : ∀ s, R s s
  trans : ∀ a b c, R a b → R b c → R a c

section
variable {R : State → State → Prop}

theorem Cm.Keeps.pure (h : Composes R) (a : α) : Cm.Keeps R (pure a : Cm α) := fun s => h.refl s
theorem Cm.Keeps.throw (h : Composes R) (e : Exc) : Cm.Keeps R (throw e : Cm α) := fun s => h.refl s
theorem Cm.Keeps.get (h : Composes R) : Cm.Keeps R (get : Cm State) := fun s => h.refl s
theorem Cm.Keeps.modify {f : State → State} (h : ∀ s, R s (f s)) : Cm.Keeps R (modify f : Cm Unit) := fun s => h s
theorem Cm.Keeps.bind (h : Composes R) {x : Cm α} {f : α → Cm β} (hx : Cm.Keeps R x)
    (hf : ∀ a, Cm.Keeps R (f a)) : Cm.Keeps R (x >>= f) := by
  intro s
  have h1 := hx s
  rw [Cm.run_bind]
  cases hr : x.run s with
  | ok a s1 => rw [hr] at h1; exact h.trans _ _ _ h1 (hf a s1)
  | error e s1 => rw [hr] at h1; exact h1

theorem Cm.Keeps.ite (p : Prop) [Decidable p] {x y : Cm α} (hx : Cm.Keeps R x) (hy : Cm.Keeps R y) :
    Cm.Keeps R (if p then x else y) := by split <;> assumption
theorem Cm.Keeps.forM (h : Composes R) {f : α → Cm Unit} (hf : ∀ a, Cm.Keeps R (f a)) : ∀ l : List α, Cm.Keeps R (l.forM f)
  | [] => .pure h _
  | a :: l => .bind h (hf a) fun _ => Cm.Keeps.forM h hf l

theorem Cm.Keeps.ok {x : Cm α} {s s' : State} {a : α} (h : Cm.Keeps R x) (e : x.run s = .ok a s') : R s s' := by
  have := h s
  rw [e] at this
  exact this

/-- A run that depends on the state it starts from. -/
theorem Cm.keeps_get {f : State → Cm α} (hf : ∀ s, R s (Cm.after ((f s).run s))) : Cm.Keeps R (get >>= f) := hf

theorem Cm.keeps_set (h : Composes R) {s a : State} {x : Cm α} (ha : R s a) (hx : Cm.Keeps R x) :
    R s (Cm.after ((do set a; x : Cm α).run s)) := h.trans _ _ _ ha (hx a)

end

/-! What a fetch and a translation change. -/

/-- Nothing but what caches, lookups and check bits change. -/
def Same (s s' : State) : Prop := s' = s.hw s'

/-- A relation that holds what an access of kind `k` may change beneath the registers: what the caches change, the micro-TLB
of its kind, entries of the unified TLB that are struck out, and reports. -/
structure Beneath (k : AKind) (R : State → State → Prop) : Prop extends Composes R where
  light : ∀ s r, Light s r → R s (s.hw r)
  micro : ∀ s t l, R s (s.modCpu t fun c => c.setMicro k l)
  tlb : ∀ s t i, R s (s.modCpu t fun c => { c with tlb := tmod none c.tlb i fun e => e.map TlbEnt.kill })
  multi : ∀ s t, R s (s.modCpu t fun c => { c with xmulti := satAdd 0xFFFF c.xmulti 1 })
  detect : ∀ s b d, R s (State.detect s b d)

theorem Quiet.composes : Composes Quiet := ⟨.refl, fun _ _ _ => .trans⟩

theorem Quiet.modCpu {s : State} {t : Tandem} {f : Cpu → Cpu} (h : (s.cpu t).Kept (f (s.cpu t)))
    (hs : s.modCpu t f = s.hw (s.modCpu t f)) : Quiet s (s.modCpu t f) where
  same := hs
  cores u := by
    by_cases hu : u = t
    · subst hu; simpa using h
    · rw [State.cpu_modCpu_other _ _ _ _ hu]; exact .refl _
  arrived := by simp

theorem Quiet.detect (s : State) (b : Fin 18) (d : Nat) : Quiet s (s.detect b d) :=
  ⟨rfl, fun u => by simpa using .refl _, by simp [State.detect]⟩

/-- An access of a fetch kind changes only what `Quiet` allows. -/
theorem Quiet.beneath {k : AKind} (hk : k.isFetch = true) : Beneath k Quiet where
  toComposes := Quiet.composes
  light _ _ h := h.quiet
  micro s t l := .modCpu (by unfold Cpu.setMicro; rw [if_pos hk]; exact ⟨fun _ => .inl rfl, .inl rfl, rfl, Nat.min_le_right _ _⟩)
    (by unfold Cpu.setMicro; simp only [hk, if_true]; cases t <;> rfl)
  tlb s t i := .modCpu ⟨fun j => by
      show tget none (tmod none _ i _) j = _ ∨ tget none (tmod none _ i _) j = _
      unfold tmod
      rw [tget_tset]
      split
      · rename_i h; subst h; exact .inr rfl
      · exact .inl rfl, .inl rfl, rfl, Nat.min_le_right _ _⟩ (by cases t <;> rfl)
  multi s t := .modCpu ⟨fun _ => .inl rfl, .inl rfl, rfl, by
      show min 0xFFFF (s.cpu t).xmulti ≤ satAdd 0xFFFF (s.cpu t).xmulti 1
      unfold satAdd
      omega⟩ (by cases t <;> rfl)
  detect := Quiet.detect

/-- Any access changes only what lies beneath the registers. -/
theorem Same.beneath (k : AKind) : Beneath k Same where
  refl _ := rfl
  trans a b c h k := by unfold Same at *; rw [k, h]; rfl
  light _ _ _ := rfl
  micro s t l := by unfold Same Cpu.setMicro; split <;> cases t <;> rfl
  tlb s t i := by unfold Same; cases t <;> rfl
  multi s t := by unfold Same; cases t <;> rfl
  detect s b d := rfl

theorem Quiet.toSame {s s' : State} (h : Quiet s s') : Same s s' := h.same

section
variable {k : AKind} {R : State → State → Prop}

theorem Beneath.lightStep (h : Beneath k R) {s r : State} (hl : Light s r) (hs : r = s.hw r) : R s r := by
  rw [hs]
  exact h.light s r hl

theorem Beneath.eccMet (h : Beneath k R) (g va : Nat) : Cm.Keeps R (eccMet k g va : Cm α) := by
  unfold Machine.eccMet
  refine .ite _ (.bind h.toComposes (.modify fun s => ?_) fun _ => .throw h.toComposes _) ?_
  · exact h.lightStep (.dropped s g) rfl
  · exact .bind h.toComposes (.modify fun s => h.trans _ _ _ (h.detect s 4 g) (h.lightStep (.eccUnc _ g) rfl))
      fun _ => .throw h.toComposes _

theorem Beneath.tlbMulti (h : Beneath k R) (t : Tandem) (va : Nat) : Cm.Keeps R (tlbMulti t va : Cm α) :=
  .bind h.toComposes (.modify fun s => h.trans _ _ _ (h.multi s t) (h.detect _ 17 0x10)) fun _ => .throw h.toComposes _

theorem Beneath.tlbCheck (h : Beneath k R) (m : Side) (va i : Nat) : Cm.Keeps R (tlbCheck m k va i) := by
  unfold Machine.tlbCheck
  refine Cm.keeps_get fun s => ?_
  refine Cm.keeps_set h.toComposes (h.light s _ (.check s _)) ?_
  refine .ite _ (.bind h.toComposes (.modify fun s => ?_) fun _ => h.eccMet _ _) (.pure h.toComposes _)
  exact h.trans _ _ _ (h.lightStep (.clearSite s _) rfl) (h.tlb _ _ _)

theorem Beneath.tlbScan (h : Beneath k R) (m : Side) (va : Nat) : Cm.Keeps R (tlbScan m k va) := by
  unfold Machine.tlbScan
  refine .bind h.toComposes (.get h.toComposes) fun s => Cm.Keeps.forM h.toComposes (fun p => ?_) _
  exact h.tlbCheck m va p

theorem Beneath.microScan (h : Beneath k R) (m : Side) (va : Nat) : Cm.Keeps R (microScan m k va) := by
  unfold Machine.microScan
  refine .bind h.toComposes (.get h.toComposes) fun s => .forM h.toComposes (fun e => ?_) _
  dsimp only
  refine Cm.keeps_get fun s => ?_
  refine Cm.keeps_set h.toComposes (h.light s _ (.check s _)) ?_
  refine .ite _ (.bind h.toComposes (.modify fun s => ?_) fun _ => h.eccMet _ _) (.pure h.toComposes _)
  exact h.trans _ _ _ (h.lightStep (.clearSite s _) rfl) (by
    have := h.micro (s.clearSite (if k.isFetch = true then Site.itlb m e else Site.dtlb m e)) m.tandem
      (((s.cpu m.tandem).micro k).filter fun y => decide (y ≠ e))
    simpa [State.modCpu] using this)

/-- The copy of a unified entry. -/
theorem Beneath.microFill (h : Beneath k R) (s : State) (t : Tandem) (e : TlbEnt) : R s (s.microFill t k e) := by
  unfold State.microFill
  dsimp only
  have h1 : ∀ r : State, R s r → ∀ l : List TlbEnt, ∀ n, R s ((r.modCpu t fun c => c.setMicro k (lruPut n e (c.micro k))).event t
      (if k.isFetch then 0x09 else 0x0A) 1) := fun r hr _ n =>
    h.trans _ _ _ (h.trans _ _ _ hr (by simpa [State.modCpu] using h.micro r t (lruPut n e ((r.cpu t).micro k))))
      (h.lightStep (.event _ t _ 1) (by unfold State.event; split <;> cases t <;> rfl))
  split
  · exact h1 _ (h.lightStep (.clearSite s _) rfl) [] _
  · exact h1 _ (h.refl s) [] _

/-- Looking an address up. -/
theorem Beneath.lookup (h : Beneath k R) (t : Tandem) (va : Nat) : Cm.Keeps R (lookup t k va) := by
  have co := h.toComposes
  have put : ∀ l : Cpu → List TlbEnt, Cm.Keeps R (modify fun s => s.modCpu t fun c => c.setMicro k (l c) : Cm Unit) := fun l =>
    .modify fun s => by simpa [State.modCpu] using h.micro s t (l (s.cpu t))
  have scan : ∀ f : Side → AKind → Nat → Cm Unit, (∀ m, Cm.Keeps R (f m k va)) →
      Cm.Keeps R (match t.side with | some m => f m k va | none => pure ()) := fun f hf => by
    split
    · exact hf _
    · exact .pure co _
  unfold Machine.lookup
  dsimp only
  refine .bind co (scan _ fun m => h.microScan m va) fun _ => .bind co (.get co) fun s => ?_
  split
  · exact .bind co (put _) fun _ => .pure co _
  · exact h.tlbMulti t va
  · refine .bind co (scan _ fun m => h.tlbScan m va) fun _ => .bind co (.get co) fun s => ?_
    split
    · exact .ite _ (.pure co _) (.bind co (.modify fun s => h.microFill s t _) fun _ => .pure co _)
    · exact .throw co _
    · exact h.tlbMulti t va

theorem Beneath.pageOf (h : Beneath k R) (t : Tandem) (ring va : Nat) : Cm.Keeps R (pageOf t k ring va) := by
  have co := h.toComposes
  unfold Machine.pageOf
  refine .bind co (.get co) fun s => ?_
  dsimp only
  refine .ite _ (.pure co _) (.ite _ (.ite _ (.pure co _) (.throw co _)) (.bind co (h.lookup t va) fun e => ?_))
  exact .ite _ (.throw co _) (.ite _ (.throw co _) (.ite _ (.throw co _) (.ite _ (.throw co _) (.pure co _))))

/-- The rows after the page lookups change nothing. -/
theorem judge_keeps (co : Composes R) (t : Tandem) (rule : RegionRule) (va n : Nat) (ph : Phys) (at1 at2 : Nat) :
    Cm.Keeps R (judge t k rule va n ph at1 at2) := by
  have th : ∀ e : Exc, Cm.Keeps R (throw e : Cm (Phys × Region)) := .throw co
  have pu : ∀ x, Cm.Keeps R (pure x : Cm (Phys × Region)) := .pure co
  unfold judge
  refine .bind co (.get co) fun s => ?_
  dsimp only
  generalize s.regionOf t ph.lo ph.n = r1
  cases r1 with
  | none => exact th _
  | some r =>
    refine .ite _ (th _) (.ite _ (th _) (.ite _ (th _) (.ite _ (th _) (.ite _ (th _) ?_))))
    cases rule <;> cases r <;> first | exact pu _ | exact th _ | exact .ite _ (th _) (pu _)

/-- A translation's own effect is that of its page lookups. -/
theorem Beneath.translate (h : Beneath k R) (t : Tandem) (rule : RegionRule) (ring va n : Nat) :
    Cm.Keeps R (translate t k rule ring va n) := by
  have co := h.toComposes
  unfold Machine.translate
  refine .bind co (h.pageOf t ring va) fun ⟨pa, left, at1⟩ => ?_
  dsimp only
  refine .ite _ (.bind co (.pure co _) fun x => judge_keeps co t rule va n _ _ _)
    (.bind co (h.pageOf t ring _) fun ⟨pb, l, at2⟩ => ?_)
  exact .bind co (.pure co _) fun x => judge_keeps co t rule va n _ _ _

end

/-! Reads of memory. -/

theorem eccAt_quiet (g va : Nat) : Cm.Keeps Quiet (eccAt g va : Cm α) :=
  .bind Quiet.composes (.modify fun s => (Quiet.detect s 4 g).trans ⟨rfl, fun u => by simpa using .refl _, List.prefix_refl _⟩)
    fun _ => .throw Quiet.composes _

/-- Reading one word of memory. -/
theorem readOne_quiet (t : Tandem) (r : Region) (turn : Bool) (w va : Nat) : Cm.Keeps Quiet (readOne t r turn w va) := by
  have co := Quiet.composes
  unfold readOne
  refine Cm.keeps_get fun s => ?_
  dsimp only
  cases s.windowMiss t r w with
  | none =>
    refine Cm.keeps_set co (Light.readWord s t false w).quiet ?_
    split
    · exact eccAt_quiet _ _
    · exact .pure co _
  | some q =>
    dsimp only
    by_cases h1 : (s.xsp.port q).winoff = true
    · rw [if_pos h1]
      exact .refl s
    · rw [if_neg h1]
      by_cases h2 : (s.xsp.busy && cmdPort s.xsp.run.toNat == q && !turn) = true
      · rw [if_pos h2]
        exact .refl s
      · rw [if_neg h2]
        refine Cm.keeps_set co (Light.readWord s t false w).quiet ?_
        split
        · exact eccAt_quiet _ _
        · exact .pure co _

theorem readMem_quiet (t : Tandem) (r : Region) (turn : Bool) (ph : Phys) (n va : Nat) :
    Cm.Keeps Quiet (readMem t r turn ph n va) := by
  unfold readMem
  have co := Quiet.composes
  refine .bind co (.get co) fun s => .ite _ (.pure co _) (.forM co (fun p => ?_) _)
  exact readOne_quiet t r turn (p.1 / 8) va

/-! Fetches. -/

theorem takeBlock_quiet (t : Tandem) : ∀ (n : Nat) (half : Option FqEnt) (va pa : Nat) (s : State), Quiet s (takeBlock t n half va pa s)
  | 0, _, _, _, s => .refl s
  | n + 1, half, va, pa, s => by
    unfold takeBlock
    split
    · exact .refl s
    · dsimp only
      refine ((Quiet.trans ?_ (.modFront _ t _)).trans (.fStep _ t _)).trans (takeBlock_quiet t n _ _ _ _)
      cases half with
      | some e => exact .refl s
      | none => exact .fetchTagged s t _

theorem aheadFill_quiet (t : Tandem) {k : AKind} (hk : k.isFetch = true) (va : Nat) : Cm.Keeps Quiet (aheadFill t k va) := by
  unfold aheadFill
  refine .modify fun s => ?_
  dsimp only
  split
  · split
    · exact (Quiet.beneath hk).microFill s t _
    · exact .refl s
  · exact .refl s

theorem fetchBlock_quiet (t : Tandem) {k : AKind} (hk : k.isFetch = true) (a : Nat) : Cm.Keeps Quiet (fetchBlock t k a) := by
  have co := Quiet.composes
  unfold fetchBlock
  exact .bind co (.get co) fun s => .bind co ((Quiet.beneath hk).translate t _ _ _ _) fun x =>
    .bind co (aheadFill_quiet t hk a) fun _ => .modify fun s => takeBlock_quiet t _ _ _ _ s

/-- A tandem fetches ahead without a trace but in the caches. -/
theorem aheadN_quiet (t : Tandem) : ∀ (n : Nat) (s : State), Quiet s (aheadN t n s)
  | 0, s => .refl s
  | n + 1, s => by
    unfold aheadN
    dsimp only
    split
    · exact .refl s
    · have h := fetchBlock_quiet t (k := .ahead) rfl (s.cpu t).front.next s
      cases hr : (fetchBlock t .ahead (s.cpu t).front.next).run s with
      | ok w s' =>
        rw [hr] at h
        exact h.trans (aheadN_quiet t n _)
      | error e s' =>
        rw [hr] at h
        exact h

theorem fetchAhead_quiet (t : Tandem) (s : State) : Quiet s (fetchAhead t s) := by
  unfold fetchAhead
  split
  · exact ((Quiet.freeNext s).trans ((Quiet.redirect _ t).trans (aheadN_quiet t _ _))).light.quiet
  · exact .refl s

theorem fetchNow_quiet (t : Tandem) (a : Nat) : Cm.Keeps Quiet (fetchNow t a) := by
  have co := Quiet.composes
  unfold fetchNow
  exact .bind co (.get co) fun s => .ite _ (fetchBlock_quiet t rfl a) (.pure co _)

theorem takeWord_quiet (t : Tandem) (a : Nat) : Cm.Keeps Quiet (takeWord t a) := by
  have co := Quiet.composes
  unfold takeWord
  refine .bind co (.modify fun s => .redirect s t) fun _ => .bind co (.get co) fun s => ?_
  split
  · exact .pure co _
  · refine .bind co (fetchNow_quiet t a) fun _ => .bind co (.get co) fun s => ?_
    split
    · exact .bind co (.modify fun s => (Quiet.modFront s t _).trans (.event _ t _ _)) fun _ => .pure co _
    · exact .throw co _

theorem wordErr_quiet (t : Tandem) (a : Nat) (e : FqEnt) : Cm.Keeps Quiet (wordErr t a e) := by
  have co := Quiet.composes
  unfold wordErr
  split
  · exact .bind co (.modify fun s => .modFront s t _) fun _ => eccAt_quiet _ _
  · exact .pure co _

theorem fetchCheck_quiet (t : Tandem) : Cm.Keeps Quiet (fetchCheck t) := by
  have co := Quiet.composes
  unfold fetchCheck
  refine .bind co (.get co) fun s => ?_
  dsimp only
  refine .ite _ (.throw co _) (.bind co (takeWord_quiet t _) fun w => ?_)
  split
  · exact wordErr_quiet t _ _
  · exact .throw co _
  · exact .throw co _
  · exact .bind co (.modify fun s => Quiet.detect s 17 0x12) fun _ => .throw co _
  · exact .throw co _

theorem slotCheck_quiet (t : Tandem) (k : Kind) : Cm.Keeps Quiet (slotCheck t k) := by
  have co := Quiet.composes
  unfold slotCheck
  refine .bind co (.get co) fun s => ?_
  dsimp only
  split
  all_goals first | exact .pure co _ | exact .throw co _

theorem regCheck_quiet (t : Tandem) : Cm.Keeps Quiet (regCheck t) := by
  have co := Quiet.composes
  unfold regCheck
  refine Cm.keeps_get fun s => ?_
  exact Cm.keeps_set co (Light.checkOnce s _).quiet (.ite _ (eccAt_quiet _ _) (.pure co _))

theorem issue_quiet (t : Tandem) (k : Kind) : Cm.Keeps Quiet (issue t k) := by
  have co := Quiet.composes
  unfold issue
  refine .bind co (fetchCheck_quiet t) fun _ => .bind co (.modify fun s => ?_) fun _ =>
    .bind co (slotCheck_quiet t k) fun _ => regCheck_quiet t
  dsimp only
  split
  · exact .learn s t _
  · exact .refl s
  · exact .decoded s t _

/-- A word that issues leaves everything but what lies beneath the registers. -/
theorem Issues.quiet {t : Tandem} {k : Kind} {s s1 : State} (h : Issues t k s s1) : Quiet s s1 := (issue_quiet t k).ok h.2

end Sys2Proof.Machine
end

