-- ==== Sys2Proof/Laws/Words.lean ====
section
/-! SUPPORT. Words of a tandem: what retiring changes, and how a word that issues completes. -/

namespace Sys2Proof.Machine

/-! Retiring. -/

theorem Cpu.lk_eq {c d : Cpu} (h1 : d.cur = c.cur) (h2 : d.lockers = c.lockers) : d.lk = c.lk := by
  simp [Cpu.lk, Cpu.locker, h1, h2]

theorem Cpu.locker_eq {c d : Cpu} (h : d.lockers = c.lockers) (n : Nat) : d.locker n = c.locker n := by
  simp [Cpu.locker, h]

/-- Cores that differ in their performance counters and their fetch stage at most. -/
def SameButPm (c d : Cpu) : Prop := ∃ m y p e f, d = { c with pmctl := m, pmcyc := y, pmret := p, pmev := e, front := f }

theorem Cpu.pmCount_changes (c old : Cpu) (p : PmWord) (cyc : W64) (fr : Nat → W64) : SameButPm c (c.pmCount old p cyc fr) :=
  ⟨(c.pmCount old p cyc fr).pmctl, (c.pmCount old p cyc fr).pmcyc, (c.pmCount old p cyc fr).pmret, (c.pmCount old p cyc fr).pmev,
    (c.pmCount old p cyc fr).front, rfl⟩

/-- What the counters' turn changes. -/
theorem pmTick_changes (t : Tandem) (old : Cpu) (p : PmWord) (s : State) :
    ∃ n c, pmTick t old p s = ({ s with free := n } : State).setCpu t c ∧ SameButPm (s.cpu t) c := by
  unfold pmTick
  split
  · exact ⟨s.free, s.cpu t, (State.setCpu_cpu s t).symm, _, _, _, _, _, rfl⟩
  split
  · exact ⟨s.free, { s.cpu t with front := (s.cpu t).front.counted }, rfl, _, _, _, _, _, rfl⟩
  · refine ⟨s.free + 5, (s.cpu t).pmCount old p s.freeVal fun i => Config.free (s.free + 1 + i), ?_, Cpu.pmCount_changes _ _ _ _ _⟩
    cases t <;> rfl

/-- A tandem that does not count keeps its counters. -/
theorem pmTick_off (t : Tandem) (old : Cpu) (p : PmWord) (s : State) (h : t.isG = true ∨ old.pmOn p.ring = false) :
    ∃ f, (pmTick t old p s).cpu t = { s.cpu t with front := f } := by
  unfold pmTick
  split
  · exact ⟨_, rfl⟩
  · rename_i hg
    rw [if_pos (by
      rcases h with h | h
      · exact absurd h hg
      · simp [h])]
    exact ⟨(s.cpu t).front.counted, State.cpu_modCpu_same _ _ _⟩

/-- PCC moves on. -/
def Cpu.goOn (c : Cpu) : Cpu :=
  match c.slot with
  | some sl => c.leaveSlot sl
  | none => c.advance

theorem Cpu.goOn_lk (c : Cpu) : c.goOn.lk = { c.lk with pcc := c.nextPcc } := by
  unfold Cpu.goOn Cpu.nextPcc
  cases c.slot with
  | none => exact (Cpu.lk_eq (c := c.setLk _) rfl rfl).trans (Cpu.lk_setLk _ _)
  | some sl => exact (Cpu.lk_eq (c := c.setLk _) rfl rfl).trans (Cpu.lk_setLk _ _)

theorem Cpu.goOn_locker (c : Cpu) (n : Nat) (h : n ≠ c.cur.val) : c.goOn.locker n = c.locker n := by
  unfold Cpu.goOn
  cases c.slot with
  | none => exact (Cpu.locker_eq (c := c.setLk _) rfl n).trans (Cpu.locker_setLk_other _ _ _ h)
  | some sl => exact (Cpu.locker_eq (c := c.setLk _) rfl n).trans (Cpu.locker_setLk_other _ _ _ h)

theorem Cpu.goOn_slot (c : Cpu) : c.goOn.slot = none := by
  unfold Cpu.goOn
  cases h : c.slot <;> simp [Cpu.leaveSlot, Cpu.advance, h]

theorem Cpu.goOn_over (c : Cpu) : c.goOn.pcOver = c.nextOver := by
  unfold Cpu.goOn Cpu.nextOver
  cases h : c.slot <;> simp [Cpu.leaveSlot, Cpu.advance]

theorem Cpu.goOn_core (c : Cpu) : c.goOn.core = c.core := by
  unfold Cpu.goOn
  cases h : c.slot <;> rfl

theorem Cpu.goOn_rest (c : Cpu) : c.goOn.entering = c.entering ∧ c.goOn.pmctl = c.pmctl ∧ c.goOn.pmcyc = c.pmcyc ∧
    c.goOn.pmret = c.pmret ∧ c.goOn.pmev = c.pmev := by
  unfold Cpu.goOn
  cases h : c.slot <;> exact ⟨rfl, rfl, rfl, rfl, rfl⟩

/-- Putting the tandem's registers back leaves what lies beneath them. -/
theorem Quiet.putBack {t : Tandem} {s s' : State} {n : Nat} {c : Cpu} {f : Front} (h : s' = ({ s with free := n } : State).setCpu t c)
    (hc : (s.cpu t).hw c = { s.cpu t with front := f }) : Quiet s (s'.setCpu t ((s.cpu t).hw (s'.cpu t))) := by
  subst h
  rw [State.setCpu_setCpu, State.cpu_setCpu_same, hc]
  refine ⟨by cases t <;> rfl, fun u => ?_, by simp⟩
  by_cases hu : u = t
  · subst hu
    rw [State.cpu_setCpu_same]
    exact ⟨fun _ => .inl rfl, .inl rfl, rfl, Nat.min_le_right _ _⟩
  · rw [State.cpu_setCpu_other _ _ _ _ hu, State.cpu_freeSet]
    exact .refl _

/-- What lies beneath may change after a word has retired, too. -/
theorem Quiet.after {t : Tandem} {s s' s'' : State} (h : Quiet s (s'.setCpu t ((s.cpu t).hw (s'.cpu t)))) (k : Quiet s' s'') :
    Quiet s (s''.setCpu t ((s.cpu t).hw (s''.cpu t))) := by
  refine h.trans ⟨?_, fun u => ?_, ?_⟩
  · have e : s''.setCpu t ((s.cpu t).hw (s''.cpu t)) = (s'.hw s'').setCpu t ((s.cpu t).hw (s''.cpu t)) := by
      rw [← k.same]
    rw [e]
    cases t <;> rfl
  · by_cases hu : u = t
    · subst hu
      rw [State.cpu_setCpu_same, State.cpu_setCpu_same]
      have j := k.cores u
      exact ⟨j.tlb, j.resv, j.dtlb, j.xmulti⟩
    · rw [State.cpu_setCpu_other _ _ _ _ hu, State.cpu_setCpu_other _ _ _ _ hu]
      exact k.cores u
  · simpa using k.arrived

theorem Quiet.cpu {s s' : State} (h : Quiet s s') (t : Tandem) : s'.cpu t = (s.cpu t).hw (s'.cpu t) := by
  have e : (s.hw s').cpu t = (s.cpu t).hw (s'.cpu t) := State.cpu_hw s s' t
  rw [← h.same] at e
  exact e

theorem Quiet.lk {s s' : State} (h : Quiet s s') (t : Tandem) : (s'.cpu t).lk = (s.cpu t).lk := by
  rw [h.cpu t]; rfl
theorem Quiet.ring {s s' : State} (h : Quiet s s') (t : Tandem) : (s'.cpu t).ring = (s.cpu t).ring := by
  rw [h.cpu t]; rfl
theorem Quiet.pmctl {s s' : State} (h : Quiet s s') (t : Tandem) : (s'.cpu t).pmctl = (s.cpu t).pmctl := by
  rw [h.cpu t]; rfl
theorem Quiet.slot {s s' : State} (h : Quiet s s') (t : Tandem) : (s'.cpu t).slot = (s.cpu t).slot := by
  rw [h.cpu t]; rfl
theorem Quiet.g {s s' : State} (h : Quiet s s') (t : Tandem) (r : Reg) : s'.g t r = s.g t r := by simp [State.g, h.lk]
theorem Quiet.c {s s' : State} (h : Quiet s s') (t : Tandem) (r : CReg) : s'.c t r = s.c t r := by simp [State.c, h.lk]
theorem Quiet.f {s s' : State} (h : Quiet s s') (t : Tandem) (r : FReg) : s'.f t r = s.f t r := by simp [State.f, h.lk]
theorem Quiet.pc {s s' : State} (h : Quiet s s') (t : Tandem) : s'.pc t = s.pc t := by simp [State.pc, h.lk]

theorem RetiredTo.quiet {after : Option Slot} {t : Tandem} {s s' s'' : State} (h : RetiredTo after t s s') (k : Quiet s' s'') :
    RetiredTo after t s s'' where
  rest := h.rest.after k
  pcc := by rw [k.lk, h.pcc]
  past := by rw [k.cpu t]; exact h.past
  slot := by rw [k.slot, h.slot]
  entering := by rw [k.cpu t]; exact h.entering
  lockers n hn := by rw [k.cpu t]; exact h.lockers n hn
  core := by
    have e : (s''.cpu t).core = ((s'.cpu t).hw (s''.cpu t)).core := by rw [← k.cpu t]
    rw [e]
    have j := h.core
    have f : ((s'.cpu t).hw (s''.cpu t)).core = (s'.cpu t).core.hw (s''.cpu t) := rfl
    rw [f, j]
    rfl
  counters hc := by
    rw [k.cpu t]
    exact h.counters hc

theorem Settled.quiet {t : Tandem} {s s' s'' : State} (h : Settled t s s') (k : Quiet s' s'') : Settled t s s'' where
  rest := h.rest.after k
  cpu := by
    have e : { s''.cpu t with pmctl := 0, pmcyc := 0, pmret := 0, pmev := [] } =
        ({ s'.cpu t with pmctl := 0, pmcyc := 0, pmret := 0, pmev := [] } : Cpu).hw (s''.cpu t) := by
      rw [k.cpu t]; rfl
    rw [e, h.cpu]
    rfl
  counters hc := by
    rw [k.cpu t]
    exact h.counters hc

/-- What a word's end does before PCC moves: the counters' turn, and no exception is being entered any more. -/
theorem done_changes (t : Tandem) (old : Cpu) (p : PmWord) (s : State) :
    ∃ n d, (pmTick t old p s).modCpu t Cpu.wordDone = ({ s with free := n } : State).setCpu t d ∧
      ∃ m y q e f, d = { s.cpu t with pmctl := m, pmcyc := y, pmret := q, pmev := e, front := f, entering := none } := by
  obtain ⟨n, c, hp, m, y, q, e, f, rfl⟩ := pmTick_changes t old p s
  exact ⟨n, _, by rw [hp, State.setCpu_modCpu]; rfl, m, y, q, e, { f with cur := none }, rfl⟩

theorem done_off (t : Tandem) (old : Cpu) (p : PmWord) (s : State) (h : t.isG = true ∨ old.pmOn p.ring = false) :
    ∃ f, ((pmTick t old p s).modCpu t Cpu.wordDone).cpu t =
      { s.cpu t with front := f, entering := none } := by
  obtain ⟨f, hf⟩ := pmTick_off t old p s h
  exact ⟨{ f with cur := none }, by rw [State.cpu_modCpu_same, hf]; rfl⟩

/-- Retiring moves PCC, and `after` waits for the slot word. -/
theorem retired_of {t : Tandem} {old : Cpu} {p : PmWord} {s : State} {f : Cpu → Cpu} {after : Option Slot}
    (hf : ∀ c, c.slot = (s.cpu t).slot → f c = { c.goOn with slot := after })
    (hp : old.pmOn p.ring = (s.cpu t).pmOn (s.cpu t).ring) :
    RetiredTo after t s (((pmTick t old p s).modCpu t Cpu.wordDone).modCpu t f) := by
  obtain ⟨n, d, h, m, y, q, e, fr, hd⟩ := done_changes t old p s
  have hlk : d.lk = (s.cpu t).lk := by rw [hd]; exact Cpu.lk_eq rfl rfl
  have hsl : d.slot = (s.cpu t).slot := by rw [hd]
  have hc : (((pmTick t old p s).modCpu t Cpu.wordDone).modCpu t f).cpu t = { d.goOn with slot := after } := by
    rw [State.cpu_modCpu_same, h, State.cpu_setCpu_same, hf d hsl]
  have hst : ((pmTick t old p s).modCpu t Cpu.wordDone).modCpu t f =
      ({ s with free := n } : State).setCpu t { d.goOn with slot := after } := by
    rw [h, State.setCpu_modCpu, hf d hsl]
  have gofr : ∀ c : Cpu, (s.cpu t).hw { c.goOn with slot := after } = (s.cpu t).hw c := fun c => by
    unfold Cpu.goOn
    cases c.slot <;> rfl
  constructor
  · refine Quiet.putBack (f := fr) hst ?_
    rw [gofr, hd]
    rfl
  · rw [hc]
    refine (Cpu.lk_eq (c := d.goOn) rfl rfl).trans ?_
    rw [Cpu.goOn_lk, hlk]
    simp [Cpu.nextPcc, hlk, hsl]
  · rw [hc]
    show d.goOn.pcOver = _
    rw [Cpu.goOn_over]
    simp [Cpu.nextOver, hlk, hsl]
  · rw [hc]
  · rw [hc]
    show d.goOn.entering = _
    rw [(Cpu.goOn_rest _).1, hd]
  · intro k hk
    rw [hc]
    refine (Cpu.locker_eq (c := d.goOn) rfl k).trans ?_
    rw [Cpu.goOn_locker _ _ (by rw [hd]; exact hk), hd]
    exact Cpu.locker_eq rfl k
  · have hk : (s.cpu t).hw ((((pmTick t old p s).modCpu t Cpu.wordDone).modCpu t f).cpu t) =
        (s.cpu t).hw d := by rw [hc, gofr]
    rw [hk, hc]
    show d.goOn.core = _
    rw [Cpu.goOn_core, hd]
    rfl
  · intro hoff
    obtain ⟨g, hg⟩ := done_off t old p s (by rw [hp]; exact hoff)
    rw [State.cpu_modCpu_same, hg]
    have e := hf { s.cpu t with front := g, entering := none } rfl
    rw [e]
    exact (Cpu.goOn_rest _).2

/-- Retiring a word that goes on moves PCC and nothing else but the performance counters. -/
theorem retire_next (t : Tandem) (old : Cpu) (p : PmWord) (s : State) (hp : old.pmOn p.ring = (s.cpu t).pmOn (s.cpu t).ring) :
    Retired t s (retire t old p .next s) := by
  refine retired_of (f := fun c => match c.slot with | some sl => c.leaveSlot sl | none => c.advance) (fun c _ => ?_) hp
  unfold Cpu.goOn
  cases h : c.slot <;> simp [Cpu.leaveSlot, Cpu.advance, h]

/-- Where a control transfer goes on. -/
def goesOn (pc : Nat) (tgt : Int) (taken : Bool) : Int := if taken then tgt else (pc : Int) + 8

/-- Retiring a control transfer moves PCC to the slot word and leaves the resolved address for after it. -/
theorem retire_cti (t : Tandem) (old : Cpu) (p : PmWord) (k : CtiKind) (tgt : Int) (taken : Bool) (pcc : Option Cap) (s : State)
    (hp : old.pmOn p.ring = (s.cpu t).pmOn (s.cpu t).ring) (hs : (s.cpu t).slot = none) :
    let x := goesOn old.lk.pcc.cursor tgt taken
    RetiredTo (some ⟨BitVec.ofInt 44 x, decide (x < 0 ∨ 2 ^ 44 ≤ x), pcc⟩) t s (retire t old p (.cti k tgt taken pcc) s) := by
  intro x
  have q : Quiet s (s.learn t fun f => f.resolve old.btbOff k old.lk.pcc.cursor (wrap 44 tgt) taken) := .learn s t _
  generalize hr : s.learn t (fun f => f.resolve old.btbOff k old.lk.pcc.cursor (wrap 44 tgt) taken) = r at q
  have hsl : (r.cpu t).slot = none := by rw [q.slot, hs]
  have main : RetiredTo (some ⟨BitVec.ofInt 44 x, decide (x < 0 ∨ 2 ^ 44 ≤ x), pcc⟩) t r
      (retire t old p (.cti k tgt taken pcc) s) := by
    have e : retire t old p (.cti k tgt taken pcc) s = ((pmTick t old p r).modCpu t Cpu.wordDone).modCpu t
        fun c => { c.advance with slot := some ⟨BitVec.ofInt 44 x, decide (x < 0 ∨ 2 ^ 44 ≤ x), pcc⟩ } := by
      rw [← hr]; rfl
    rw [e]
    refine retired_of (fun c hc => ?_) ?_
    · have : c.slot = none := by rw [hc, hsl]
      unfold Cpu.goOn
      rw [this]
    · rw [hp, Cpu.pmOn, Cpu.pmOn, q.pmctl, q.ring]
  have hcpu := q.cpu t
  exact
    { rest := q.trans (by
        have j := main.rest
        have e : (r.cpu t).hw ((retire t old p (.cti k tgt taken pcc) s).cpu t) =
            (s.cpu t).hw ((retire t old p (.cti k tgt taken pcc) s).cpu t) := by rw [hcpu]; rfl
        rw [e] at j
        exact j)
      pcc := by rw [main.pcc, q.lk, hcpu]; rfl
      past := by rw [main.past, hcpu]; rfl
      slot := main.slot
      entering := main.entering
      lockers := fun n hn => by
        have j := main.lockers n (by rw [hcpu]; exact hn)
        rw [j, hcpu]; rfl
      core := by rw [main.core, hcpu]; rfl
      counters := fun h => by
        have j := main.counters (by rw [hcpu]; exact h)
        rw [hcpu] at j
        exact j }

theorem Cpu.pmOn_off (c : Cpu) (ring : Nat) (h : c.pmctl.getLsbD 4 = false) : c.pmOn ring = false := by
  unfold Cpu.pmOn
  have : bitOf c.pmctl.toNat 4 = c.pmctl.getLsbD 4 := by
    simp [bitOf, BitVec.getLsbD, Nat.testBit, Nat.shiftRight_eq_div_pow, Nat.and_comm 1, Nat.and_one_is_mod]
  rw [this, h]
  rfl

/-- Retiring a word that set PCC itself changes nothing but the performance counters. -/
theorem retire_moved (t : Tandem) (old : Cpu) (p : PmWord) (s : State) (hp : old.pmctl = (s.cpu t).pmctl) :
    Settled t s (retire t old p .moved s) := by
  obtain ⟨n, d, h, m, y, q, e, fr, hd⟩ := done_changes t old p s
  have hq : retire t old p .moved s = ({ s with free := n } : State).setCpu t d := h
  have hc : (retire t old p .moved s).cpu t = d := by rw [hq, State.cpu_setCpu_same]
  constructor
  · exact Quiet.putBack (f := fr) hq (by rw [hd]; rfl)
  · rw [hc, hd]
    rfl
  · intro ho
    obtain ⟨g, hg⟩ := done_off t old p s (ho.imp id fun h => Cpu.pmOn_off _ _ (by rw [hp]; exact h))
    have : (retire t old p .moved s).cpu t = { s.cpu t with front := g, entering := none } := hg
    rw [this]
    exact ⟨rfl, rfl, rfl, rfl⟩

/-! Running a word. -/

theorem Issues.run {t : Tandem} {k : Kind} {s s1 : State} (h : Issues t k s s1) (body : Cm Ret) :
    (do issue t k; body : Cm Ret).run s = body.run s1 := by
  rw [Cm.run_bind, h.2]

/-- A word that issues runs its body from the state after the checks, and retires. -/
theorem runWordPm_ok {t : Tandem} {k : Kind} {s s1 s2 : State} (h : Issues t k s s1) (pair : Bool) (wrote : Option Nat)
    {body : Cm Ret} {r : Ret} (hb : body.run s1 = .ok r s2) :
    runWordPm t k pair wrote body s =
      fetchAhead t (retire t (s.cpu t) { ring := (s.cpu t).ring, retired := true, pair := pair, wrote := wrote } r s2) := by
  unfold runWordPm
  rw [if_pos h.1, h.run, hb]

/-- A word that issues and faults takes its fault. -/
theorem runWordPm_fault {t : Tandem} {k : Kind} {s s1 s2 : State} (h : Issues t k s s1) (pair : Bool) (wrote : Option Nat)
    {body : Cm Ret} {e : Exc} (hb : body.run s1 = .error e s2) (hw : e ≠ Exc.waits) :
    runWordPm t k pair wrote body s = fetchAhead t (takeFault t e s2) := by
  unfold runWordPm
  rw [if_pos h.1, h.run, hb]
  simp [hw]

theorem Issues.ring {t : Tandem} {k : Kind} {s s1 : State} (h : Issues t k s s1) : (s1.cpu t).ring = (s.cpu t).ring := h.quiet.ring t
theorem Issues.lk {t : Tandem} {k : Kind} {s s1 : State} (h : Issues t k s s1) : (s1.cpu t).lk = (s.cpu t).lk := h.quiet.lk t
theorem Issues.pmctl {t : Tandem} {k : Kind} {s s1 : State} (h : Issues t k s s1) : (s1.cpu t).pmctl = (s.cpu t).pmctl := h.quiet.pmctl t
theorem Issues.g {t : Tandem} {k : Kind} {s s1 : State} (h : Issues t k s s1) (r : Reg) : s1.g t r = s.g t r := h.quiet.g t r
theorem Issues.c {t : Tandem} {k : Kind} {s s1 : State} (h : Issues t k s s1) (r : CReg) : s1.c t r = s.c t r := h.quiet.c t r
theorem Issues.f {t : Tandem} {k : Kind} {s s1 : State} (h : Issues t k s s1) (r : FReg) : s1.f t r = s.f t r := h.quiet.f t r
theorem Issues.pc {t : Tandem} {k : Kind} {s s1 : State} (h : Issues t k s s1) : s1.pc t = s.pc t := h.quiet.pc t

@[simp] theorem ring_modLk (s : State) (t : Tandem) (f : Locker → Locker) (h : (f (s.cpu t).lk).pcc = (s.cpu t).lk.pcc) :
    ((s.modLk t f).cpu t).ring = (s.cpu t).ring := by
  simp [State.modLk, Cpu.ring, h]

/-- The same counting before and after a word's effect. -/
theorem Issues.pmOn {t : Tandem} {k : Kind} {s s1 s2 : State} (h : Issues t k s s1) (hr : (s2.cpu t).ring = (s1.cpu t).ring)
    (hm : (s2.cpu t).pmctl = (s1.cpu t).pmctl) : (s.cpu t).pmOn (s.cpu t).ring = (s2.cpu t).pmOn (s2.cpu t).ring := by
  rw [hr, h.ring, Cpu.pmOn, Cpu.pmOn, hm, h.pmctl]

theorem runWord_retired {t : Tandem} {k : Kind} {pair : Bool} {s s1 s2 : State} (h : Issues t k s s1) {body : Cm Ret}
    (hb : body.run s1 = .ok .next s2) (hr : (s2.cpu t).ring = (s1.cpu t).ring) (hm : (s2.cpu t).pmctl = (s1.cpu t).pmctl) :
    ∃ s', Host.Outcome.next (φ := Fault) (ρ := Refusal) (runWord t k pair body s) = .next s' ∧ Retired t s2 s' := by
  refine ⟨_, rfl, ?_⟩
  unfold runWord
  rw [runWordPm_ok h pair none hb]
  exact (retire_next t _ _ s2 (h.pmOn hr hm)).quiet (fetchAhead_quiet t _)

/-- A plain word whose body leaves `s2` with the ring unchanged completes with the retirement of `s2`. -/
theorem plainWord_retired {t : Tandem} {s s1 s2 : State} (h : Issues t .plain s s1) {body : Cm Unit}
    (hb : body.run s1 = .ok () s2) (hr : (s2.cpu t).ring = (s1.cpu t).ring) (hm : (s2.cpu t).pmctl = (s1.cpu t).pmctl) :
    ∃ s', Host.Outcome.next (φ := Fault) (ρ := Refusal) (plainWord t body s) = .next s' ∧ Retired t s2 s' := by
  unfold plainWord
  exact runWord_retired h (by rw [Cm.run_bind, hb]; rfl) hr hm

theorem Issues.slot {t : Tandem} {j : Option Int} {s s1 : State} (h : Issues t (.cti j) s s1) : (s1.cpu t).slot = none := by
  obtain ⟨-, h⟩ := h
  unfold issue at h
  rw [Cm.run_bind] at h
  cases hf : (fetchCheck t).run s with
  | error e s2 => rw [hf] at h; simp at h
  | ok a s2 =>
    rw [hf] at h
    obtain ⟨s3, e3⟩ : ∃ s3, (decodeStage t (.cti j)).run s2 = .ok () s3 := ⟨_, rfl⟩
    simp only at h
    rw [Cm.run_bind, e3] at h
    simp only [Cm.run_bind] at h
    cases hc : (s3.cpu t).slot with
    | none =>
      have e : (slotCheck t (.cti j)).run s3 = .ok () s3 := by
        unfold slotCheck
        rw [Cm.run_bind, Cm.run_get]
        simp only [hc]
        rfl
      rw [e] at h
      rw [((regCheck_quiet t).ok h).slot t, hc]
    | some sl =>
      have e : (slotCheck t (.cti j)).run s3 = .error ⟨2, 0x21, 3, 0, false, 0⟩ s3 := by
        unfold slotCheck
        rw [Cm.run_bind, Cm.run_get]
        simp only [hc]
        rfl
      rw [e] at h
      simp at h

theorem runWord_settled {t : Tandem} {k : Kind} {pair : Bool} {s s1 s2 : State} (h : Issues t k s s1) {body : Cm Ret}
    (hb : body.run s1 = .ok .moved s2) (hm : (s2.cpu t).pmctl = (s1.cpu t).pmctl) :
    ∃ s', Host.Outcome.next (φ := Fault) (ρ := Refusal) (runWord t k pair body s) = .next s' ∧ Settled t s2 s' := by
  refine ⟨_, rfl, ?_⟩
  unfold runWord
  rw [runWordPm_ok h pair none hb]
  exact (retire_moved t _ _ s2 (by rw [hm, h.pmctl])).quiet (fetchAhead_quiet t _)

/-- A control transfer whose body leaves `s2` retires with its target in the slot. -/
theorem runWord_transfers {t : Tandem} {pair : Bool} {j : Option Int} {s s1 s2 : State} (h : Issues t (.cti j) s s1) {body : Cm Ret}
    {k : CtiKind} {tgt : Int} {taken : Bool} {pcc : Option Cap} (hb : body.run s1 = .ok (.cti k tgt taken pcc) s2)
    (hr : (s2.cpu t).ring = (s1.cpu t).ring) (hs : (s2.cpu t).slot = (s1.cpu t).slot) (hm : (s2.cpu t).pmctl = (s1.cpu t).pmctl) :
    let x := goesOn (s.pc t) tgt taken
    ∃ s', Host.Outcome.next (φ := Fault) (ρ := Refusal) (runWord t (.cti j) pair body s) = .next s' ∧
      RetiredTo (some ⟨BitVec.ofInt 44 x, decide (x < 0 ∨ 2 ^ 44 ≤ x), pcc⟩) t s2 s' := by
  intro x
  refine ⟨_, rfl, ?_⟩
  unfold runWord
  rw [runWordPm_ok h pair none hb]
  exact (retire_cti t _ _ k tgt taken pcc s2 (h.pmOn hr hm) (by rw [hs, h.slot])).quiet (fetchAhead_quiet t _)

@[simp] theorem ring_wrG (s : State) (t : Tandem) (r : Reg) (v : TWord) : ((s.wrG t r v).cpu t).ring = (s.cpu t).ring :=
  ring_modLk s t _ (by simp)
@[simp] theorem ring_wrC (s : State) (t : Tandem) (r : CReg) (v : Cap) : ((s.wrC t r v).cpu t).ring = (s.cpu t).ring :=
  ring_modLk s t _ (by simp)
@[simp] theorem ring_wrF (s : State) (t : Tandem) (r : FReg) (v : TWord) : ((s.wrF t r v).cpu t).ring = (s.cpu t).ring :=
  ring_modLk s t _ (by simp)

/-- A change of the current locker other than of its PCC keeps the address of the word. -/
theorem pc_modLk (s : State) (t : Tandem) (f : Locker → Locker) (h : (f (s.cpu t).lk).pcc = (s.cpu t).lk.pcc) :
    (s.modLk t f).pc t = s.pc t := by
  simp [State.modLk, State.pc, h]
@[simp] theorem pc_wrG (s : State) (t : Tandem) (r : Reg) (v : TWord) : (s.wrG t r v).pc t = s.pc t := pc_modLk s t _ (by simp)
@[simp] theorem pc_wrC (s : State) (t : Tandem) (r : CReg) (v : Cap) : (s.wrC t r v).pc t = s.pc t := pc_modLk s t _ (by simp)
@[simp] theorem pc_wrF (s : State) (t : Tandem) (r : FReg) (v : TWord) : (s.wrF t r v).pc t = s.pc t := pc_modLk s t _ (by simp)

@[simp] theorem slot_modLk (s : State) (t : Tandem) (f : Locker → Locker) : ((s.modLk t f).cpu t).slot = (s.cpu t).slot := by
  simp [State.modLk]
@[simp] theorem slot_wrG (s : State) (t : Tandem) (r : Reg) (v : TWord) : ((s.wrG t r v).cpu t).slot = (s.cpu t).slot := slot_modLk s t _
@[simp] theorem slot_wrC (s : State) (t : Tandem) (r : CReg) (v : Cap) : ((s.wrC t r v).cpu t).slot = (s.cpu t).slot := slot_modLk s t _
@[simp] theorem slot_wrF (s : State) (t : Tandem) (r : FReg) (v : TWord) : ((s.wrF t r v).cpu t).slot = (s.cpu t).slot := slot_modLk s t _

@[simp] theorem pmctl_modLk (s : State) (t : Tandem) (f : Locker → Locker) : ((s.modLk t f).cpu t).pmctl = (s.cpu t).pmctl := by
  simp [State.modLk]
@[simp] theorem pmctl_wrG (s : State) (t : Tandem) (r : Reg) (v : TWord) : ((s.wrG t r v).cpu t).pmctl = (s.cpu t).pmctl := pmctl_modLk s t _
@[simp] theorem pmctl_wrC (s : State) (t : Tandem) (r : CReg) (v : Cap) : ((s.wrC t r v).cpu t).pmctl = (s.cpu t).pmctl := pmctl_modLk s t _
@[simp] theorem pmctl_wrF (s : State) (t : Tandem) (r : FReg) (v : TWord) : ((s.wrF t r v).cpu t).pmctl = (s.cpu t).pmctl := pmctl_modLk s t _

theorem run_pcNow (t : Tandem) (s : State) : (pcNow t).run s = .ok (s.pc t) s := rfl

end Sys2Proof.Machine
end

