-- ==== Sys2Proof/Machine/Pins.lean ====
section
/-! DEFINITION. What the balls show (R73, R105, Tables 3-11, 13-7 and 21-5, R702 to R707, R936, R953). Between commands a
line that carries no frame, no character and no command rests at the level that these tables give it. -/

namespace Sys2Proof.Machine

/-- The signal balls that the tables give a state. -/
inductive Pin where
  | safeOk (out : Side)
  | estopT (ch : Side)
  /-- The pull-up at D+. -/
  | usbPull
  /-- Port power enables 2 to 4. -/
  | portPower (n : Fin 3)
  | canTx (c : Side)
  /-- UART transmit of sessions 0 to 3. -/
  | uartTx (n : Fin 4)
  | pio (n : Fin 512)
  /-- A chip select: low while it is asserted. -/
  | xspSelect (p : Side)
  /-- DQ0 to DQ7, DQS and SCK of a flash port. -/
  | xspLine (p : Side) (n : Fin 10)
  /-- The 182 signal balls of a DRAM channel. -/
  | dram (c : Side) (n : Fin 182)
  /-- D+ and D− of the upstream link, 0, and of ports 2 to 4. -/
  | usbLine (n : Fin 4) (minus : Bool)
  | jtagTdo
  deriving DecidableEq, Repr

/-- The rail that powers a ball, by its place in Table 2-5 (Table 21-5); a PIO ball's is its bank's. -/
def Pin.rail : Pin → Option (Fin 7)
  | .usbPull | .usbLine _ _ => some 6
  | .xspSelect _ | .xspLine _ _ | .jtagTdo => some 4
  | .dram _ _ => some 3
  | .pio _ => none
  | _ => some 5

/-- A driven ball. -/
def drives (b : Bool) : PinLevel := if b then .high else .low

/-- A PWM generator's output where it is static: DUTY = 0 is low and DUTY ≥ PERIOD high (R711); one with EN = 0 is low. -/
def pwmLevel (v : W64) : Option PinLevel :=
  if wf v 63 1 = 0 ∨ wf v 16 16 = 0 then some .low else if wf v 0 16 ≤ wf v 16 16 then some .high else none

/-- A pin of panel I/O: an input and a disabled bank's pin are high-impedance, and every pin is so before release and in RUN-OUT
(Tables 3-11 and 13-7, R707). The levels of toggling PWM outputs, rows and columns pass with time. -/
def State.pioPin (s : State) (n : Fin 512) : Option PinLevel :=
  let p := s.pio
  if !p.drive || !p.on (n.val / 32) then some .hiZ
  else match p.func n.val with
    | 2 => some (drives (bankBit p.out n.val))
    | 3 => some (if bankBit p.out n.val then .hiZ else .low)
    | 4 => pwmLevel (tget 0 p.pwmEff (fld (p.cfgOf n.val).toNat 16 6))
    | 5 | 6 => none
    | _ => some .hiZ

/-- A USB line: high-impedance before release, in RUN-OUT and in unit reset (Tables 3-11 and 13-7, R186); K, with D− high, in
the Umaon's own chirp and remote wakeup (R741, R763); a test's J, K or SE0 (R736). [log 96 PRESUMED] -/
def State.usbLine (s : State) (n : Fin 4) (minus : Bool) : Option PinLevel :=
  let k := s.usb.kOut || s.usb.chirp == .ours
  let test (sel : Fin 6) : Option PinLevel :=
    match sel.val with
    | 1 => some (drives !minus) | 2 => some (drives minus) | 3 => some .low | _ => none
  if !s.gate.released || s.wrd.mode == .runOut || s.devBusy blkUSB then some .hiZ
  else if n = 0 then
    if s.usb.testmode ≠ 0 then test s.usb.testmode
    else if k then some (drives minus) else if s.usb.pullup then none else some .hiZ
  else match (s.usb.port (n.val + 1)).st with
    | .testing sel _ _ => test sel
    | _ => none

/-- The level of a ball: `none` while it carries a frame or a character, a PWM or a scan, or where no rule states it. -/
def State.pinLevel (s : State) (x : Pin) : Option PinLevel :=
  if x.rail.any fun r => !s.wrd.rails.getLsbD r.val then some .hiZ
  else match x with
    | .safeOk o => some (s.wrd.safePin o)
    | .estopT c => if s.wrd.pulses then some (drives !(match c with | .a => s.wrd.taLow | .b => s.wrd.tbLow)) else none
    | .usbPull => some (if s.usb.pullup then .high else .hiZ)
    | .portPower n => some (drives (s.usb.port (n.val + 2)).st.powered)
    | .canTx c => if (List.range 32).any fun m => ((s.can c).getMb m).st == .tx then none else some .high
    | .uartTx n => if s.gate.step.val < 3 || !(s.ses ⟨n.val, by omega⟩).out.isEmpty then none else some .high
    | .pio n => s.pioPin n
    | .xspSelect p => some (drives !(s.xsp.busy && cmdPort s.xsp.run.toNat == p))
    | .usbLine n minus => s.usbLine n minus
    | .xspLine _ _ | .dram _ _ | .jtagTdo => none

end Sys2Proof.Machine
end

