-- ==== Sys2Proof/WellFormed.lean ====
section
/-! DEFINITION. Which commands are well formed: what the types of the operands leave open. The machine gives every command its
meaning whether or not it is well formed. -/

namespace Sys2Proof

/-- The data length of a DLC (ISO 11898-1, R782). -/
def dlcBytes (fdf : Bool) (dlc : Nat) : Nat :=
  if dlc ≤ 8 then dlc
  else if !fdf then 8
  else ([12, 16, 20, 24, 32, 48, 64][dlc - 9]?).getD 64

/-- A frame of the bus: an identifier of its format, as many data bytes as the DLC gives (none in a remote frame), and the FD
bits only in an FD frame. -/
def CanFrame.wf (f : CanFrame) : Bool :=
  (f.ide || decide (f.id.toNat < 2 ^ 11)) && (f.fdf || (!f.brs && !f.esi)) && !(f.fdf && f.rtr) &&
    f.data.length == (if f.rtr then 0 else dlcBytes f.fdf f.dlc.toNat)

/-- A scrub finds 1 to 3 wrong bits in a word (Table 14-2). -/
def ScrubHit.wf (h : ScrubHit) : Bool :=
  h.bits != 0 && (match h.place with
    | .addr a => a.toNat % 8 == 0
    | .metadata _ _ => true)

/-- A translator result carries at most 64 bytes of data. -/
def TtResult.wf : TtResult → Bool
  | .data d => decide (d.length ≤ 64)
  | _ => true

/-- Words of the Spenik store are numbered 0 to 2^23 − 1; an epoch holds at most 1,093 blocks of entries (R605, R613). -/
def LedgerBad.wf : LedgerBad → Bool
  | .verify w _ => decide (w < 2 ^ 23)
  | .entry w => decide (w < 2 ^ 23)
  | .unplaced _ _ n => decide (n < 1093)
  | .mark _ => true

/-- A word of a console line: printable characters, none a space (R858). -/
def wordOk (t : Text) : Bool := !t.isEmpty && t.all fun c => decide (0x21 ≤ c.toNat ∧ c.toNat ≤ 0x7E)

/-- A command is well formed. -/
def Instr.wellFormed (i : Instr) : Bool :=
  match i with
  | .powerGood => true
  | .powerReset => true
  | .fuseLoadEnd _ _ => true
  | .slotHeaderCheck _ _ => true
  | .imageVerify _ => true
  | .applyRecords _ _ _ _ => true
  | .loadRecords _ => true
  | .ledgerRecoveryEnd bad _ => bad.all LedgerBad.wf
  | .release => true
  | .nfcmakerMirror => true
  | .preReleaseCharacter _ _ => true
  | .lockstepMismatch _ => true
  | .canTxCompareMismatch _ _ => true
  | .frequencyMonitorWindow _ _ => true
  | .clockEdgeLoss _ => true
  | .rcReferenceStopped => true
  | .supplyOutOfLimits _ => true
  | .overTemperature _ => true
  | .laneDisagreement => true
  | .wardenDecision => true
  | .watchdogService _ _ _ => true
  | .watchdogExpiry _ => true
  | .watchdogConfigWrite _ _ _ => true
  | .watchdogLock _ _ _ => true
  | .safeOutputHalfPeriod => true
  | .safeOutputReadbackMismatch _ => true
  | .testPulseStart _ => true
  | .testPulseEnd _ => true
  | .estopChannelChange _ _ => true
  | .estopPulseError _ => true
  | .estopDiscrepancy => true
  | .rearm _ => true
  | .swstop _ => true
  | .patrolTest _ _ => true
  | .patrolSweepEnd => true
  | .patrolOverrun => true
  | .patrolPauseWrite _ _ => true
  | .patrolInjectWrite _ _ => true
  | .holdCommand _ _ => true
  | .warmResetCommand _ _ => true
  | .warmReset => true
  | .drainEnd => true
  | .drainTimeout => true
  | .clkGateSetWrite _ _ => true
  | .clkGateClrWrite _ _ => true
  | .gatingTakesEffect => true
  | .unitReset _ _ => true
  | .unitResetEnd _ => true
  | .pllLockLoss => true
  | .pllRelock => true
  | .crystalStop => true
  | .vinSenseTrip => true
  | .holdokFall => true
  | .runOutRecord _ => true
  | .runOutPowerGood => true
  | .ill _ => true
  | .pairWord _ _ _ => true
  | .emulationTrap _ _ => true
  | .add _ _ _ _ => true
  | .sub _ _ _ _ => true
  | .and_ _ _ _ _ => true
  | .or_ _ _ _ _ => true
  | .xor_ _ _ _ _ => true
  | .andn _ _ _ _ => true
  | .orn _ _ _ _ => true
  | .xnor _ _ _ _ => true
  | .sll _ _ _ _ => true
  | .srl _ _ _ _ => true
  | .sra _ _ _ _ => true
  | .ror _ _ _ _ => true
  | .slt _ _ _ _ => true
  | .sltu _ _ _ _ => true
  | .min _ _ _ _ => true
  | .max _ _ _ _ => true
  | .minu _ _ _ _ => true
  | .maxu _ _ _ _ => true
  | .mul _ _ _ _ => true
  | .mulhs _ _ _ _ => true
  | .mulhu _ _ _ _ => true
  | .mulhsu _ _ _ _ => true
  | .clz _ _ _ => true
  | .ctz _ _ _ => true
  | .popc _ _ _ => true
  | .sextb _ _ _ => true
  | .sexth _ _ _ => true
  | .sextw _ _ _ => true
  | .zextw _ _ _ => true
  | .stag _ _ _ _ => true
  | .gtag _ _ _ => true
  | .mov _ _ _ => true
  | .movfg _ _ _ => true
  | .movgf _ _ _ => true
  | .addi _ _ _ _ => true
  | .andi _ _ _ _ => true
  | .ori _ _ _ _ => true
  | .xori _ _ _ _ => true
  | .slli _ _ _ _ => true
  | .srli _ _ _ _ => true
  | .srai _ _ _ _ => true
  | .rori _ _ _ _ => true
  | .slti _ _ _ _ => true
  | .sltiu _ _ _ _ => true
  | .movi _ _ _ => true
  | .insh _ _ _ _ => true
  | .lbu _ _ _ _ => true
  | .lhu _ _ _ _ => true
  | .lwu _ _ _ _ => true
  | .ld _ _ _ _ => true
  | .lb _ _ _ _ => true
  | .lh _ _ _ _ => true
  | .lw _ _ _ _ => true
  | .sb _ _ _ _ => true
  | .sh _ _ _ _ => true
  | .sw _ _ _ _ => true
  | .sd _ _ _ _ => true
  | .fld _ _ _ _ => true
  | .fst _ _ _ _ => true
  | .clc _ _ _ _ => true
  | .csc _ _ _ _ => true
  | .spois _ _ _ => true
  | .clrp _ _ _ => true
  | .beq _ _ _ _ => true
  | .bne _ _ _ _ => true
  | .blt _ _ _ _ => true
  | .bge _ _ _ _ => true
  | .bltu _ _ _ _ => true
  | .bgeu _ _ _ _ => true
  | .bset _ _ _ _ => true
  | .bclr _ _ _ _ => true
  | .beqi _ _ _ _ => true
  | .bnei _ _ _ _ => true
  | .blti _ _ _ _ => true
  | .bgei _ _ _ _ => true
  | .bltui _ _ _ _ => true
  | .bgeui _ _ _ _ => true
  | .bseti _ _ _ _ => true
  | .bclri _ _ _ _ => true
  | .j _ _ => true
  | .jal _ _ => true
  | .jalr _ _ _ => true
  | .jalc _ _ _ => true
  | .wcall _ _ => true
  | .wret _ _ => true
  | .eret _ _ => true
  | .eretS _ _ => true
  | .sysrd _ _ _ => true
  | .syswr _ _ _ => true
  | .vtabWrite _ _ _ bad => bad.all fun i => decide (i < 288)
  | .vrldWrite _ _ _ => true
  | .iectlWrite _ _ => true
  | .estatWrite _ _ => true
  | .xctlWrite _ _ => true
  | .cmov _ _ _ => true
  | .cinc _ _ _ _ => true
  | .csetcur _ _ _ _ => true
  | .knarrow _ _ _ _ => true
  | .knarrowX _ _ _ _ => true
  | .candperm _ _ _ _ => true
  | .csetring _ _ _ _ => true
  | .ktether _ _ _ => true
  | .cseal _ _ _ _ => true
  | .cunseal _ _ _ _ => true
  | .cdur _ _ _ => true
  | .cgetbase _ _ _ => true
  | .cgetlen _ _ _ => true
  | .cgettop _ _ _ => true
  | .cgetperm _ _ _ => true
  | .cgettype _ _ _ => true
  | .cgetcur _ _ _ => true
  | .cgetstate _ _ _ => true
  | .csubset _ _ _ _ => true
  | .kfitlen _ _ _ => true
  | .kfitmask _ _ _ => true
  | .cinci _ _ _ _ => true
  | .knarrowi _ _ _ _ => true
  | .sweepCopy _ _ _ _ _ _ => true
  | .sweepFill _ _ _ _ _ _ => true
  | .sweepPoison _ _ _ _ => true
  | .sweepCmp _ _ _ _ _ _ _ => true
  | .sweepFind _ _ _ _ _ _ => true
  | .sweepFindne _ _ _ _ _ _ => true
  | .sweepCrc _ _ _ _ _ _ _ => true
  | .crcb _ _ _ _ => true
  | .crcw _ _ _ _ => true
  | .par _ _ _ => true
  | .brev _ _ _ => true
  | .brevb _ _ _ => true
  | .bswap _ _ _ => true
  | .lr _ _ _ _ => true
  | .sc _ _ _ _ _ => true
  | .tas _ _ _ _ => true
  | .l2ReservationHoldEnd _ => true
  | .div _ _ _ _ => true
  | .divu _ _ _ _ => true
  | .rem _ _ _ _ => true
  | .remu _ _ _ _ => true
  | .fadd _ _ _ _ _ _ => true
  | .fsub _ _ _ _ _ _ => true
  | .fmul _ _ _ _ _ _ => true
  | .fdiv _ _ _ _ _ _ => true
  | .fsqrt _ _ _ _ _ => true
  | .fmadd _ _ _ _ _ _ _ => true
  | .fmsub _ _ _ _ _ _ _ => true
  | .fnmadd _ _ _ _ _ _ _ => true
  | .fmin _ _ _ _ _ => true
  | .fmax _ _ _ _ _ => true
  | .fabs _ _ _ _ => true
  | .fneg _ _ _ _ => true
  | .fcvtp _ _ _ _ _ => true
  | .fcvtfi _ _ _ _ _ => true
  | .fcvtif _ _ _ _ _ => true
  | .feq _ _ _ _ _ => true
  | .flt _ _ _ _ _ => true
  | .fle _ _ _ _ _ => true
  | .fclass _ _ _ _ => true
  | .qadd _ _ _ _ => true
  | .qsub _ _ _ _ => true
  | .qmul _ _ _ _ _ => true
  | .qshl _ _ _ _ => true
  | .qabs _ _ _ => true
  | .qneg _ _ _ => true
  | .mld _ _ _ _ _ => true
  | .mst _ _ _ _ _ => true
  | .mstep _ _ _ _ => true
  | .fence _ => true
  | .pfence _ => true
  | .iflush _ => true
  | .tbar _ => true
  | .xset _ _ _ => true
  | .xsetn _ _ => true
  | .xread _ _ => true
  | .xlook _ _ => true
  | .xkill _ _ => true
  | .xkilla _ _ => true
  | .xkillall _ => true
  | .yield _ => true
  | .wait _ => true
  | .wake _ _ => true
  | .ctxinit _ _ _ _ => true
  | .ctxkill _ _ => true
  | .frsv _ => true
  | .frld _ => true
  | .exceptionEntry _ _ => true
  | .interruptEntry _ _ => true
  | .glideExpiry _ => true
  | .schedulerEnable _ _ _ => true
  | .sourceWake _ _ => true
  | .sliceExpiry _ => true
  | .schedulerSwitch _ _ => true
  | .storeBufferDrain _ => true
  | .loadOverlapResume _ => true
  | .xspCommand _ _ => true
  | .xspCommandEnd rx _ => decide (rx.length ≤ 256)
  | .xspStrobeTimeout _ => true
  | .dramRefresh => true
  | .dramBackgroundClearBlock => true
  | .sealStart _ _ => true
  | .sealEnd => true
  | .epochCommit _ => true
  | .applyEntry _ _ => true
  | .wardenRecordWrite _ => true
  | .groomerMetadataSave => true
  | .frameMoveStart _ _ => true
  | .frameMoveEnd _ => true
  | .scrubPassStart _ => true
  | .scrubPassLate _ => true
  | .lifeEvaluation ro em => ro.length == 40 && em.length == 12
  | .grmEvalWrite _ _ => true
  | .grmDateWrite _ _ => true
  | .grmDateAdvance => true
  | .grmFlashWrite _ _ _ => true
  | .tagStoreMirror _ => true
  | .countEvent _ => true
  | .quadratureStep _ _ _ => true
  | .captureEdge _ _ => true
  | .pulseCaptureEdge _ _ => true
  | .chnCtlWrite _ _ _ => true
  | .chnLoad _ _ _ => true
  | .chnReload _ _ _ => true
  | .chnCmp _ _ _ => true
  | .chnCntRead _ _ => true
  | .ctaGstart _ _ => true
  | .ctaGstop _ _ => true
  | .ctaSnap _ _ => true
  | .debounceChange _ => true
  | .pioOutWrite _ _ _ => true
  | .pioSet _ _ _ => true
  | .pioClr _ _ _ => true
  | .pioBcfgWrite _ _ => true
  | .bankSupplyMismatch _ _ => true
  | .pioScfgWrite _ _ => true
  | .keyScan sensed => decide (sensed.length ≤ 32)
  | .wetFilmTest sensed => decide (sensed.length ≤ 32)
  | .pioSfifoRead _ => true
  | .pwmPeriodEnd _ => true
  | .pwmWrite _ _ _ => true
  | .vbusChange _ => true
  | .busReset => true
  | .highSpeedIdle _ => true
  | .chirpKEnd => true
  | .hostChirp => true
  | .chirpTimeout => true
  | .suspend => true
  | .resume => true
  | .usbRemoteWakeup _ _ => true
  | .remoteWakeupKEnd => true
  | .usbAttenWrite _ _ => true
  | .sofReceived _ _ => true
  | .sofTimer => true
  | .setupPacket _ _ _ => true
  | .getStatus _ _ => true
  | .clearFeature _ _ => true
  | .setFeature _ _ => true
  | .setAddress _ _ => true
  | .getDescriptor _ _ => true
  | .setDescriptor _ _ => true
  | .getConfiguration _ _ => true
  | .setConfiguration _ _ => true
  | .getInterface _ _ => true
  | .setInterface _ _ => true
  | .synchFrame _ _ => true
  | .getReport _ _ => true
  | .setReport _ _ => true
  | .getIdle _ _ => true
  | .setIdle _ _ => true
  | .getProtocol _ _ => true
  | .setProtocol _ _ => true
  | .getHubStatus _ => true
  | .clearHubFeature _ => true
  | .setHubFeature _ => true
  | .getPortStatus _ => true
  | .setPortFeature _ => true
  | .clearPortFeature _ => true
  | .getHubDescriptor _ => true
  | .setHubDescriptor _ => true
  | .clearTtBuffer _ => true
  | .resetTt _ => true
  | .stopTt _ => true
  | .getTtState _ => true
  | .inToken _ _ => true
  | .hostAck _ _ => true
  | .noAckTimeout _ _ => true
  | .outDataPacket _ _ _ bytes => decide (bytes.length ≤ 1024)
  | .ping _ => true
  | .extToken => true
  | .usbLineErrorPacket => true
  | .usbEpgo _ _ _ => true
  | .controlStartSplit _ _ => true
  | .interruptStartSplit _ _ => true
  | .bulkIsoStartSplit _ _ => true
  | .completeSplit _ _ _ => true
  | .ttTransactionEnd _ _ _ r => r.wf
  | .ttPeriodicAbandon _ _ => true
  | .portConnect port _ => port != 0
  | .portDisconnect port => port != 0
  | .portResetEnd port _ => port != 0
  | .portResumeEnd port => port != 0
  | .portDeviceResume port => port != 0
  | .portOverCurrent port _ => port != 0
  | .downstreamBabble port => port != 0
  | .canFrameReceived _ f => f.wf
  | .canProtocolException _ => true
  | .canBusError _ _ _ _ _ => true
  | .canIntegrationEnd _ => true
  | .canRecoveryEnd _ => true
  | .canOpOff _ _ => true
  | .canOpMonitor _ _ => true
  | .canOpActive _ _ => true
  | .canRecover _ _ => true
  | .canRxpop _ _ => true
  | .canRxcOpen _ _ _ => true
  | .canRxcClose _ _ _ => true
  | .canConnectionTimeout _ _ => true
  | .canMbcfgWrite _ _ _ _ => true
  | .canMbSubmit _ _ _ => true
  | .canMbRelease _ _ _ => true
  | .canMbAbort _ _ _ => true
  | .canMbSetseq _ _ _ _ => true
  | .dualSourceWindowExpiry _ _ => true
  | .canArbitrationStart _ => true
  | .canTxEnd _ _ _ => true
  | .inventory _ _ maskLen mask => decide (mask.toNat < 2 ^ maskLen.len.val)
  | .stayQuiet _ => true
  | .select _ => true
  | .resetToReady _ => true
  | .readSingleBlock _ _ => true
  | .writeSingleBlock _ _ _ _ => true
  | .readMultipleBlocks _ _ _ => true
  | .writeMultipleBlocks req _ count data _ => !req.lengthOk || data.length == count.toNat + 1
  | .getSystemInformation _ => true
  | .getMultipleBlockSecurityStatus _ _ _ => true
  | .extendedReadSingleBlock _ _ => true
  | .extendedWriteSingleBlock _ _ _ _ => true
  | .extendedReadMultipleBlocks _ _ _ => true
  | .extendedWriteMultipleBlocks req _ count data _ => !req.lengthOk || data.length == count.toNat + 1
  | .extendedGetSystemInformation _ => true
  | .extGetMultipleBlockSecurityStatus _ _ _ => true
  | .nfcUnsupportedCommand _ _ => true
  | .nfcLineError => true
  | .nfcFieldChange _ => true
  | .nfcHostCommand _ _ => true
  | .nfcHostCommandEnd _ _ => true
  | .nfcLockWrite _ _ => true
  | .nfcLockPersisted => true
  | .consoleCharacter _ _ _ => true
  | .consoleBreak _ _ => true
  | .consoleLine _ => true
  | .help _ args => args.all wordOk
  | .ver _ args => args.all wordOk
  | .mode _ args => args.all wordOk
  | .status _ args => args.all wordOk
  | .report _ args => args.all wordOk
  | .det _ args => args.all wordOk
  | .log _ args => args.all wordOk
  | .life _ args => args.all wordOk
  | .wear _ args => args.all wordOk
  | .vc _ args => args.all wordOk
  | .time _ args => args.all wordOk
  | .session _ args => args.all wordOk
  | .quiet _ args => args.all wordOk
  | .notify _ args => args.all wordOk
  | .baud _ args => args.all wordOk
  | .helmTake _ args => args.all wordOk
  | .helmFree _ args => args.all wordOk
  | .helmIdleExpiry => true
  | .unlockChallenge _ args => args.all wordOk
  | .unlockResponse _ args => args.all wordOk
  | .challengeExpiry => true
  | .lockoutExpiry => true
  | .lock _ args => args.all wordOk
  | .date _ args => args.all wordOk
  | .eval _ args => args.all wordOk
  | .hold _ args => args.all wordOk
  | .reset _ args => args.all wordOk
  | .serviceEnter _ args => args.all wordOk
  | .serviceExit _ args => args.all wordOk
  | .fuseRead _ args => args.all wordOk
  | .fuseBlow _ args _ => args.all wordOk
  | .image _ args _ => args.all wordOk
  | .imageBegin _ args => args.all wordOk
  | .imageErase _ args => args.all wordOk
  | .imageEraseEnd _ => true
  | .imageData _ args _ => args.all wordOk
  | .imageEnd _ args _ => args.all wordOk
  | .imageAbort _ args => args.all wordOk
  | .patrolPause _ args => args.all wordOk
  | .patrolInject _ args => args.all wordOk
  | .ledgerAck _ args => args.all wordOk
  | .usbtest _ args => args.all wordOk
  | .irtDbWrite _ _ => true
  | .irtDbclrWrite _ _ => true
  | .irtSwWrite _ _ => true
  | .irtSwclrWrite _ _ => true
  | .irtRouteWrite _ _ _ => true
  | .irtVcclrWrite _ _ => true
  | .sourcePending _ => true
  | .registerWrite _ _ _ _ => true
  | .registerReadClear _ _ _ => true
  | .consoleReplyEnd _ => true
  | .uartBreakEnd _ => true
  | .vinSenseRelease => true
  | .holdokRise => true
  | .pioInEdge _ _ => true
  | .scrubPassEnd _ found _ _ => found.all ScrubHit.wf
  | .canArbitrationLost _ => true

end Sys2Proof
end

