-- ==== Sys2Proof/Tests/Slice0.lean ====
section
/-! SUPPORT. The package's own tests: ill-formed commands that WellFormed refuses, single commands against values that the spec
writes out, and, for every statement with hypotheses, a state and operands that meet them (`wit_` theorems). -/

namespace Sys2Proof.Tests

set_option Elab.async false

open Sys2Proof Sys2Proof.Machine Sys2Proof.Claims

/-! States. -/

/-- A running locker: PCC at 0x2000_0000 with SYS in ring 0, a data capability in c1, an authority in c2, a code capability in
c3, sealed ones in c4 and c5, and small numbers in g1 to g4. -/
def lk0 : Locker :=
  let data := pLD + pST + pLDC + pSTC + pTTH + pDUR
  let code := pLD + pEX + pLDC + pSYS
  let l : Locker := { Locker.reset with
    pcc := Cap.root 0x20000000 0x400000 code 0x20000000, fcsr := .int 0, qstat := .int 0, crcp0 := .int 0 }
  let l := (l.setC 1 (Cap.root 0x20000000 0x400000 data 0x20000100)).setC 2 (Cap.root 0 64 (pSEAL + pUNSEAL) 5)
  let l := (l.setC 3 (Cap.root 0x20000000 0x400000 code 0x20000200)).setC 4 ((Cap.root 0x20000000 0x400000 code 0x20000200).sealWith 5)
  (((l.setG 1 (.int 7)).setG 2 (.int 5)).setG 3 (.int 0x8000000000000000)).setG 4 (.int 128)

/-- A released die in RUN: tandem A runs with two instruction words at its PCC; the others are held. The shipped tag store names
the grade, which is no known value. -/
def cold : State :=
  { State.reset with
      cpuA := { Cpu.reset.setLocker 0 lk0 with run := .running },
      mem := [(0x20000000 / 8, ⟨.insn, 0⟩), (0x20000000 / 8 + 1, ⟨.insn, 0⟩), (0x20000100 / 8, .int 0x1122334455667788)],
      nfc := { State.reset.nfc with store := [] },
      clk := { State.reset.clk with crystal := true },
      wrd := { State.reset.wrd with mode := .run, rails := 0x7F },
      gate := { State.reset.gate with pgood := true, released := true, step := 7, relMode := .run } }

/-- The state after a part of a word. -/
def left {α : Type} (x : Cm α) (s : State) : State :=
  match x.run s with
  | .ok _ s' => s'
  | .error _ s' => s'

/-- The part completes with value `a` and leaves `s'`. -/
def runs {α : Type} [DecidableEq α] (x : Cm α) (s : State) (a : α) (s' : State) : Bool :=
  match x.run s with
  | .ok b t => decide (b = a) && decide (t = s')
  | .error _ _ => false

theorem run_of {α : Type} [DecidableEq α] {x : Cm α} {s s' : State} {a : α} (h : runs x s a s' = true) : x.run s = .ok a s' := by
  unfold runs at h
  split at h
  · next b t hr => simp only [Bool.and_eq_true, decide_eq_true_eq] at h; rw [hr, h.1, h.2]
  · cases h

/-- The part completes. -/
def fine {α : Type} (x : Cm α) (s : State) : Bool :=
  match x.run s with
  | .ok _ _ => true
  | .error _ _ => false

theorem run_fine {x : Cm Unit} {s : State} (h : fine x s = true) : ∃ s', x.run s = .ok () s' := by
  unfold fine at h
  split at h
  · next s' hr => exact ⟨s', hr⟩
  · cases h

/-- The same once the caches hold the words at PCC and at c1: they change no more. -/
def up : State := left (issue .a .plain) (left (readMem .a .sram false ⟨0x20000100, 8, 0⟩ 8 0x20000100) (left (issue .a .plain) cold))

/-- The same with tandem A's registers changed. -/
def upWith (f : Cpu → Cpu) : State := up.modCpu .a f

/-- The word at PCC issues and leaves the state as it is. -/
def issues (t : Tandem) (k : Kind) (s : State) : Bool := s.ready t && runs (issue t k) s () s

theorem issues_of {t : Tandem} {k : Kind} {s : State} (h : issues t k s = true) : Issues t k s s := by
  simp only [issues, Bool.and_eq_true] at h
  exact ⟨h.1, run_of h.2⟩

theorem up_issues : Issues .a .plain up up ∧ Issues .a (.cti none) up up ∧ Issues .a .long up up ∧ Issues .a .ring up up :=
  ⟨issues_of (by decide +kernel), issues_of (by decide +kernel), issues_of (by decide +kernel), issues_of (by decide +kernel)⟩

/-! Ill-formed commands are refused. -/

def goodFrame : CanFrame := { id := 0x123, ide := false, fdf := false, brs := false, esi := false, rtr := false, dlc := 2, data := [1, 2] }

theorem test_wellformed_frames : goodFrame.wf = true ∧ ({ goodFrame with id := 0x800 } : CanFrame).wf = false ∧
    ({ goodFrame with brs := true } : CanFrame).wf = false ∧ ({ goodFrame with fdf := true, rtr := true, data := [] } : CanFrame).wf = false ∧
    ({ goodFrame with data := [1] } : CanFrame).wf = false ∧
    (Instr.canFrameReceived .a { goodFrame with dlc := 9, fdf := true, data := List.replicate 12 0 }).wellFormed = true ∧
    (Instr.canFrameReceived .a { goodFrame with dlc := 9, fdf := true, data := List.replicate 11 0 }).wellFormed = false := by decide +kernel

/-- A correctable check bit of a word of the working SRAM, and the frame of its neighbours. -/
def hitAt (a : Nat) (n : Fin 4) : ScrubHit := ⟨.addr a, n, false, .good 0⟩

theorem test_wellformed_memory_checks :
    (hitAt 0x20000008 1).wf = true ∧ (hitAt 0x20000008 0).wf = false ∧ (hitAt 0x20000009 1).wf = false ∧
    (Instr.scrubPassEnd .sram [hitAt 0x20000001 2] 0 []).wellFormed = false ∧
    LedgerBad.wf (.entry (2 ^ 23)) = false ∧ LedgerBad.wf (.unplaced .a 1 1092) = true ∧ LedgerBad.wf (.unplaced .a 1 1093) = false ∧
    LedgerBad.wf (.verify (2 ^ 23) (.good 0)) = false ∧ LedgerBad.wf (.entry (2 ^ 23 - 1)) = true ∧
    (Instr.ledgerRecoveryEnd [.entry (2 ^ 23)] 0).wellFormed = false ∧
    (Instr.xspCommandEnd (List.replicate 257 0) []).wellFormed = false ∧ (Instr.xspCommandEnd (List.replicate 256 0) []).wellFormed = true ∧
    (Instr.lifeEvaluation [] []).wellFormed = false := by decide +kernel

theorem test_wellformed_panel_and_usb :
    (Instr.keyScan (List.replicate 33 0)).wellFormed = false ∧ (Instr.keyScan (List.replicate 32 0)).wellFormed = true ∧
    (Instr.wetFilmTest (List.replicate 33 0)).wellFormed = false ∧
    (Instr.outDataPacket .fn 3 false (List.replicate 1025 0)).wellFormed = false ∧
    TtResult.wf (.data (List.replicate 65 0)) = false ∧ TtResult.wf (.data (List.replicate 64 0)) = true ∧
    (Instr.ttTransactionEnd true 1 1 (.data (List.replicate 65 0))).wellFormed = false ∧
    (Instr.portConnect 0 .full).wellFormed = false ∧ (Instr.portDisconnect 0).wellFormed = false ∧
    (Instr.portResetEnd 0 .full).wellFormed = false ∧ (Instr.portResumeEnd 0).wellFormed = false ∧
    (Instr.portDeviceResume 0).wellFormed = false ∧ (Instr.portOverCurrent 0 true).wellFormed = false ∧
    (Instr.downstreamBabble 0).wellFormed = false ∧ (Instr.portDisconnect 4).wellFormed = true := by decide +kernel

/-- A request of the tag's own coding, not addressed, of the right length. -/
def plainReq : NfcReq :=
  { codingOk := true, addressed := none, selectFlag := false, optionFlag := false, extFlag := false, lengthOk := true, served := 0 }

theorem test_wellformed_tag_and_console :
    (Instr.inventory plainReq none ⟨3, none⟩ 8).wellFormed = false ∧ (Instr.inventory plainReq none ⟨3, none⟩ 7).wellFormed = true ∧
    (Instr.writeMultipleBlocks plainReq 0 1 [0] .ok).wellFormed = false ∧ (Instr.writeMultipleBlocks plainReq 0 1 [0, 0] .ok).wellFormed = true ∧
    (Instr.extendedWriteMultipleBlocks plainReq 0 1 [0] .ok).wellFormed = false ∧
    wordOk [] = false ∧ wordOk [' '] = false ∧ wordOk ['A', '~'] = true ∧ wordOk [Char.ofNat 0x7F] = false ∧
    (Instr.ver 0 [[' ']]).wellFormed = false ∧ (Instr.fuseBlow 0 [[]] ⟨0, false, [], 0⟩).wellFormed = false ∧
    (Instr.usbtest 4 [txt "ON"]).wellFormed = true := by decide +kernel

/-! Operands that meet the hypotheses of the statements on instructions. -/

theorem wit_integer_moves_and_pairs : Issues .a .plain up up ∧ (up.g .a 1).isData = true ∧ (up.g .a 2).isData = true ∧
    (up.g .a 0).isData = true ∧ (up.g .a 31).isData = false ∧ dataTagOf 3 = some .flt ∧ dataTagOf 5 = some .insn ∧ (up.cpu .a).sys = true ∧
    shortReadable up .a (.add 1 2) = true ∧ shortReadable up .a (.srai 3 63) = true ∧ shortReadable up .a (.cinci 1 (-1)) = true ∧
    shortReadable up .a (.cmov 6 7) = true :=
  ⟨up_issues.1, by decide +kernel⟩

theorem wit_control_transfers : Issues .a (.cti none) up up ∧ (up.g .a 1).isData = true ∧ (up.g .a 4).isData = true ∧
    (up.g .a 4).bits.toNat % 4 = 0 ∧ (up.g .a 1).bits.toNat % 4 ≠ 0 ∧ (up.c .a 3).st = .valid ∧ (up.c .a 3).sealed = false ∧
    (up.c .a 3).ring = (up.cpu .a).ring ∧ (up.c .a 3).has pEX = true ∧ (up.c .a 3).cursor % 4 = 0 :=
  ⟨up_issues.2.1, by decide +kernel⟩

/-- Branch offsets at both ends of their range, and conditions met and not met. -/
theorem wit_branch_conditions : (up.pc .a : Int) + 4 * (BitVec.ofNat 12 0x800).toInt = 0x20000000 - 0x2000 ∧
    (up.pc .a : Int) + 4 * (BitVec.ofNat 12 0x7FF).toInt = 0x20001FFC ∧ (up.g .a 1).bits ≠ (up.g .a 2).bits ∧
    (up.g .a 3).bits.toInt < (up.g .a 1).bits.toInt ∧ (up.g .a 1).bits.toNat < (up.g .a 3).bits.toNat := by decide +kernel

theorem wit_reserved_words : reservedKind .a 0x7E000000 = some (0, false) ∧ reservedKind .a 0 = none ∧ reservedKind .g 0x68000000 = some (3, false) ∧
    Issues .a .plain up up :=
  ⟨by decide +kernel, by decide +kernel, by decide +kernel, up_issues.1⟩

/-! Memory. -/

/-- The access of `n` bytes at `ea` through c1 that reads or writes the words of `ph` in region `rg`, with nothing else to do. -/
def passes (t : Tandem) (k : AKind) (rule : RegionRule) (cs : CReg) (need : Need) (off : Int) (n : Nat) (s : State) (ea : Nat) (ph : Phys)
    (rg : Region) : Bool :=
  runs (access t cs need off) s ea s && runs (translate t k rule (s.cpu t).ring ea n) s (ph, rg) s

theorem passes_of {t : Tandem} {k : AKind} {rule : RegionRule} {cs : CReg} {need : Need} {off : Int} {n : Nat} {s : State} {ea : Nat}
    {ph : Phys} {rg : Region} (h : passes t k rule cs need off n s ea ph rg = true) : Passes t k rule cs need off n s s ea ph rg := by
  simp only [passes, Bool.and_eq_true] at h
  exact ⟨run_of h.1, run_of h.2⟩

/-- Loads from memory that meet their words, with the value that they give. -/
theorem load_gives {t : Tandem} {rg : Region} {ph : Phys} {n ea : Nat} {sgn : Bool} {s s' : State} {v : TWord} (h : rg.isDev = false)
    (r : runs (readMem t rg false ph n ea) s () s' = true) (k : tagsKnown s' t ph n = true) (e : v = loadResult s' t ph n sgn) :
    LoadGives t false rg ph n ea sgn s v s' := .inl ⟨h, run_of r, k, e⟩

/-- Entries that find room. -/
def joins (t : Tandem) : List SbEnt → State → Bool
  | [], _ => true
  | e :: r, s => decide ((s.cpu t).sb.length < sbCap t) && joins t r (joined t s e)

theorem joins_now {t : Tandem} : ∀ {es : List SbEnt} {s : State}, joins t es s = true → joinsNow t es s
  | [], _, _ => trivial
  | _ :: _, _, h => by
    simp only [joins, Bool.and_eq_true, decide_eq_true_eq] at h
    exact ⟨.inl h.1, joins_now h.2⟩

/-- The physical words of an access within the SRAM at 0x2000_0000 + `o`. -/
def at1 (o n : Nat) : Phys := ⟨0x20000000 + o, n, 0⟩

/-- Loads of c1 in the working SRAM pass their checks, read at once, and give a whole word and part of one. -/
theorem wit_loads : memOffset up .a (.imm 0) = some 0 ∧ memOffset up .a (.idx 2 3) = some 40 ∧ memOffset up .a (.idx 31 0) = none ∧
    Passes .a .load .data 1 ⟨pLD, false, 8, 1⟩ 0 8 up up 0x20000100 (at1 0x100 8) .sram ∧ ReadsNow .a (at1 0x100 8) .sram 8 up ∧
    LoadGives .a false .sram (at1 0x100 8) 8 0x20000100 false up (.int 0x1122334455667788) up ∧
    Passes .a .load .data 1 ⟨pLD, false, 2, 1⟩ 3 2 up up 0x20000103 (at1 0x103 2) .sram ∧ ReadsNow .a (at1 0x103 2) .sram 2 up ∧
    LoadGives .a false .sram (at1 0x103 2) 2 0x20000103 true up (.int 0x4455) up := by
  refine ⟨by decide +kernel, by decide +kernel, by decide +kernel, passes_of (by decide +kernel), ?_, ?_, passes_of (by decide +kernel), ?_, ?_⟩
  · exact ⟨by decide +kernel, by decide +kernel, by decide +kernel⟩
  · exact load_gives rfl (by decide +kernel) (by decide +kernel) (by decide +kernel)
  · exact ⟨by decide +kernel, by decide +kernel, by decide +kernel⟩
  · exact load_gives rfl (by decide +kernel) (by decide +kernel) (by decide +kernel)

/-- A state whose SRAM holds POISON, both kinds of half of a capability and a reserved tag, in the L1 lines of c1. -/
def tagged : State :=
  let s := { up with mem := up.mem ++ [(0x4000021, .poison), (0x4000022, ⟨.capa, 1⟩), (0x4000023, ⟨.capb, 2⟩), (0x4000024, ⟨.reserved 9, 0⟩)] }
  left (readMem .a .sram false (at1 0x120 8) 8 0x20000120) s

/-- Each kind of word that a load can meet, whole and in part. -/
theorem wit_tagged_words :
    (∀ p ∈ [(0x100, 8), (0x108, 8), (0x110, 8), (0x118, 8), (0x120, 8), (0x102, 4), (0x106, 4), (0x118, 1)],
      ReadsWords .a false .sram (at1 p.1 p.2) p.2 (0x20000000 + p.1) tagged tagged) ∧
    (tagged.viewWord .a 0x4000020) = .int 0x1122334455667788 ∧ (tagged.viewWord .a 0x4000021) = .poison ∧
    (tagged.viewWord .a 0x4000022).tag = .capa ∧ (tagged.viewWord .a 0x4000023).tag = .capb ∧ (tagged.viewWord .a 0x4000024).tag = .reserved 9 ∧
    (tagged.viewWord .a 0x4000025) = .unwritten ∧ (∃ p ∈ (at1 0x106 4).parts 4, (tagged.viewWord .a (p.1 / 8)).tag = .poison) ∧
    (∀ p ∈ (at1 0x102 4).parts 4, (tagged.viewWord .a (p.1 / 8)).tag = .int) ∧
    (∃ p ∈ (at1 0x12C 4).parts 4, (tagged.viewWord .a (p.1 / 8)).tag = .unwritten) ∧
    capOfPair (up.viewWord .a 0x4000020) (up.viewWord .a 0x4000021) ≠ none ∧
    capOfPair (tagged.viewWord .a 0x4000022) (tagged.viewWord .a 0x4000023) ≠ none ∧
    capOfPair (up.viewWord .a 0x4000040) (up.viewWord .a 0x4000041) = some .unwritten := by
  refine ⟨fun p hp => run_of ?_, by decide +kernel⟩
  revert p; decide +kernel

theorem wit_stores : Passes .a .store .data 1 ⟨pST, false, 8, 1⟩ 0 8 up up 0x20000100 (at1 0x100 8) .sram ∧ (up.g .a 1).isData = true ∧
    ∃ s3, StoreGives .a .sram (at1 0x100 8) 8 0x20000100 (up.g .a 1) up s3 := by
  refine ⟨passes_of (by decide +kernel), by decide +kernel, _, .inl ⟨rfl, up, up.spk, ?_, by decide +kernel, joins_now (by decide +kernel), rfl⟩⟩
  exact run_of (by decide +kernel)

/-- Step 11: a line in the L1 data cache, one that is not, POISON, and a partial store into UNWRITTEN. -/
theorem wit_store_targets : (storeLine .a 0x4000021 0).run tagged = .ok () tagged ∧ (storeLine .a 0x4000025 0).run tagged = .ok () tagged ∧
    (cachedAddr (8 * 0x4000021) = true ∧ (tagged.cpu .a).front.hasD (0x4000021 / 4) = true) ∧
    (cachedAddr (8 * 0x4000041) = true ∧ (tagged.cpu .a).front.hasD (0x4000041 / 4) = false) :=
  ⟨run_of (by decide +kernel), run_of (by decide +kernel), by decide +kernel, by decide +kernel⟩

/-- A device register that the tandem reaches, through a capability of the register space. -/
def upDev : State := upWith fun c => c.setLk (c.lk.setC 1 (Cap.root 0x80000000 0x110000 (pLD + pST) 0x80080100))

theorem wit_device_access : Issues .a .plain upDev upDev ∧
    Passes .a .store .data 1 ⟨pST, false, 4, 1⟩ 0 4 upDev upDev 0x80080100 ⟨0x80080100, 4, 0⟩ (.dev 8) ∧ (upDev.g .a 1).isData = true ∧
    joinsNow .a [⟨0x80080100, bytesOf 4 7, .dev⟩] upDev ∧
    Passes .a .load .data 1 ⟨pLD, false, 4, 1⟩ 0 4 upDev upDev 0x80080100 ⟨0x80080100, 4, 0⟩ (.dev 8) ∧
    ReadsNow .a ⟨0x80080100, 4, 0⟩ (.dev 8) 4 upDev ∧ ∃ v s', LoadGives .a false (.dev 8) ⟨0x80080100, 4, 0⟩ 4 0x80080100 false upDev v s' :=
  ⟨issues_of (by decide +kernel), passes_of (by decide +kernel), by decide +kernel, joins_now (by decide +kernel), passes_of (by decide +kernel),
    ⟨by decide +kernel, by decide +kernel, by decide +kernel⟩, _, upDev, .inr ⟨8, rfl, run_of (by decide +kernel), rfl⟩⟩

/-- An entry in the buffer that a load overlaps in part, and device entries ahead of a device load. -/
def upBuf : State := upWith fun c => { c with sb := [⟨0x20000100, [1, 2], .part⟩] }
def upDevBuf : State := upDev.modCpu .a fun c => { c with sb := [⟨0x80080100, [1, 0, 0, 0], .dev⟩] }

theorem wit_buffered : (upBuf.cpu .a).run = .running ∧ (upBuf.cpu .a).sb = ⟨0x20000100, [1, 2], .part⟩ :: [] ∧
    upBuf.heldFor .a 0x20000100 = false ∧ upBuf.clk.crystal = true ∧
    (∀ p ∈ (⟨0x20000100, [1, 2], .part⟩ : SbEnt).writes upBuf.memWord, 0x4000000 ≤ p.1 ∧ p.1 < 0x4080000) ∧ Issues .a .plain upBuf upBuf ∧
    Passes .a .load .data 1 ⟨pLD, false, 8, 1⟩ 0 8 upBuf upBuf 0x20000100 (at1 0x100 8) .sram ∧
    (upBuf.cpu .a).loadWaits (Region.sram.isDev) (at1 0x100 8) 8 = true ∧
    upDevBuf.stalls .a 0x80080100 = false ∧ Issues .a .plain upDevBuf upDevBuf ∧
    Passes .a .load .data 1 ⟨pLD, false, 4, 1⟩ 0 4 upDevBuf upDevBuf 0x80080100 ⟨0x80080100, 4, 0⟩ (.dev 8) ∧
    (upDevBuf.cpu .a).loadWaits ((Region.dev 8).isDev) ⟨0x80080100, 4, 0⟩ 4 = true :=
  ⟨by decide +kernel, rfl, by decide +kernel, by decide +kernel, by decide +kernel, issues_of (by decide +kernel),
    passes_of (by decide +kernel), by decide +kernel, by decide +kernel, issues_of (by decide +kernel), passes_of (by decide +kernel), by decide +kernel⟩

/-- Loads of a block in reset, and of a window whose port runs a command. -/
theorem wit_loads_that_wait :
    (let s := { upDev with clk := { upDev.clk with urst := 0x7FF } }; Issues .a .plain s s ∧
      Passes .a .load .data 1 ⟨pLD, false, 4, 1⟩ 0x20000 4 s s 0x800A0100 ⟨0x800A0100, 4, 0⟩ (.dev 10) ∧
      ((Region.dev 10).isDev && s.stalls .a 0x800A0100) = true) ∧
    (let s := upWith fun c => c.setLk (c.lk.setC 1 (Cap.root 0x100000000 0x400000 pLD 0x100000000))
     let s := { s with xsp := { s.xsp with busy := true, a := { s.xsp.a with cap := 2 } } }; Issues .a .plain s s ∧
      Passes .a .load .data 1 ⟨pLD, false, 8, 1⟩ 0 8 s s 0x100000000 ⟨0x100000000, 8, 0⟩ .winA ∧
      s.windowWaits .a .winA ⟨0x100000000, 8, 0⟩ 8 = true) :=
  ⟨⟨issues_of (by decide +kernel), passes_of (by decide +kernel), by decide +kernel⟩,
    ⟨issues_of (by decide +kernel), passes_of (by decide +kernel), by decide +kernel⟩⟩

/-- A load that waits for nothing any more. -/
theorem wit_resumed_load : let q : LoadReq := ⟨0x20000100, at1 0x100 8, 8, .g 1 false, false, false⟩
    let s := upWith fun c => { c with wait := .load q }
    (s.cpu .a).run = .running ∧ (s.cpu .a).wait = .load q ∧ (s.cpu .a).loadWaits q.dev q.phys q.size = false ∧
      (q.dev && s.stalls .a q.phys.lo) = false ∧ s.regionOf .a q.phys.lo q.phys.n = some .sram ∧ s.windowWaits .a .sram q.phys q.size = false ∧
      LoadGives .a false .sram q.phys q.size q.va false (s.modCpu .a fun c => { c with wait := .none }) (.int 0x1122334455667788) up :=
  ⟨by decide +kernel, by decide +kernel, by decide +kernel, by decide +kernel, rfl, rfl,
    load_gives rfl (by decide +kernel) (by decide +kernel) (by decide +kernel)⟩

theorem wit_capability_accesses :
    (Passes .a .capLoad .noDev 1 ⟨pLD + pLDC, false, 16, 16⟩ 0 16 up up 0x20000100 (at1 0x100 16) .sram ∧ ReadsNow .a (at1 0x100 16) .sram 16 up ∧
      ReadsWords .a false .sram (at1 0x100 16) 16 0x20000100 up up) ∧
    (Passes .a .capStore .noDev 1 ⟨pST + pSTC, (up.c .a 1).tethered, 16, 16⟩ 0 16 up up 0x20000100 (at1 0x100 16) .sram ∧
      (do targetTag .a 0x4000020 true 0; targetTag .a 0x4000021 true 0 : Cm Unit).run up = .ok () up ∧
      up.spk.ledgerAdmit .a (persistentWords [0x4000020, 0x4000021]) = some up.spk ∧ joinsNow .a [capEntry 0x20000100 (up.c .a 1)] up) ∧
    (Passes .a .store .noDev 1 ⟨pST, false, 8, 8⟩ 8 8 up up 0x20000108 (at1 0x108 8) .sram ∧
      (storeLine .a 0x4000021 0x20000108).run up = .ok () up ∧ joinsNow .a [⟨0x20000108, bytesOf 8 0, .whole .poison⟩] up) ∧
    (up.cpu .a).ring = 0 ∧ (up.cpu .a).sys = true :=
  ⟨⟨passes_of (by decide +kernel), ⟨by decide +kernel, by decide +kernel, by decide +kernel⟩, run_of (by decide +kernel)⟩,
    ⟨passes_of (by decide +kernel), run_of (by decide +kernel), by decide +kernel, joins_now (by decide +kernel)⟩,
    ⟨passes_of (by decide +kernel), run_of (by decide +kernel), joins_now (by decide +kernel)⟩, by decide +kernel, by decide +kernel⟩

/-! Capabilities. -/

theorem wit_capability_fields : derivable (up.c .a 1) = true ∧ (up.c .a 15).st = .unwritten ∧
    (up.c .a 0).st = .null ∧ (up.g .a 1).bits.toNat ≤ 2 ^ 44 ∧ (up.c .a 1).ring ≤ (up.g .a 1).bits.toNat % 4 ∧
    (0 : Nat) ≤ 2 ^ 44 ∧ fitExp 0 (2 ^ 44) = 30 ∧ fitExp 0 32767 = 0 ∧ fitExp 0 32768 = 1 :=
  by decide +kernel

/-- KNARROW within its source, beyond it, above 2^44, exact and rounded. -/
theorem wit_knarrow :
    (let c := up.c .a 1; derivable c = true ∧ ¬ narrowTop c 7 ∧ narrowWithin c 7 ∧ narrowExact c 7 ∧ narrowTop c 0x8000000000000000 ∧
      ¬ narrowTop c 0x8001 ∧ ¬ narrowExact c 0x8001 ∧ ¬ narrowTop c 0x10000000 ∧ ¬ narrowWithin c 0x10000000) ∧
    (let c := Cap.root 0x20000000 0x400000 pLD 0x20000000; derivable c = true ∧ narrowExact c 0x400000 ∧ narrowWithin c 0x400000 ∧
      ¬ narrowTop c 0x800000 ∧ narrowExact c 0x800000 ∧ ¬ narrowWithin c 0x800000) ∧
    (let c := Cap.root 0 (2 ^ 44) pLD (2 ^ 44 - 1); narrowTop c (2 : BitVec 17).toNat ∧ ¬ narrowTop c (1 : BitVec 17).toNat) := by
  unfold narrowTop narrowWithin narrowExact roundedBase roundedTop; decide +kernel

theorem wit_sealing : derivable (up.c .a 1) = true ∧ derivable (up.c .a 2) = true ∧ (up.c .a 2).has pSEAL = true ∧
    (up.cpu .a).ring ≤ (up.c .a 2).ring ∧ (up.c .a 2).base ≤ (up.c .a 2).cursor ∧ (up.c .a 2).cursor < (up.c .a 2).top ∧
    (up.c .a 2).cursor < 64 ∧ ¬ 0x38 ≤ (up.c .a 2).cursor ∧ (up.c .a 4).sealed = true ∧ (up.c .a 4).otype < 0x38 ∧
    (up.c .a 2).has pUNSEAL = true ∧ (up.c .a 2).cursor = (up.c .a 4).otype ∧
    (let d := Cap.root 0x40000000 0x4000000 pLD 0x40000000; let w := (up.cpu .a).dwinP
     derivable d = true ∧ w.toNat % 2 ^ 32 * 4096 ≤ d.base ∧ d.top ≤ w.toNat / 2 ^ 32 * 4096) := by decide +kernel

/-! Floating point, SWEEP, CRC, division, modulo addressing. -/

/-- f1 holds 1.0, f2 a signalling NaN of binary32, f3 an infinity. -/
def upFp : State := upWith fun c => c.setLk (((c.lk.setF 1 ⟨.flt, 0x3FF0000000000000⟩).setF 2 ⟨.flt, 0x7F800001⟩).setF 3 ⟨.flt, 0x7FF0000000000000⟩)

theorem wit_floating_point : Issues .a .plain upFp upFp ∧ Issues .a .long upFp upFp ∧ FpReady .a upFp upFp ∧ FpFrom .a upFp upFp ∧
    (upFp.f .a 1).isData = true ∧ (upFp.f .a 2).isData = true ∧ (upFp.f .a 3).isData = true ∧ (upFp.f .a 0).isData = false ∧
    ((upFp.schA).getLk 0).fpst = .live :=
  ⟨issues_of (by decide +kernel), issues_of (by decide +kernel), ⟨.inl ⟨by decide +kernel, rfl⟩, by decide +kernel⟩,
    .inl ⟨by decide +kernel, rfl⟩, by decide +kernel⟩

theorem wit_floating_point_access :
    (Passes .a .load .fp 1 ⟨pLD, false, 8, 1⟩ 0 8 upFp upFp 0x20000100 (at1 0x100 8) .sram ∧ ReadsNow .a (at1 0x100 8) .sram 8 upFp ∧
      LoadGives .a false .sram (at1 0x100 8) 8 0x20000100 false upFp (.int 0x1122334455667788) upFp) ∧
    (Passes .a .store .fp 1 ⟨pST, false, 8, 1⟩ 0 8 upFp upFp 0x20000100 (at1 0x100 8) .sram ∧
      ∃ s4, StoreGives .a .sram (at1 0x100 8) 8 0x20000100 (upFp.f .a 1) upFp s4) :=
  ⟨⟨passes_of (by decide +kernel), ⟨by decide +kernel, by decide +kernel, by decide +kernel⟩,
    load_gives rfl (by decide +kernel) (by decide +kernel) (by decide +kernel)⟩, passes_of (by decide +kernel), _,
    .inl ⟨rfl, upFp, upFp.spk, run_of (by decide +kernel), by decide +kernel, joins_now (by decide +kernel), rfl⟩⟩

/-- The states of floating point: OFF, and DEFERRED with an occupant (R489). -/
theorem wit_floating_point_states :
    (let s := up.setSch .a (Sch.reset.setLk 0 ⟨some 1, none, .off⟩); ((s.sch .a).getLk (s.cpu .a).cur.val).fpst = .off) ∧
    (let s := up.setSch .a (Sch.reset.setLk 0 ⟨some 1, none, .deferred⟩); ((s.sch .a).getLk (s.cpu .a).cur.val).fpst = .deferred ∧
      ((s.sch .a).getLk (s.cpu .a).cur.val).occ = some 1) := by decide +kernel

theorem wit_rounding : (0x3FF0000000000000 : Nat) < 2 ^ ((fmtOf .f64).eb + (fmtOf .f64).mb + 1) ∧
    (∃ n k e, fdecode (fmtOf .f64) 0x3FF0000000000000 = .fin n k e) ∧ fdecode (fmtOf .f32) 0x7F800000 = .inf false ∧
    (fdecode (fmtOf .f32) 0x7F800001).isNan = true ∧ (∃ n k e, fdecode (fmtOf .f32) 1 = .fin n k e) :=
  ⟨by decide +kernel, ⟨_, _, _, by rfl⟩, by decide +kernel, by decide +kernel, ⟨_, _, _, by rfl⟩⟩

/-- g5 counts, g6 is the byte at c1, and c2 points to the same word. -/
def upSw (n : Nat) : State := upWith fun c => c.setLk ((((c.lk.setG 5 (.int (BitVec.ofNat 64 n))).setG 6 (.int 0x88)).setC 2
  (Cap.root 0x20000000 0x400000 (pLD + pST) 0x20000100)))

theorem wit_sweep : Issues .a .long (upSw 1) (upSw 1) ∧ ((upSw 1).g .a 5).isData = true ∧ ((upSw 0).g .a 5).bits = 0 ∧
    (∀ op ∈ sweepOps .a 0 0 1 2 5 6 3, reservedKind .a op.word = none) ∧ (∀ op ∈ sweepOps .g 2 1 1 2 5 6 0, reservedKind .g op.word = none) ∧
    ((upSw 1).g .a 6).isData = true :=
  ⟨issues_of (by decide +kernel), by decide +kernel⟩

/-- An element that changes nothing but its cursors and its count. -/
theorem one_element {t : Tandem} {op : SweepOp} {s : State} (h : op.el.run s = .ok .done s) :
    ElementsRun t op 1 s (advanced t op (s.g t op.gc).bits s) := ⟨s, h, rfl, rfl, rfl, rfl⟩

/-- One element of FIND for a byte that differs completes and one for the byte there stops. -/
theorem wit_sweep_elements : (∃ s', ElementsRun .a ⟨fun l => .sweepFind .a 0 2 5 6 l, 0, 5, some 6, [2], 1, findElem .a 0 2 6 false, id⟩ 1
      ((upSw 1).wrG .a 6 (.int 0x11)) s') ∧ (findElem .a 0 2 6 false).run (upSw 1) = .ok .stop (upSw 1) :=
  ⟨⟨_, one_element (run_of (by decide +kernel))⟩, run_of (by decide +kernel)⟩

theorem element_at {t : Tandem} {r : CReg} {perms size ea : Nat} {teth : Bool} {k : AKind} {s : State} {ph : Phys} {rg : Region}
    (h : passes t k .noDev r ⟨perms, teth, size, size⟩ 0 size s ea ph rg = true) : ElementAt t r perms size teth k s s ea ph rg := by
  simp only [passes, Bool.and_eq_true] at h
  exact ⟨run_of h.1, run_of h.2⟩

/-- c1 points to a POISON word. -/
def poisoned : State := tagged.modLk .a fun l => l.setC 1 ((l.getC 1).setCursor 0x20000108)

/-- Elements of both sizes are read and written; POISON is overwritten. -/
theorem wit_elements_read_and_written :
    ElementReads .a 1 0 up 0x88 up ∧ ElementReads .a 1 1 up 0x1122334455667788 up ∧
    (∃ s', ElementStores .a 1 0 (.int 5) false up s') ∧ (∃ s', ElementStores .a 1 1 (.int 5) false up s') ∧
    (∃ s', ElementStores .a 1 1 .poison true poisoned s') := by
  refine ⟨⟨.int 0x88, ⟨0x20000100, at1 0x100 1, .sram, up, up, element_at (by decide +kernel), run_of (by decide +kernel),
      load_gives rfl (by decide +kernel) (by decide +kernel) (by decide +kernel)⟩, rfl, rfl⟩,
    ⟨.int 0x1122334455667788, ⟨0x20000100, at1 0x100 8, .sram, up, up, element_at (by decide +kernel), run_of (by decide +kernel),
      load_gives rfl (by decide +kernel) (by decide +kernel) (by decide +kernel)⟩, rfl, rfl⟩,
    ⟨_, 0x20000100, at1 0x100 1, .sram, up, up, up.spk, element_at (by decide +kernel), run_of (by decide +kernel), by decide +kernel,
      joins_now (by decide +kernel), rfl⟩,
    ⟨_, 0x20000100, at1 0x100 8, .sram, up, up, up.spk, element_at (by decide +kernel), run_of (by decide +kernel), by decide +kernel,
      joins_now (by decide +kernel), rfl⟩,
    ⟨_, 0x20000108, at1 0x108 8, .sram, poisoned, poisoned, poisoned.spk, element_at (by decide +kernel), run_of (by decide +kernel), by decide +kernel,
      joins_now (by decide +kernel), rfl⟩⟩

theorem wit_crc : crcConfig up .a 3 = some ⟨32, 0x1EDC6F41, true⟩ ∧ crcConfig up .a 0 = some ⟨8, 0, false⟩ ∧ crcConfig up .b 0 = none ∧
    (0xFFFFFFFF : Nat) < 2 ^ 32 := by decide +kernel

/-- MOD0 describes a buffer of 16 bytes at c1's cursor, stepping by 8. -/
def upMod : State := upWith fun c => c.setLk { c.lk with mod0Base := .int 0x20000100, mod0Ctl := .int 0x4000001000000008 }

theorem wit_modulo : descriptor upMod .a 0 = some ⟨0x20000100, 1, 16, 8⟩ ∧ Issues .a .plain upMod upMod ∧
    modStep ⟨0x20000100, 1, 16, 8⟩ 0x20000108 3 = some 0x20000100 ∧ modStep ⟨0x20000100, 1, 16, 8⟩ 0x20000110 3 = none ∧
    modStep ⟨0x20000100, 1, 16, 8⟩ 0x200000FF 3 = none ∧ modStep ⟨0x20000100, 0, 16, 8⟩ 0x20000100 3 = none ∧
    (∃ x, modStep ⟨0x20000100, 1, 16, 8⟩ 0x20000100 3 = some x) ∧ (upMod.c .a 1).st = .valid ∧ (upMod.c .a 1).sealed = false ∧
    (Passes .a .load .data 1 ⟨pLD, false, modSize 3, 1⟩ 0 (modSize 3) upMod upMod 0x20000100 (at1 0x100 8) .sram ∧
      ReadsNow .a (at1 0x100 8) .sram (modSize 3) upMod ∧
      LoadGives .a false .sram (at1 0x100 8) (modSize 3) 0x20000100 false upMod (.int 0x1122334455667788) upMod) ∧
    (Passes .a .store .data 1 ⟨pST, false, 2 ^ 3, 1⟩ 0 (2 ^ 3) upMod upMod 0x20000100 (at1 0x100 8) .sram ∧ (upMod.g .a 1).isData = true ∧
      ∃ s3, StoreGives .a .sram (at1 0x100 8) (2 ^ 3) 0x20000100 (upMod.g .a 1) upMod s3) :=
  ⟨by decide +kernel, issues_of (by decide +kernel), by decide +kernel, by decide +kernel, by decide +kernel, by decide +kernel, ⟨_, by rfl⟩,
    by decide +kernel, by decide +kernel,
    ⟨passes_of (by decide +kernel), ⟨by decide +kernel, by decide +kernel, by decide +kernel⟩,
      load_gives rfl (by decide +kernel) (by decide +kernel) (by decide +kernel)⟩,
    passes_of (by decide +kernel), by decide +kernel, _,
    .inl ⟨rfl, upMod, upMod.spk, run_of (by decide +kernel), by decide +kernel, joins_now (by decide +kernel), rfl⟩⟩

/-- Tandem G runs in its own locker, its words uncached: its descriptors read UNWRITTEN. -/
def upG : State :=
  { up with cpuG := { up.cpuG with run := .running, lockers := [(0, lk0)] } }

theorem wit_division_and_fixed_point : Issues .a .long up up ∧ Issues .a .plain up up ∧ (up.cpu .a).lk.qstat.tag ≠ .unwritten ∧
    saturated (2 ^ 63) = 2 ^ 63 - 1 ∧ saturated (2 ^ 63 - 1) = 2 ^ 63 - 1 ∧ (up.g .a 3).bits.toInt = -2 ^ 63 ∧ ∃ s1, Issues .g .plain upG s1 :=
  ⟨up_issues.2.2.1, up_issues.1, by decide +kernel, by decide +kernel, by decide +kernel, by decide +kernel, (run_fine (by decide +kernel)).imp fun _ h => ⟨by decide +kernel, h⟩⟩

/-! Reservations, TAS, fences. -/

def upResv (line : Nat) : State := upWith fun c => { c with resv := some line, hold := some line }

theorem wit_reservations :
    (Passes .a .load .lrsc 1 ⟨pLD, false, 8, 8⟩ 0 8 up up 0x20000100 (at1 0x100 8) .sram ∧ ReadsNow .a (at1 0x100 8) .sram 8 up ∧
      LoadGives .a false .sram (at1 0x100 8) 8 0x20000100 false up (.int 0x1122334455667788) up) ∧
    (∀ line ∈ [0x800004, 0x800005], Issues .a .plain (upResv line) (upResv line) ∧
      Passes .a .store .lrsc 1 ⟨pST, false, 8, 8⟩ 0 8 (upResv line) (upResv line) 0x20000100 (at1 0x100 8) .sram ∧
      (targetTag .a 0x4000020 true 0x20000100).run (upResv line) = .ok () (upResv line) ∧
      joinsNow .a [⟨0x20000100, bytesOf 8 7, .whole .int⟩] ((upResv line).modCpu .a fun c => { c with resv := none })) ∧
    ((upResv 0x800004).cpu .a).resv = some (0x20000100 / 64) ∧ ((upResv 0x800005).cpu .a).resv ≠ some (0x20000100 / 64) := by
  refine ⟨⟨passes_of (by decide +kernel), ⟨by decide +kernel, by decide +kernel, by decide +kernel⟩,
    load_gives rfl (by decide +kernel) (by decide +kernel) (by decide +kernel)⟩, fun line hl => ⟨issues_of ?_, passes_of ?_, run_of ?_, joins_now ?_⟩,
    by decide +kernel, by decide +kernel⟩ <;> (revert line; decide +kernel)

/-- A persistent word that holds data, through c1, and the state once TAS has read it. -/
def upTas : State :=
  let s := upWith fun c => c.setLk (c.lk.setC 1 (Cap.root 0x40000000 0x4000000 (pLD + pST) 0x40000000))
  { s with spk := { s.spk with array := [(0, .int 6)] } }
def upTasRead : State := left (readOne .a .spenik false 0x8000000 0x40000000) (upTas.drainAll .a)

theorem wit_tas :
    (Issues .a .plain upTas upTas ∧
      Passes .a .store .tas 1 ⟨pLD + pST, false, 8, 8⟩ 0 8 upTas upTas 0x40000000 ⟨0x40000000, 8, 0⟩ .spenik ∧
      (((upTas.drainAll .a).cpu .a).sb = []) ∧ (readOne .a .spenik false 0x8000000 0x40000000).run (upTas.drainAll .a) = .ok () upTasRead ∧
      upTasRead.memWord 0x8000000 = .int 6 ∧ (∃ k, upTasRead.spk.ledgerAdmit .a (persistentWords [0x8000000]) = some k)) ∧
    (Passes .a .store .tas 1 ⟨pLD + pST, false, 8, 8⟩ 0 8 upDev upDev 0x80080100 ⟨0x80080100, 8, 0⟩ (.dev 8) ∧ upDev.devBusy 8 = false) :=
  ⟨⟨issues_of (by decide +kernel), passes_of (by decide +kernel), by decide +kernel, run_of (by decide +kernel), by decide +kernel,
    Option.isSome_iff_exists.mp (by decide +kernel)⟩, passes_of (by decide +kernel), by decide +kernel⟩

theorem wit_fences : ((up.drainAll .a).cpu .a).sb = [] ∧ ((up.drainAll .a).cpu .a).ring = (up.cpu .a).ring ∧
    ((up.spk.close .a).uncommitted .a = false) ∧
    (let s : State := { up with spk := { up.spk with closed := [⟨.a, .waiting, 0, [], [], 0, 0⟩] } }; (s.spk.close .a).uncommitted .a = true) := by
  decide +kernel

/-! Calls, returns, exceptions. -/

/-- The same in ring 1, with a wicket capability of ring 0 in c4, a resumption capability in c5, and ESTAT marked VALID. -/
def upRing1 : State := upWith fun c =>
  let code := pLD + pEX + pLDC
  let l := { c.lk with pcc := (Cap.root 0x20000000 0x400000 code 0x20000000).setRing 1, estat := .int 0xA000000000010300 }
  c.setLk ((l.setC 4 ((Cap.root 0x20000000 0x400000 code 0x20000200).sealWith 0x38)).setC 5
    (((Cap.root 0x20000000 0x400000 code 0x20000300).setRing 1).sealWith 0x3F))

/-- Two bits of locker 0's saved state are wrong. -/
def wrongSaved : State := { up with upset := [⟨.saved .a 0, 2⟩] }

theorem wit_wickets_and_eret : Issues .a .ring upRing1 upRing1 ∧
    goodTarget (upRing1.c .a 4) (upRing1.cpu .a).ring (fun n => decide (0x38 ≤ n ∧ n ≤ 0x3E)) (fun r cur => decide (r < cur)) ∧
    goodTarget (upRing1.c .a 5) (upRing1.cpu .a).ring (fun n => decide (n = 0x3F)) (fun r cur => decide (cur ≤ r)) ∧
    (upRing1.cpu .a).lk.estat.bits.getLsbD 63 = true ∧ (upRing1.cpu .a).lk.estat.bits.getLsbD 61 = true ∧
    (up.cpu .a).lk.estat.bits.getLsbD 63 = false ∧ Issues .a .ring up up ∧ savedGood upRing1 .a 0 ∧ ¬ savedGood wrongSaved .a 0 := by
  refine ⟨issues_of (by decide +kernel), ?_, ?_, by decide +kernel, by decide +kernel, by decide +kernel, up_issues.2.2.2, ?_, ?_⟩ <;>
    (simp only [goodTarget, savedGood]; decide +kernel)

/-- A vector shadow whose entries 1, 0x10 and 0x24 lead to locker 1, with STK, 16 cycles of glide, and entry 1's first block held. -/
def vec1 : VecEnt :=
  { bad := false, held := none, handler := Cap.root 0x20000000 0x400000 (pLD + pEX) 0x20001000,
    stack := Cap.root 0x20000000 0x400000 (pLD + pST) 0x20002000, ctl := .int 0x8000000000110010 }
def vecHeld : VecEnt := { vec1 with held := some (⟨.insn, 5⟩, ⟨.insn, 6⟩) }
def upVec : State := upWith fun c =>
  { c with vtab := 1, shadow := [(1, some vecHeld), (2, some { vec1 with bad := true }), (0x10, some vec1), (0x24, some vec1)] }
def wrongShadow : State := { upVec with upset := [⟨.shadow .a 1, 2⟩] }

theorem checked_ok {x : Except Nat (VecEnt × Nat)} {v : VecEnt × Nat} (h : x.toOption = some v) : x = .ok v := by
  cases x <;> simp_all [Except.toOption]

theorem checked_bad {x : Except Nat (VecEnt × Nat)} {d : Nat} (h : (match x with | .error e => some e | .ok _ => none) = some d) :
    x = .error d := by
  cases x <;> simp_all

theorem wit_exceptions : entryCheck upVec .a 1 false = .ok (vecHeld, 1) ∧ entryCheck upVec .a 0x10 true = .ok (vec1, 1) ∧
    entryCheck upVec .a 2 false = .error vINVALID ∧ entryCheck upVec .a 3 false = .error vINVALID ∧ (upVec.cpu .a).dfActive = false ∧
    (upVec.cpu .a).entering = none ∧ (⟨1, 0x15, 3, 0, false, 0⟩ : Exc) ≠ Exc.waits ∧
    ((upVec.modCpu .a fun c => { c with entering := some (1, 0x15) }).cpu .a).entering = some (1, 0x15) ∧
    ((upVec.modCpu .a fun c => { c with dfActive := true }).cpu .a).dfActive = true ∧
    (∀ n, savedGood upVec .a n) ∧ shadowGood upVec .a 1 ∧ shadowGood upVec .a 0x10 ∧ ¬ shadowGood wrongShadow .a 1 := by
  have h : upVec.upset = [] := by decide +kernel
  refine ⟨checked_ok (by decide +kernel), checked_ok (by decide +kernel), checked_bad (by decide +kernel), checked_bad (by decide +kernel),
    ?_⟩
  simp only [savedGood, shadowGood, State.wrong, h, List.find?_nil, Nat.zero_le, implies_true, true_and]
  decide +kernel

/-- A source that is seen, enabled for tandem A at level 3. -/
def upIrq : State := { upVec with irt := { upVec.irt with seen := [(4, true)], route := [(4, 0x80010003)] } }

theorem wit_entries_without_a_word : upIrq.presented .a = some (4, 3) ∧ (upIrq.cpu .a).cpl.toNat < 3 ∧ (upIrq.cpu .a).run = .running ∧
    (upIrq.cpu .a).slot = none ∧ (upIrq.cpu .a).wait = .none ∧ (upIrq.cpu .a).glide = 0 ∧ (upIrq.cpu .a).dfActive = false ∧
    upIrq.clk.crystal = true ∧ ((upIrq.modCpu .a fun c => { c with glide := 5 }).cpu .a).glide ≠ 0 ∧
    (let s := upIrq.modCpu .a fun c => { c with cpl := 3 }; 3 ≤ (s.cpu .a).cpl.toNat ∧ s.presented .a = some (4, 3)) ∧
    (translate .a .fetch .none (up.cpu .a).ring (up.pc .a) 1).run up = .ok (at1 0 1, .sram) up ∧ (0 : Fin 8).val = up.memGroup (0x20000000 / 8) ∧
    (4 : Fin 8).val ≠ up.memGroup (0x20000000 / 8) :=
  by and_intros <;> first | decide +kernel | exact run_of (by decide +kernel)

/-! System registers, frames, translation. -/

theorem wit_system_registers : savedGood up .a 0 ∧ sregOn .a 0x040 = true ∧ sregOn .a 0xFFF = false ∧ sregOn .g 0x100 = false ∧ (up.cpu .a).sys = true ∧
    (∃ row ∈ plainReads up .a, row.1 = 0x188) ∧ (∃ row ∈ plainWrites .a 0, row.1 = 0x105) ∧ mayWrite up .a 0x0C0 ∧ privileged up .a ∧
    (upRing1.cpu .a).sys = false ∧ (0xF : W64).toNat % 16 = 15 ∧ (0x11F : W64).toNat % 2 ^ 9 ≤ 0x11F ∧
    (up.cpu .a).lk.lkrsv.bits.getLsbD 0 = false := by
  unfold mayWrite privileged savedGood; decide +kernel

/-- Tables at both ends of the SRAM and of the store, and one that does not fit. -/
theorem wit_vector_table : tableFits (tableBase 0x20000001) ∧ tableFits 0x203FB800 ∧ ¬ tableFits 0x203FB840 ∧ tableFits 0x40000000 ∧
    ¬ tableFits 0x1FFFFFC0 ∧ (0x20000001 : W64).toNat / 2 % 32 = 0 ∧ (0x20000003 : W64).toNat / 2 % 32 ≠ 0 ∧
    (0x20000001 : W64).getLsbD 0 = true := by
  unfold tableFits tableBase; decide +kernel

/-- A pending fill at the stack capability of c14, and a valid frame. -/
def upFrame : State := upWith fun c => c.setLk { (c.lk.setC 14 (Cap.root 0x20000000 0x400000 (pLD + pST + pLDC + pSTC) 0x20001000)).setC 15
  (Cap.root 0x20000000 0x400000 pLD 0) with lkrsv := .int 0x20001001 }

/-- What c14 reaches, and the words that each part of the frame's fill meets: the fill and the load that follows it both complete. -/
theorem wit_frames : Issues .a .plain upFrame upFrame ∧ (upFrame.cpu .a).lk.lkrsv.bits.getLsbD 0 = true ∧
    frameReached upFrame .a (pST + pSTC) 64 0x20001000 ∧ frameReached upFrame .a (pLD + pLDC) 56 0x20001000 ∧
    fine (frameFill .a) upFrame = true ∧ ((left (frameFill .a) upFrame).cpu .a).lk.lkfrm.bits.getLsbD 0 = true ∧
    ((left (frameFill .a) upFrame).cpu .a).sb.length = 7 ∧ fine (frameLoad .a) (left (frameFill .a) upFrame) = true ∧
    (up.cpu .a).lk.lkrsv.bits.getLsbD 0 = false ∧ (up.cpu .a).lk.lkfrm.bits.getLsbD 0 = false := by
  refine ⟨issues_of (by decide +kernel), by decide +kernel, ?_, ?_, by decide +kernel⟩ <;> (simp only [frameReached]; decide +kernel)

/-- Items of a frame that a fill translates and a load reads. -/
theorem wit_frame_items : (∃ es s', ItemsFit .a [(0x20000100, .int 7)] up es s') ∧ ∃ vs s', ItemsLoaded .a [0x20000100] up vs s' :=
  ⟨⟨_, up, at1 0x100 8, .sram, up, up, [], run_of (by decide +kernel), .inl ⟨rfl, run_of (by decide +kernel)⟩, rfl, rfl, rfl⟩,
    _, up, at1 0x100 8, .sram, up, up, .int 0x1122334455667788, up, [], run_of (by decide +kernel), run_of (by decide +kernel),
    load_gives rfl (by decide +kernel) (by decide +kernel) (by decide +kernel), rfl, rfl, rfl⟩

/-- A staged legal entry of 4 KiB; a locked and an unlocked entry; two entries for one address. -/
def ent1 : TlbEnt := ⟨0x0080C00020000000, 0x20000300⟩
def upTlb : State := upWith fun c =>
  { c with tlbhi := .int ent1.hi, tlblo := .int 0x20000300, tlb := [(0, some { ent1 with hi := ent1.hi ||| 0x0020000000000000 }), (3, some ent1)] }

theorem locked_at {c : Cpu} {i : Nat} (h : (tget none c.tlb i).any (fun e => e.hi.getLsbD 53) = true) : ¬ unlockedAt c i := by
  intro hu
  cases ht : tget none c.tlb i with
  | none => simp [ht] at h
  | some e => simp [ht] at h; exact absurd (hu e ht) (by simp [h])

theorem unlocked_at {c : Cpu} {i : Nat} (h : (tget none c.tlb i).all (fun e => !e.hi.getLsbD 53) = true) : unlockedAt c i := by
  intro e he
  simpa [he] using h

theorem wit_tlb : Issues .a .plain upTlb upTlb ∧ privileged upTlb .a ∧ ¬ privileged upRing1 .a ∧ (upTlb.cpu .a).tlbhi.isData = true ∧
    (upTlb.cpu .a).tlblo.isData = true ∧ entryLegal ent1.hi ent1.lo ∧ ¬ entryLegal 0 0 ∧ unlockedAt (upTlb.cpu .a) ((0 + 1) % 128) ∧
    ¬ unlockedAt (upTlb.cpu .a) 0 ∧ tget none (upTlb.cpu .a).tlb 3 = some ent1 ∧ tget none (upTlb.cpu .a).tlb 127 = none ∧
    (upTlb.g .a 1).bits.toNat ≤ 127 ∧ 127 < (upTlb.g .a 4).bits.toNat ∧ upTlb.wrong (.tlb .a 7) ≤ 1 ∧
    1 < ({ upTlb with upset := [⟨.tlb .a 7, 2⟩] } : State).wrong (.tlb .a 7) := by
  refine ⟨issues_of (by decide +kernel), ?_⟩
  and_intros
  all_goals first | exact unlocked_at (by decide +kernel) | exact locked_at (by decide +kernel) | decide +kernel | (unfold privileged; decide +kernel) | (unfold entryLegal; decide +kernel)

/-- A TLB whose every entry is locked. -/
def upLocked : State := upWith fun c =>
  { c with tlb := (List.range 128).map fun i => (i, some { ent1 with hi := ent1.hi ||| 0x0020000000000000 }) }

theorem wit_tlb_look : (∀ i, (upTlb).wrong (.tlb .a i) ≤ 1) ∧ (upTlb.cpu .a).matches 0 0x20000000 ≠ [] ∧ (up.cpu .a).matches 0 0x20000000 = [] ∧
    2 ≤ ((upLocked.cpu .a).matches 0 0x20000000).length ∧ (∀ i, i < 128 → ¬ unlockedAt (upLocked.cpu .a) i) :=
  ⟨fun i => by simp [State.wrong, (by decide +kernel : upTlb.upset = [])], by decide +kernel, by decide +kernel, by decide +kernel, fun i hi => locked_at ((by decide +kernel : ∀ i, i < 128 →
    (tget none (upLocked.cpu .a).tlb i).any (fun e => e.hi.getLsbD 53) = true) i hi)⟩

/-- Tandem A in the mapped state, with these entries in its micro-DTLB and its unified TLB. -/
def upMapped (micro uni : List TlbEnt) : State := upWith fun c =>
  { c with xctl := 1, dtlb := micro, tlb := (List.range uni.length).zip (uni.map some) }

/-- A mapping of the SRAM that a main tandem may load from and not store to. -/
def entRo : TlbEnt := ⟨ent1.hi, 0x20000301⟩

theorem wit_translation : (up.cpu .a).xctl.getLsbD 0 = false ∧
    regionFault .data .sram 0 8 0x20000000 = none ∧ up.regionOf .g 0x20000100 8 = some .sram ∧ up.regionOf .a 0x20000100 8 = some .sram ∧
    ((upMapped [ent1] []).cpu .a).xctl.getLsbD 0 = true ∧
    (∀ l u e i, (upMapped l u).wrong (.itlb .a e) = 0 ∧ (upMapped l u).wrong (.dtlb .a e) = 0 ∧ (upMapped l u).wrong (.tlb .a i) = 0) ∧
    [ent1].filter (covers ((upMapped [] []).cpu .a) 0x20000100) = [ent1] ∧ firstFault (pageRows .load 0 0x20000100 ent1) = none ∧
    firstFault (pageRows .store 0 0x20000100 entRo) = some ⟨6, 0x54, 3, 2, false, 0x20000100⟩ ∧
    0x20000100 % 2 ^ (ent1.hi.toNat / 2 ^ 44 % 2 ^ 6) + 8 ≤ 2 ^ (ent1.hi.toNat / 2 ^ 44 % 2 ^ 6) ∧
    (((upMapped [] [ent1]).cpu .a).tlb.filterMap (·.2)) = [ent1] ∧ (((upMapped [] [ent1, entRo]).cpu .a).tlb.filterMap (·.2)).length = 2 := by
  and_intros
  any_goals decide +kernel
  intro l u e i
  have h : (upMapped l u).upset = up.upset := by unfold upMapped upWith; generalize up = s; rfl
  simp [State.wrong, h, (by decide +kernel : up.upset = [])]

/-- The first failing check of Table 5-8 gives the fault: an UNWRITTEN register before all others, bounds before alignment. -/
theorem test_access_order :
    firstFault (accessRows (up.c .a 9) 0 9 ⟨pLD, false, 8, 8⟩ 0) = some ⟨0, 1, 1, 9, false, 0⟩ ∧
    firstFault (accessRows (up.c .a 1) 0 1 ⟨pLD, false, 16, 16⟩ (2 ^ 44 + 1)) = some ⟨1, 0x14, 3, 0, false, 1⟩ ∧
    firstFault (accessRows (up.c .a 1) 0 1 ⟨pLD, false, 16, 16⟩ 0x20000101) = some ⟨1, 0x15, 3, 0, false, 0x20000101⟩ ∧
    firstFault (accessRows (up.c .a 1) 0 1 ⟨pLD, false, 8, 1⟩ 0x20000100) = none := by decide +kernel

/-! The scheduler. -/

/-- An enabled scheduler: context 2 runs in locker 0, 3 is ready and resident in locker 1, 4 is blocked, 5 is faulted. -/
def upSch (pri : Nat) : State :=
  let x (st : CtxState) (p : Nat) (r : Option (Fin 8)) : Ctx := { Ctx.reset with st := st, pri := p, res := r }
  up.setSch .a { Sch.reset with
    en := true, lkmask := 3, slice := 1, running := some 2, runlk := 0,
    ctx := [(2, x .running 1 (some 0)), (3, x .ready pri (some 1)), (4, x .blocked 1 none), (5, x .faulted 1 none)], queue := [3] }

theorem wit_scheduler_instructions : Issues .a .long (upSch 1) (upSch 1) ∧ Issues .a .plain (upSch 1) (upSch 1) ∧ actsAs (upSch 1) .a 2 ∧
    (∀ j, ¬ actsAs up .a j) ∧ (∃ r ∈ ((upSch 1).sch .a).queue, (((upSch 1).sch .a).getCtx 2).pri ≤ (((upSch 1).sch .a).getCtx r.val).pri) ∧
    (∀ r ∈ ((upSch 0).sch .a).queue, (((upSch 0).sch .a).getCtx r.val).pri < (((upSch 0).sch .a).getCtx 2).pri) ∧
    (((upSch 1).sch .a).getCtx 2).pend = false ∧ ((upSch 1).sch .a).en = true ∧ (((upSch 1).sch .a).getCtx 4).st = .blocked ∧
    (((upSch 1).sch .a).getCtx 3).st = .ready ∧ (((upSch 1).sch .a).getCtx 63).st = .free ∧ (((upSch 1).sch .a).getCtx 5).st = .faulted ∧
    ((upSch 1).sch .a).running ≠ some 4 ∧ ((upSch 1).c .a 3).st = .valid ∧ ((upSch 1).c .a 3).sealed = false ∧
    ((upSch 1).c .a 3).has pEX = true ∧ privileged (upSch 1) .a ∧ ¬ privileged upRing1 .a := by
  refine ⟨issues_of (by decide +kernel), issues_of (by decide +kernel), ?_⟩
  unfold actsAs privileged; decide +kernel

theorem wit_scheduler_switches : (let s := upSch 2; let h := s.sch .a; let c := s.cpu .a
    h.running = some 2 ∧ h.best = some 3 ∧ h.en = true ∧ c.run = .running ∧ s.clk.crystal = true ∧ c.slot = none ∧ c.wait = .none ∧ c.cpl = 0 ∧ c.glide = 0 ∧
    c.cur = h.runlk ∧ (h.getCtx 2).st = .running ∧ (h.getCtx 3).res = some 1 ∧ (h.getCtx 2).pri < (h.getCtx 3).pri ∧ h.slice ≠ 0) ∧
    (let h := (upSch 1).sch .a; h.best = some 3 ∧ (h.getCtx 2).pri = (h.getCtx 3).pri) ∧
    (let v : BitVec 32 := 0x80010A05; reaches up .a blkSCHA ∧ up.schA.en = false ∧ reaches (upSch 1) .a blkSCHA ∧ (0x0A : Fin 64).val = v.toNat / 2 ^ 8 % 64 ∧ v.getLsbD 31 = true ∧
      (BitVec.ofNat 8 (v.toNat / 2 ^ 16)).getLsbD (up.cpu .a).cur.val = true ∧ (up.cpu .a).cpl = 0 ∧ (up.schA.getCtx 10).st = .free) ∧
    (let v : BitVec 32 := 0x80020A05; v.getLsbD 31 = true ∧ (BitVec.ofNat 8 (v.toNat / 2 ^ 16)).getLsbD (up.cpu .a).cur.val = false) := by
  simp only [reaches]; decide +kernel

/-! The router, the counter array, panel I/O, registers. -/

/-- Tandem B runs too, and context 7 of scheduler A is bound to source 9. -/
def upRt : State :=
  let s := (up.modCpu .g fun c => { c with run := .running }).setSch .a { Sch.reset with en := true, bind := [(9, 0x80000007)] }
  { s with irt := { s.irt with seen := [(9, true)], route := [(9, 0x80010000), (10, 0x80030001)] } }

theorem wit_router : reaches upRt .a blkIRT ∧ reaches upRt .g blkIRT ∧ upRt.clk.crystal = true ∧
    ({ upRt with clk := { upRt.clk with crystal := false } } : State).clk.crystal = false ∧ routeNames 0x80040000 .g = true ∧
    routeNames (upRt.routeOf 9) .g = false ∧ ¬ (208 ≤ (207 : Fin 256).val ∧ (207 : Fin 256).val < 216) ∧
    (208 ≤ (208 : Fin 256).val ∧ (215 : Fin 256).val < 216) ∧ (0x5C1A0100 : BitVec 32).toNat / 2 ^ 16 = 0x5C1A ∧
    upRt.boundTo .a 9 = some 7 ∧ upRt.isPending .a 9 = true ∧ tget false (upRt.irt.woken .a) 9 = false ∧ upRt.boundTo .a 10 = none := by
  simp only [reaches]; decide +kernel

/-- Channel 0 counts alone; 16 decodes quadrature, 17 times a pulse; group D is gated. -/
def upCta : State :=
  { up with
      cta := [(0, { Chan.reset with ctl := 0x80000000, reload := 9 }), (16, { Chan.reset with ctl := 0x98000000 }),
        (1, { Chan.reset with ctl := 0x00010000 }), (17, { Chan.reset with ctl := 0x00010000, opened := true })],
      pio := { up.pio with en := 1 },
      clk := { up.clk with gated := up.clk.gated ||| (1#60 <<< 54) } }

theorem wit_counters : reaches upCta .a blkCTA ∧ upCta.chanHeld 0 = false ∧ upCta.chanHeld 24 = true ∧
    (upCta.chan 16).mode = 3 ∧ (upCta.chan 0).mode ≠ 3 ∧ (upCta.chan 1).capedge = 1 ∧ (upCta.chan 0).capedge = 0 ∧
    (upCta.chan 17).capedge = 1 ∧ (upCta.chan 17).opened = true ∧ upCta.wrd.mode ≠ .runOut ∧ (upCta.chan 16).a = false ∧
    inputPin upCta 0 = true ∧ inputPin upCta 511 = false ∧ ({ upCta with wrd := { upCta.wrd with mode := .runOut } } : State).wrd.mode = .runOut ∧
    ∀ j, j < 32 → alone (up.chan j) := by
  simp only [alone, reaches]; decide +kernel

/-- A reserved MODE, CASCADE on channel 0, QUAD below 16, a channel its own master, and values at the ends of the ranges. -/
theorem wit_counter_values : ctlIgnored 31 0xA8000000 ∧ ctlIgnored 0 0x90000000 ∧ ctlIgnored 15 0x98000000 ∧ ctlIgnored 1 0x80100000 ∧
    ctlIgnored 16 0x00030000 ∧ ¬ ctlIgnored 1 0x90000000 ∧ ¬ ctlIgnored 16 0x98000000 ∧ ¬ ctlIgnored 31 0 := by
  and_intros <;> simp [ctlIgnored]

/-- Bank 0 enabled at 1.8 V with a debounced pin 0, a key entry waiting, and scanning on. -/
def upPio : State :=
  { up with pio := { up.pio with
      en := 1, fifo := [0x80000001], cfg := [(0, 1)], scfg := 0x8000000000000001, scans := 1, pwmEff := [(0, 0x8000000000000002)] } }

theorem wit_panel : reaches upPio .a blkPIO ∧ upPio.clk.crystal = true ∧ up.pio.fifo = [] ∧ upPio.pio.fifo = [0x80000001] ∧ (1 : W64).toNat % 2 ^ 16 < 2 ∧
    2 ≤ (2 : W64).toNat % 2 ^ 16 ∧ upPio.pio.en.getLsbD 0 = true ∧ upPio.pio.en.getLsbD 15 = false ∧ upPio.pio.func 0 = 1 ∧
    upPio.pio.func 31 ≠ 1 ∧ upPio.pio.scfg = 0x8000000000000001 ∧ (0x8000000000000001 : W64).toNat % 2 ^ 8 ≤ upPio.pio.scans ∧
    up.scans = false := by
  simp only [reaches]; decide +kernel

theorem wit_panel_scans : ∃ c : W64, ({ up with pio := { up.pio with scfg := c } } : State).scans = true :=
  ⟨0xFFFFFFFFFFFFFFFF, by decide +kernel⟩

/-- A command under way on port B in 8D mode that reads 16 bytes, with INV; and c1 at the window of port B. -/
def upXsp : State :=
  let s := upWith fun c => c.setLk (c.lk.setC 1 (Cap.root 0x180000000 0x400000 pLD 0x180000000))
  { s with xsp := { s.xsp with b := { s.xsp.b with mode := 2, cap := 2 }, busy := true, run := 0x60010000 } }

theorem wit_registers : reaches up .a 1 ∧ up.acc .b 1 = false ∧ (3 : BitVec 16).toNat % 4 ≠ 0 ∧ reaches up .a blkXSP ∧
    (0x80000000 : BitVec 32).getLsbD 31 = true ∧ cmdRefused upXsp .a 0 ∧ ¬ cmdRefused up .a 0x80100000 ∧ cmdRefused up .a 0x80101000 ∧
    upXsp.xsp.busy = true ∧ upXsp.clk.crystal = true ∧ (if upXsp.xsp.run.getLsbD 29 then upXsp.xsp.b.mode else upXsp.xsp.a.mode) = 2 ∧
    upXsp.xsp.run.getLsbD 30 = true ∧ upXsp.xsp.run.getLsbD 27 = false ∧ 0 < upXsp.xsp.run.toNat / 2 ^ 12 % 2 ^ 9 ∧ up.xsp.busy = false ∧
    ((0xA0000000 : BitVec 32).getLsbD 29 && ({ up with clk := { up.clk with gated := 1#60 <<< 22 } } : State).gated 22) = true := by
  simp only [reaches, cmdRefused]; decide +kernel

/-- A window access that misses on a port in 8D mode, and one on a port in another mode. -/
theorem wit_strobe_misses : Issues .a .plain upXsp upXsp ∧
    (translate .a .load .none (upXsp.cpu .a).ring 0x180000000 1).run upXsp = .ok (⟨0x180000000, 1, 0⟩, .winB) upXsp ∧
    upXsp.windowMiss .a .winB (0x180000000 / 8) = some .b ∧ (upXsp.xsp.port .b).mode = 2 ∧ (upXsp.xsp.port .b).winoff = false ∧
    upXsp.windowMiss .a .sram (0x20000100 / 8) = none :=
  ⟨issues_of (by decide +kernel), run_of (by decide +kernel), by decide +kernel⟩

/-- An access that older stores hold back, and one to a block whose unit is in reset. -/
theorem wit_accesses_that_wait : upDevBuf.acc .a blkCTA = true ∧ (upDevBuf.cpu .a).sb ≠ [] ∧ ((upDevBuf.drainAll .a).cpu .a).sb = [] ∧
    (let s := { up with clk := { up.clk with urst := 0x7FF } }; s.acc .a blkCTA = true ∧ s.devBusy blkCTA = true ∧
      ((blkUnits blkCTA).foldl State.urstEnd (s.drainAll .a)).acc .a blkCTA = true) := by decide +kernel

/-- Installed DRAM with fresh blocks, and with none. -/
def upDram (fresh : List (Nat × Nat)) : State := { up with drc := { up.drc with a := { up.drc.a with dens := 1, ready := true }, fresh := fresh } }

theorem wit_dram : (upDram []).dramSize = 2 ^ 30 ∧ up.dramSize = 0 ∧ (upDram [(0, 2), (5, 6)]).drc.fresh = (0, 2) :: [(5, 6)] ∧ (0 : Nat) < 2 ∧
    (∀ q ∈ [(5, 6)], 0 < q.1) ∧ (upDram []).drc.a.ready = true ∧ (upDram []).drc.a.sref = false ∧
    ({ up with clk := { up.clk with crystal := false } } : State).clk.crystal = false := by decide +kernel

/-! The groomer and the Spenik store. -/

/-- Released, and not. -/
def booting0 : State := { up with gate := { up.gate with released := false } }

/-- Frame 0 is worn; frame 1 moves to spare 16384. -/
def upGrm : State := { up with grm := { up.grm with cur := { up.grm.cur with wf := [(0, 2 ^ 26 + 1)] } } }
def upMove : State := { up with grm := { up.grm with moving := some (1, 16384) } }
/-- A spare is worn beyond the least worn frame in use. -/
def upCold : State := { up with grm := { up.grm with cur := { up.grm.cur with wf := [(16385, 2 ^ 28 + 1)] } } }

theorem wit_groomer : upGrm.grm.moving = none ∧ leastWorn upGrm.grm.cur.w upGrm.grm.freeSpares = some 16384 ∧
    upGrm.grm.cur.w 16384 + 2 ^ 26 < upGrm.grm.cur.w (upGrm.grm.cur.phys 0) ∧ upMove.grm.moving = some (1, 16384) ∧
    mostWorn upCold.grm.cur.w upCold.grm.freeSpares = some 16385 ∧ upCold.grm.cur.w (upCold.grm.cur.phys 0) + 2 ^ 28 < upCold.grm.cur.w 16385 ∧
    up.scrubOn .sram = true ∧ State.reset.scrubOn .sram = false ∧ (up.setScrubbing .spenik true).scrubbing .spenik = true ∧
    up.scrubbing .sram = false ∧ ScrubMem.sram.patrols = false ∧ ScrubMem.tcm.patrols = true ∧ up.drc.a.size = 0 ∧ groomerWorks up ∧
    ¬ groomerWorks State.reset ∧ up.gate.released = true ∧ (booting0.gate.released = false) ∧ up.grm.day ≠ 0xFFFFFF ∧
    (0xFFFFFF : W64).toNat % 2 ^ 24 = 0xFFFFFF ∧ reaches up .a blkGRM ∧
    up.grm.cur.cdate = none ∧ up.lifecycle ≠ some 2 := by
  simp only [groomerWorks, reaches]; and_intros <;> decide +kernel

/-- A pass that meets a corrected and an uncorrected error. -/
theorem wit_scrubs : (let s := { up with upset := [⟨.word 0x4000020, 1⟩, ⟨.word 0x4000021, 2⟩] };
    s.scrubs .sram (.word 0x4000020) = true ∧ s.wrong (.word 0x4000020) ≤ (Site.word 0x4000020).limit ∧ s.inhibit = false ∧
    s.scrubs .sram (.word 0x4000021) = true ∧ (Site.word 0x4000021).limit < s.wrong (.word 0x4000021)) := by decide +kernel

theorem wit_groomer_least : upCold.grm.cur.w (upCold.grm.cur.phys 0) = upCold.grm.cur.minInUse := by decide +kernel

def ep (st : EpSt) (es : List LEntry) : Epoch := ⟨.a, st, 0, es, es, 2, es.length⟩
def upSpk (l : List Epoch) : State := { up with spk := { up.spk with closed := l } }

theorem wit_seals : (let s := upSpk [ep .waiting [⟨5, .int 1, 3⟩]];
      s.spk.closed = [] ++ ep .waiting [⟨5, .int 1, 3⟩] :: [] ∧ (ep .waiting []).st = .waiting ∧ epochsIn s .sealing = 0 ∧
      epochsIn s .marking = 0 ∧ s.spk.recs = [] ∧ s.inhibit = false ∧ (1 + 29) / 30 + 1 ≤ s.logFree) ∧
    epochsIn (upSpk [ep .sealing [], ep .waiting []]) .sealing ≠ 0 ∧ (∀ e ∈ (upSpk [ep .committed []]).spk.closed, e.st ≠ .waiting) ∧
    (let s := upSpk [ep .waiting [], ep .marking [⟨5, .int 1, 3⟩], ep .waiting []];
      (∀ x ∈ [ep .waiting []] ++ [ep .waiting []], x.st = .waiting) ∧ (s.cpu .a).wait ≠ .pfence) ∧
    (let s := upSpk [ep .committed [⟨5, .int 1, 3⟩]]; s.spk.superseded ⟨5, .int 1, 3⟩ = false ∧ s.spk.recs = [] ∧ s.wrd.mode ≠ .runOut ∧ s.sealDue = false ∧ s.clk.crystal = true) ∧
    (upSpk [ep .committed [⟨5, .int 1, 3⟩], ep .waiting []]).sealDue = true := by
  decide +kernel

/-- A record waits; RUN-OUT with and without its record; the moment before recovery. -/
theorem wit_records_and_recovery :
    (let r : WRec := ⟨2, 1, 0, 0, 0, 0⟩; let s : State := { up with spk := { up.spk with recs := [r] } };
      s.spk.recs = r :: [] ∧ s.inhibit = false ∧
      ({ s with wrd := { s.wrd with mode := .runOut }, spk := { s.spk with runoutRec := true }, us := 120 } : State).inhibit = true ∧
      s.runOutDue = false ∧ ({ s with wrd := { s.wrd with mode := .runOut } } : State).runOutDue = true) ∧
    (let s : State := { up with wrd := { up.wrd with mode := .runOut } }; s.wrd.mode = .runOut ∧ s.spk.runoutRec = false) ∧
    (up.spk.recovered = false ∧ up.gate.pgood = true ∧ 3 ≤ up.gate.step.val ∧ LedgerBad.mark .a ∉ [LedgerBad.mark .b]) := by decide +kernel

/-- No spare frame is free; some are; an apply in RUN-OUT that has and has not ended; a log with and without room to retire. -/
theorem wit_verify_failures : ({ up.grm with cur := { up.grm.cur with retired := (List.range 1520).map (· + 16384) } } : Grm).freeSpares = [] ∧
    up.grm.freeSpares ≠ [] ∧ up.grm.cur.logret < 64 ∧ (∃ c, 64 ≤ ({ up.grm.cur with logret := c } : GrmMeta).logret) ∧
    (let s : State := { up with wrd := { up.wrd with mode := .runOut }, spk := { up.spk with holdok := true, holdTrip := true } };
      ¬ (s.wrd.mode = .runOut ∧ (s.spk.runoutRec = true ∨ s.spk.holdok = false ∨ s.spk.holdTrip = false))) ∧
    hexBytes (txt "5AFF") = some [0x5A, 0xFF] ∧ (0 + 2 - 1) / 256 = 0 / 256 := by
  refine ⟨?_, fun h => ?_, by decide +kernel, ⟨64, by decide⟩, by decide +kernel, by decide +kernel, by decide⟩
  · have h : up.grm.cur.map = [] := by decide +kernel
    simp only [Grm.freeSpares, List.filter_eq_nil_iff, h]
    intro p hp
    simp [visFrames, poolEnd] at hp ⊢
    obtain ⟨k, hk, rfl⟩ := hp
    intro _ hr
    exact absurd rfl (hr k hk)
  · have : leastWorn upGrm.grm.cur.w up.grm.freeSpares = some 16384 := by decide +kernel
    rw [h] at this; simp [leastWorn] at this

/-- A write that fails its verify three times retires its frame, and the word takes its value in the least-worn spare (Table 14-1). -/
theorem test_verify_failure_retires_the_frame :
    (let s := up.arrayWrite 5 (.int 7) (.failed []);
      tget TWord.unwritten s.spk.array 5 = .int 7 ∧ s.grm.cur.retired = [0] ∧ s.grm.cur.w 0 = 3 ∧ s.irt.gevtRetire = true) := by decide +kernel

/-! The gatehouse, resets and the warden. -/

/-- Before release, at a step of the sequence, with tandem G running. -/
def booting (n : Fin 8) : State :=
  { State.reset with
      cpuG := { Cpu.reset with run := .running }, clk := { State.reset.clk with crystal := true }, gate := { State.reset.gate with pgood := true, step := n } }

/-- A 144-byte image without records, signed with RFC 6979's P-256 key, and its key's hash in the fuses. -/
def tinyImage : List Byte :=
  bytesBE 16 0x584d5801900000000700000100000000 ++
  bytesBE 32 0x60fed4ba255a9d31c961eb74c6356d68c049b8923b61fa6ce669622e60f29fb6 ++
  bytesBE 32 0x7903fe1008b8bc99a41ae9e95628bc64f2f1b20c2d7e9f5177a3c294d4462299 ++
  bytesBE 32 0xefd48b2aacb6a8fd1140dd9cd45e81d69d2c877b56aaf991c34d0ea84eaf3716 ++
  bytesBE 32 0x7409d809207805d4ddba134c4d12802d2d29e78f70b67b9b673fa05d6903ed9b
def imaged : State :=
  let s := booting 4
  { s with
      xsp := { s.xsp with a := { s.xsp.a with flash := (List.range 144).map fun i => (i, tinyImage.getD i 0) } },
      gate := { s.gate with order := [.a], shadow := [(16, 0xcb40a844273ec2d6), (17, 0x7cce4c55b6145a3a), (18, 0xb98c29e3c4570007),
        (19, 0x59e6ec7e68de7735)] } }

def verdict (s : State) : Option Nat := match s.verifyImage s.xsp.a with | .ok rs => if rs = [] then none else some 0 | .error e => some e.1

/-- The image verifies: SHA-256, the curve, the signature and the records (R123 to R131); without the key's hash it fails with
0x15. -/
theorem wit_images : verdict imaged = none ∧ verdict { imaged with gate := (booting 4).gate } = some 0x15 := by decide +kernel

theorem wit_gatehouse_steps : waitsAt (booting 3) 3 ∧ waitsAt (booting 4) 4 ∧ waitsAt (booting 5) 5 ∧ waitsAt (booting 6) 6 ∧ waitsAt (booting 7) 7 ∧
    (booting 3).gate.ferrBad = false ∧ (booting 3).lifecycle = some 0 ∧ (booting 4).gate.order = [] ∧ imaged.gate.order = [.a] ∧
    (booting 6).gate.cfgFail = false ∧ (booting 2).gate.pgood = true ∧ (booting 2).gate.step = 2 ∧ (booting 2).wrd.mode = .gatehouse ∧ (booting 2).clk.crystal = true ∧
    State.reset.gate.pgood = false ∧ (booting 7).us < (booting 7).gate.origin + 20000 ∧
    (let s := { booting 7 with us := 20000 }; s.gate.origin + 20000 ≤ s.us ∧ s.outcome.1 = 6 ∧ s.wrd.lostA = none) := by
  unfold waitsAt; decide +kernel

/-- A life-cycle state past BLANK, and a release with OUTCOME 1. -/
def ready1 : State :=
  let s := booting 7
  { s with
      us := 20000, spk := { s.spk with recovered := true },
      gate := { s.gate with shadow := [(8, 0xFF)], slot := some .a, recs := [⟨0, tENTRY, bytesOf 16 0x20000000⟩] } }

theorem wit_gatehouse_releases : ready1.lifecycle = some 1 ∧ ready1.outcome.1 = 1 ∧ ready1.wrd.lostA = none ∧ ready1.wrd.lostB = none ∧
    ready1.wrd.pendHold = none ∧ ready1.wrd.rcStopped = false ∧ ready1.gate.origin + 20000 ≤ ready1.us ∧ ready1.entryOf .a < 2 ^ 44 ∧
    waitsAt ready1 7 := by
  unfold waitsAt; decide +kernel

/-- A LOAD record of four bytes from erased flash to the SRAM, misread. -/
def load1 : Rec := ⟨0, tLOAD, [0, 0, 0, 0, 8, 0, 0, 0] ++ bytesOf 8 0 ++ bytesOf 8 0x20000000 ++ List.replicate 32 0⟩

theorem wit_loads_fail : ((State.runLoads (some 0) (recsOf tLOAD [load1]) 0 [] (booting 6)).2 = some [load1]) ∧
    ((State.runLoads none (recsOf tLOAD []) 0 [] (booting 6)).2 = none) := by decide +kernel

/-- Resets: a request for a warm reset, a drain, a unit in reset, RUN-OUT with its record written and VIN back. -/
theorem wit_resets :
    (let s : State := { up with clk := { up.clk with warmReq := some .cmdA } }; s.wrd.mode ≠ .gatehouse ∧ s.wrd.mode ≠ .runOut) ∧
    up.clk.warmReq = none ∧ up.clk.draining = false ∧ ({ up.clk with draining := true } : Clk).draining = true ∧ reaches up .a blkCLK ∧ up.wrd.gloss < 8 ∧
    8 ≤ ({ up.wrd with gloss := 8 } : Wrd).gloss ∧ up.wrd.rcStopped = false ∧ ({ up.wrd with rcStopped := true } : Wrd).rcStopped = true ∧
    (0x7A150001 : BitVec 32).toNat / 2 ^ 16 = 0x7A15 ∧ (0x7A150001 : BitVec 32).toNat % 4 = 1 ∧ (0x7A150002 : BitVec 32).toNat % 4 = 2 ∧
    (up.clk.urst.getLsbD (10 : Fin 11).val = false) ∧ ((0x400 : BitVec 11).getLsbD (10 : Fin 11).val = true) ∧
    ((8#60 <<< 51).getLsbD (51 + (31 : Fin 32).val / 8) = true) ∧ up.gate.pgood = true ∧ up.wrd.mode ≠ .runOut ∧
    (let s : State := { up with wrd := { up.wrd with mode := .runOut }, spk := { up.spk with runoutRec := true, vinok := true } }
     s.wrd.mode = .runOut ∧ s.spk.runoutRec = true ∧ s.spk.vinok = true) := by simp only [reaches]; decide +kernel

/-- The warden: a detection waits, one of each kind; the watchdog in its window and at its bounds; outputs that may toggle. -/
def upWrd (bit : Fin 18) : State :=
  { up with wrd := { up.wrd with
      arrived := [⟨bit, 0⟩], reducedEn := true, serveA := true, serveB := true, frec := 0x8000000000000000, pulses := true, patrol := true, knownA := true, knownB := true, closedA := true } }

theorem wit_warden : ((upWrd 0).cpu .a).run ≠ .held ∧ ((upWrd 0).cpu .b).run = .held ∧ (upWrd 7).wrd.arrived = [⟨7, 0⟩] ∧
    (upWrd 0).wrd.rcStopped = false ∧ (upWrd 0).wrd.holdCmd = false ∧ (5 : Fin 18) ∈ [(5 : Fin 18), 6, 11, 14, 16] ∧
    (17 : Fin 18) ∈ [(3 : Fin 18), 4, 17] ∧ (upWrd 0).wrd.mode = .run ∧ (upWrd 0).wrd.closedA ≠ (upWrd 0).wrd.closedB ∧
    (1 : Byte).toNat ∈ mechanisms ∧ (0 : Byte).toNat ∉ mechanisms ∧ (upWrd 0).wrd.demand = false ∧ up.outOk = false ∧ reaches up .a blkWRD ∧
    patrolRuns (upWrd 0) ∧ ¬ patrolRuns up ∧ ¬ blind (upWrd 0) ∧ (booting 3).wrd.mode = .gatehouse := by
  have h : (upWrd 0).wrd.pulseEnd = none := by decide +kernel
  simp only [reaches, patrolRuns, blind, h]
  simp
  decide +kernel

/-- A test pulse is low, with and without an injected fault of the pulses; one has just ended; two detections and a hold command
wait. -/
theorem wit_warden_states :
    (let s := wrd (upWrd 0) fun w => { w with taLow := true, injected := [0x1F] }; s.wrd.taLow = true ∧ patrolRuns s ∧ 0x1F ∈ s.wrd.injected ∧ blind s) ∧
    (let s := wrd (upWrd 0) fun w => { w with taLow := true }; s.wrd.taLow = true ∧ 0x1F ∉ s.wrd.injected) ∧
    (let s := wrd (upWrd 0) fun w => { w with pulseEnd := some 0 }; blind s) ∧
    (let s := wrd (upWrd 0) fun w => { w with arrived := [⟨5, 0⟩, ⟨9, 0⟩] }; s.wrd.arrived = [⟨5, 0⟩, ⟨9, 0⟩] ∧ s.wrd.mode = .run) ∧
    (let s := wrd (upWrd 0) fun w => { w with arrived := [], holdCmd := true }; s.wrd.arrived = [] ∧ s.wrd.holdCmd = true ∧ s.wrd.mode = .run) := by
  refine ⟨⟨by decide +kernel, ?_, by decide +kernel, .inl (by decide +kernel)⟩, by decide +kernel, .inr (.inr ⟨0, by decide +kernel, by decide +kernel⟩),
    by decide +kernel, by decide +kernel⟩
  simp only [patrolRuns]; decide +kernel

theorem wit_outputs : ∃ s : State, s.outOk = true :=
  ⟨{ up with wrd := { up.wrd with mode := .run, first := true, serveA := true, serveB := true }, clk := { up.clk with rootgood := true } },
    by decide +kernel⟩

theorem wit_watchdogs : up.wdRuns .a = true ∧ up.wdRuns .b = false ∧ (up.wrd.wd .a).effOpn * 100 ≤ (up.wrd.wd .a).us ∧
    (up.wrd.wd .a).us ≤ (up.wrd.wd .a).effClose * 100 ∧ (0xA5C3 : BitVec 32).toNat = (if (up.wrd.wd .a).next then 0x3C5A else 0xA5C3) ∧
    cfgAccepted Wd.reset 10 ∧ cfgAccepted Wd.reset 10000 ∧ ¬ cfgAccepted Wd.reset 9 ∧ ¬ cfgAccepted Wd.reset 10001 ∧
    ¬ cfgAccepted Wd.reset 0x000A000A ∧ cfgAccepted Wd.reset 0x0009000A ∧ ¬ offBy 600 600 ∧ ¬ offBy 622 600 ∧ offBy 623 600 ∧
    ¬ offBy 578 600 ∧ offBy 577 600 := by
  and_intros <;> first | decide +kernel | simp [cfgAccepted, Wd.reset] | simp [offBy]

/-! CAN, the tag, USB and the console. -/

/-- Controller A on the bus, mailbox 0 RAW with a frame pending, mailbox 1 SAFE2 with one half, mailbox 2 done. -/
def frame1 : CanFrame := { goodFrame with id := 5 }
def upCan (st : CanState) : State :=
  up.setCan .a { Can.reset with
    st := st, op := 2,
    mb := [(0, { Mbox.reset with st := .pend, frame := some frame1 }), (1, { Mbox.reset with cfg := 0x8000000000000000, st := .half, ha := true }),
      (2, { Mbox.reset with st := .done })] }

theorem wit_can : Claims.canBy (upCan .active) .a .a ∧ onWire (upCan .active) .a ∧ ((upCan .active).canA.getMb 0).st = .pend ∧
    ready (upCan .active).canA 0 ∧ ¬ ready (upCan .active).canA 1 ∧ (upCan .active).canA.onBus = true ∧ (upCan .active).canA.txing = none ∧
    ((upCan .active).canA.getMb 1).st = .half ∧ ((upCan .active).canA.getMb 31).st = .empty ∧ 4 ≤ ((upCan .active).canA.getMb 2).st.code ∧
    foreign ((upCan .active).canA.getMb 0) .b ∧ ¬ foreign ((upCan .active).canA.getMb 0) .a ∧ ¬ foreign ((upCan .active).canA.getMb 1) .b := by
  simp only [Claims.canBy, reaches, onWire, ready, foreign]; decide +kernel

theorem wit_can_dual_source : (let b := (upCan .active).canA.getMb 1;
      b.kind = 2 ∧ b.st = .half ∧ b.submitted .a = true ∧ b.submitted .b = false ∧ b.part .a 4 (b.n - 4) = b.part .b 4 (b.n - 4)) ∧
    (let b : Mbox := { Mbox.reset with cfg := 0xBFFFFFFFFFFFFFFF, dataA := (List.range 64).map fun i => (i, 1) }
     b.kind = 2 ∧ b.part .a 4 (b.n - 4) ≠ b.part .b 4 (b.n - 4)) ∧
    (upCan .active).wrd.mode = .run ∧ (upCan .active).wrd.rcStopped = false ∧ (0 : W64).toNat / 2 ^ 62 = 0 ∧ (upCan .active).wrd.esGates = false ∧
    ({ (upCan .active).wrd with esGates := true } : Wrd).esGates = true ∧
    (let s := { upCan .active with wrd := { up.wrd with mode := .runOut } }; s.canOn .a = true ∧ s.wrd.mode = .runOut ∧ ((s.can .a).getMb 0).st = .pend) := by decide +kernel

/-- A mailbox on the bus; every state of the controller; a filter that sends identifier 5 to the FIFO and 6 to connection 31. -/
theorem wit_can_states :
    (let s := (upCan .active).setCan .a { (upCan .active).canA with mb := [(0, { Mbox.reset with st := .tx, frame := some frame1 })] };
      s.canA.txing = some 0 ∧ s.canA.toMonitor = false) ∧
    (upCan .off).canA.st = .off ∧ (upCan .busOff).canA.st = .busOff ∧ (upCan .recovering).canA.st = .recovering ∧
    (upCan .integrating).canA.st = .integrating ∧ (upCan .integrating).canA.tec ≤ 127 ∧ (upCan .integrating).canA.toMonitor = false ∧ (∀ m, m < 32 → ((upCan .recovering).canA.getMb m).st ≠ .tx) ∧ (upCan .monitor).canA.onBus = false ∧
    ((upCan .active).canA.getRxc 31).st = .closed ∧ (upCan .active).canA.pexdis = false ∧ btOk 0 false = false := by decide +kernel

theorem wit_can_bit_timing : ∃ bt : W64, btOk bt false = true := ⟨0x10100FC1, by decide +kernel⟩

def upFlt (f : W64) : State := up.setCan .a { Can.reset with st := .monitor, flt := [(0, f)], rxc := [(31, { Rxc.reset with st := .live, dlc := 8 })] }

theorem wit_can_reception : (∃ f : W64, f.toNat / 2 ^ 61 % 4 = 0 ∧ (upFlt f).canA.filter frame1 = some 0) ∧
    (∃ f : W64, f.toNat / 2 ^ 61 % 4 = 2 ∧ f.toNat / 2 ^ 53 % 32 = 31 ∧ (upFlt f).canA.filter { frame1 with dlc := 8, data := List.replicate 8 0 } = some 0) ∧
    (upFlt 0).canA.filter frame1 = none ∧ ((upFlt 0).canA.getRxc 31).st = .live ∧ (8 : Nat) = dlcLen true 8 ∧
    (upFlt 0).gate.released = true ∧ frame1.rtr = false ∧ frame1.fdf = false :=
  ⟨⟨0x8000000000000000, by decide +kernel⟩, ⟨0xC3E0000000000000, by decide +kernel⟩, by decide +kernel⟩

/-- The tag in a field, the die released. -/
def upTag (t : TagState) : State := { up with nfc := { up.nfc with field := true, tag := t } }

theorem wit_tag : hears (upTag .ready) plainReq ∧ (upTag .ready).nfc.run = none ∧ up.tagOn = false ∧ (upTag .quiet).nfc.listens plainReq = false ∧
    ({ plainReq with codingOk := false } : NfcReq).codingOk = false ∧ hears (upTag .ready) { plainReq with lengthOk := false } ∧
    hears (upTag .ready) { plainReq with extFlag := true } ∧ hears (upTag .quiet) { plainReq with addressed := some true } ∧
    (upTag .ready).nfc.locked 4608 = false ∧ (upTag .ready).nfc.locked 4607 = true ∧ (255 : Byte).toNat + 1 ≤ 256 ∧ (0x1FFF : BitVec 16).toNat + 1 ≤ 8192 := by
  simp only [hears]; decide +kernel

theorem wit_tag_locks : ∃ l : BitVec 14, ({ (upTag .ready).nfc with locks := l } : Nfc).locked 0 = true := ⟨0x3FFF, by decide +kernel⟩

theorem wit_host_window : reaches up .a blkNFC ∧ up.clk.crystal = true ∧ up.gate.released = true ∧ booting0.gate.released = false ∧ up.nfcOn = true ∧ up.mirrors = true ∧ up.nfc.run = none ∧ up.nfc.lockbusy = false ∧
    State.reset.mirrors = false ∧ up.gate.slot = none ∧ (let h : HostCmd := ⟨false, 64, 8128⟩; h.count ≤ 64 ∧ h.start + h.count ≤ 8192) ∧
    (let h : HostCmd := ⟨true, 64, 8129⟩; 8192 < h.start + h.count) ∧ up.nfc.runAt = 0 := by
  simp only [reaches]; decide +kernel

/-- The compound device attached and configured at high speed, with port 1 enabled. -/
def upUsb (hs : Bool) : State :=
  { up with usb := { up.usb with
      pullup := true, vbus := true, atten := true, hs := hs, hubcfg := true, fncfg := true, served := true,
      ports := [(1, { Port.reset with st := .enabled }), (2, { Port.reset with st := .disconnected }), (3, { Port.reset with st := .resetting }),
        (4, { Port.reset with st := .enabled })] } }

theorem wit_usb_link : attached (upUsb true) ∧ awake (upUsb true) ∧ ¬ attached up ∧ hearsBus (upUsb true) .fn ∧ hearsBus (upUsb true) .hub ∧
    (awake (upUsb false) ∧ (upUsb false).usb.hs = false ∧ (upUsb false).usb.chirp = .none ∧
      ∀ p ∈ (upUsb false).usb.ports, p.2.st ≠ .resuming) ∧
    (upUsb true).usb.vbus = true ∧ (upUsb true).usb.kOut = false ∧ reaches (upUsb true) .a blkUSB ∧ mayPull (upUsb true) = true := by
  simp only [attached, awake, hearsBus, reaches, hubUp]; and_intros <;> decide +kernel

theorem wit_usb_port_one_off : (let s := { upUsb true with usb := { (upUsb true).usb with ports := [] } }; awake s ∧ ¬ hearsBus s .fn) ∧
    (let s := { upUsb true with usb := { (upUsb true).usb with ports := [(1, { Port.reset with st := .resuming })] } };
      ∃ p ∈ s.usb.ports, p.2.st = .resuming) ∧
    (let s := { upUsb true with usb := { (upUsb true).usb with susp := true, fnRwe := true } };
      attached s ∧ reaches s .a blkUSB ∧ s.usb.susp = true ∧ s.usb.fnRwe = true) := by
  simp only [attached, awake, hearsBus, reaches, hubUp]; and_intros <;> decide +kernel

theorem wit_usb_requests :
    (let w : Setup := ⟨0x80, 0, 0, 2⟩; w.wLength = 2 ∧ w.wValue = 0 ∧ w.bmRequestType = 0x80 ∧ w.wIndex = 0) ∧
    (let w : Setup := ⟨0x81, 0, 3, 2⟩; ¬ w.wIndex.toNat < interfaces .fn) ∧ (2 : BitVec 16).toNat < interfaces .fn ∧
    (let w : Setup := ⟨0x23, 8, 4, 0⟩; w.wIndex.toNat % 256 = 4 ∧ (upUsb true).usb.hubcfg = true) ∧
    (0x7F : BitVec 16).toNat < 128 ∧ (upUsb true).usb.report = [] ∧ (upUsb true).usb.testen = false ∧
    ((upUsb true).usb.port 2).st = .disconnected ∧ ((upUsb true).usb.port 3).st = .resetting := by decide +kernel

theorem wit_usb_ports_without_effect :
    (let s := { upUsb true with usb := { (upUsb true).usb with ports := [(3, { Port.reset with st := .disabled })] } };
      awake s ∧ s.usb.hubcfg = true ∧ (s.usb.port 2).st = .poweredOff ∧ (s.usb.port 3).st = .disabled) ∧
    (let w : Setup := ⟨0x23, 4, 2, 0⟩; w.bmRequestType = 0x23 ∧ w.wIndex.toNat = 1 + 1 ∧ w.wValue = 4) := by
  simp only [awake, attached, hubUp]; decide +kernel

/-- Endpoint 0 in every stage, buffers full and empty, and the translator's buffers. -/
theorem wit_usb_tokens :
    (let u := { (upUsb true).usb with hubEp0 := .dataIn (List.replicate 65 0) false true true }; u.ep0 .hub = .dataIn (List.replicate 65 0) false true true) ∧
    (let u := { (upUsb true).usb with fnEp0 := .statusIn true }; u.ep0 .fn = .statusIn true) ∧
    ((upUsb true).usb.ep 0).halt = false ∧ bufState ((upUsb true).usb.ep 0) false = false ∧
    (let p := { Ep.reset with st0 := true, sent := true }; bufState p p.hwnext = true ∧ p.sent = true) ∧ (upUsb true).usb.np0 = none ∧
    (∀ k, k ≤ 4 → ((upUsb true).usb.port k).change = 0) ∧
    (let u := { (upUsb true).usb with per := [⟨1, 2, none, false⟩, ⟨3, 4, none, false⟩] };
      u.per = [⟨1, 2, none, false⟩] ++ ⟨3, 4, none, false⟩ :: [] ∧ ∀ e ∈ [(⟨1, 2, none, false⟩ : PerEnt)], ¬ (e.addr = 3 ∧ e.ep = 4)) := by
  and_intros <;> decide +kernel

/-- A die whose tandem G serves session 1, which holds the helm and the unlock. -/
def upCon (mode : Mode) (helm : Option (Fin 5)) (unlocked : Bool) : State :=
  { up with
      cpuG := { Cpu.reset with run := .running }, wrd := { up.wrd with mode := mode },
      uat := { up.uat with ses := [(1, { Session.reset with opn := true })], helm := helm, unlocked := unlocked },
      xsp := { up.xsp with a := { up.xsp.a with cap := 1 }, b := { up.xsp.b with cap := 1 } } }

theorem wit_console : listens (upCon .run none false) 1 ∧ steers (upCon .run (some 1) false) 1 ∧ commands (upCon .safeHold (some 1) true) 1 ∧
    services (upCon .service (some 1) true) 1 ∧ receives (upCon .run none false) 1 ∧ ¬ listens up 1 ∧
    (upCon .service none false).wrd.mode = .service ∧ ((upCon .service none false).xsp.port .a).cap ≠ 0 := by
  simp only [listens, steers, commands, services, receives, hearsLine]; decide +kernel

theorem wit_console_arguments : parseNum (txt "255") = some 255 ∧ parseNum (txt "0x10") = some 16 ∧ parseNum (txt "FLY") = none ∧
    upper (txt "on") = txt "ON" ∧ upper (txt "Off") = txt "OFF" ∧ parseNum (txt "4096") = some (4096 * 1) ∧
    4096 * 256 ≤ ((upCon .service none false).xsp.port .a).size ∧ ((upCon .service none false).xsp.port .a).size < 4096 * 257 ∧
    (upCon .service none false).lifecycle = some 0 ∧ (upCon .run none false).grm.cur.evals = 0 := by decide +kernel

/-- A line waits at the front, a session is within a line begun before release or past its CR; an image is open; a challenge is out; a session in break. -/
theorem wit_console_lines :
    (let s := upCon .run none false; let s := { s with uat := { s.uat with queue := [⟨1, txt "VER", .none, 4⟩] } };
      s.serves = true ∧ s.uat.evalFor = none ∧ s.uat.queue.head? = some ⟨1, txt "VER", .none, 4⟩ ∧ (s.ses 1).opn = true ∧
      (s.ses 1).out.length ≤ 4096) ∧
    (let s := upCon .run none false; let s := { s with uat := { s.uat with ses := [(1, { Session.reset with broken := true })] } };
      (s.ses 1).broken = true ∧ (s.ses 1).opn = false ∧ s.sesExists 1 = true ∧ s.clk.crystal = true) ∧
    (let s := upCon .service (some 1) true; let s := { s with uat := { s.uat with image := some ⟨.b, [], 0⟩ } }; s.uat.image = some ⟨.b, [], 0⟩) ∧
    (let s := upCon .run none false; let s := { s with uat := { s.uat with ses := [(1, { Session.reset with opn := true, preLine := true }),
        (2, { Session.reset with opn := true, preCr := true })] } };
      (s.ses 1).preLine = true ∧ (s.ses 2).preCr = true ∧ (s.ses 2).preLine = false ∧ hearsLine s 1 ∧ hearsLine s 2) := by
  simp only [hearsLine]; decide +kernel

theorem wit_image_open : imageOpen { upCon .service (some 1) true with uat := { (upCon .service (some 1) true).uat with image := some ⟨.b, [], 0⟩ } } .b :=
  ⟨⟨.b, [], 0⟩, by rfl, by rfl, by rfl⟩

/-! The whole machine. -/

theorem wit_steps : ({ up with pending := [.powerGood, .release] } : State).pending = .powerGood :: [.release] ∧ up.pending = [] ∧
    up.gate.pgood = true ∧ State.reset.gate.pgood = false ∧ (60000000 : Nat) % 60000000 = 0 := by decide +kernel

theorem wit_memory_and_modes : State.MemOk up ∧ transition .safeHold .service ∧ ¬ transition .reduced .run ∧
    ¬ transition .runOut .runOut := by
  refine ⟨by show Memory.wf up.mem = true; decide +kernel, ?_⟩
  simp [transition]

/-! Sources that fault, delay slots, exact values. -/

/-- g31 is UNWRITTEN, and a register may hold POISON: the first of the sources is the one named. -/
theorem wit_source_faults : sourceFault [(0, 1, up.g .a 1), (0, 31, up.g .a 31)] = some ⟨0, 0x01, 0, 31, false, 0⟩ ∧
    sourceFault [(0, 2, .poison), (0, 31, up.g .a 31)] = some ⟨0, 0x02, 0, 2, false, 0⟩ ∧
    sourceFault [(0, 1, up.g .a 1), (0, 2, up.g .a 2)] = none ∧
    sourceFault ([0, 1].map fun r : FReg => (2, r.val, upFp.f .a r)) = some ⟨0, 0x01, 2, 0, false, 0⟩ ∧
    sourceFault (descWords up .a 1) = some ⟨0, 0x01, 3, 0, false, 0⟩ ∧ sourceFault (descWords upG .g 0) = some ⟨0, 0x01, 3, 0, false, 0⟩ ∧
    sourceFault (descWords upMod .a 0) = none := by decide +kernel

/-- FCSR and QSTAT that nothing has written. -/
def upBlank : State := upFp.modLk .a fun l => { l with fcsr := .unwritten, qstat := .unwritten }

theorem wit_blank_status : (upBlank.cpu .a).lk.fcsr.tag = .unwritten ∧ (upBlank.cpu .a).lk.qstat.tag = .unwritten ∧
    (upBlank.f .a 1).isData = true ∧ (upBlank.g .a 1).isData = true ∧ Issues .a .plain upBlank upBlank :=
  ⟨by decide +kernel, by decide +kernel, by decide +kernel, by decide +kernel, issues_of (by decide +kernel)⟩

/-- The word at PCC stands in a delay slot. -/
def upSlot : State := upWith fun c => { c with slot := some ⟨0x20000008, false, none⟩ }

theorem wit_delay_slot : (upSlot.cpu .a).slot ≠ none ∧
    ∀ k ∈ [Kind.long, .cti none, .cti (some (1 : BitVec 25).toInt), .ring], ∃ s1, Decodes .a k upSlot s1 := by
  refine ⟨by decide +kernel, fun k hk => ?_⟩
  have h : ∀ k ∈ [Kind.long, .cti none, .cti (some (1 : BitVec 25).toInt), .ring],
      (upSlot.ready .a && fine (do fetchCheck .a; decodeStage .a k : Cm Unit) upSlot) = true := by decide +kernel
  have hk := h k hk
  simp only [Bool.and_eq_true] at hk
  exact (run_fine hk.2).imp fun _ hr => ⟨hk.1, hr⟩

/-- 1.0, the largest and smallest numbers, zeros and NaNs of both formats. -/
theorem wit_float_values : isFin (fdecode (fmtOf .f64) 0x3FF0000000000000) = true ∧ isFin (fdecode (fmtOf .f64) 1) = true ∧
    isFin (fdecode (fmtOf .f64) 0x7FEFFFFFFFFFFFFF) = true ∧ isFin (fdecode (fmtOf .f64) 0x8000000000000000) = true ∧
    isFin (fdecode (fmtOf .f32) 0x3F800000) = true ∧ (fdecode (fmtOf .f64) 0x7FF8000000000000).isNan = true ∧
    (fdecode (fmtOf .f64) 0x7FF0000000000001).isSig = true ∧ (fdecode (fmtOf .f32) 0x7F800001).isNan = true ∧
    isFin (fdecode (fmtOf .f64) 0x7FF0000000000000) = false := by decide +kernel

theorem wit_float_magnitudes : fpValue (.fin false 0 3) = 0 ∧ 0 < fpValue (.fin false 1 0) ∧ fpValue (.fin true 5 (-1)) ≠ 0 ∧
    ∃ n : Nat, roundsTo .rne false (fun c => c < 5 / 2) (fun c => c = 5 / 2) 1 n := by
  refine ⟨by decide +kernel, by decide +kernel, by decide +kernel, 2, ?_⟩
  simp only [roundsTo]; decide +kernel

/-- CRC configurations of 8 and 16 bits beside that of 32. -/
theorem wit_crc_widths :
    let s := upWith fun c => c.setLk { c.lk with crcp1 := .int 0x4000000000001021 }
    (∀ k c, k ∈ [(0 : Fin 4), 1, 2, 3] → crcConfig up .a k = some c → c.poly < 2 ^ c.width) ∧
      ((List.range 4).map fun k => (crcConfig s .a (Fin.ofNat 4 k)).map (·.width)) = [some 8, some 16, none, some 32] := by
  refine ⟨?_, by decide +kernel⟩
  have h : ∀ k ∈ [(0 : Fin 4), 1, 2, 3], ((crcConfig up .a k).all fun c => decide (c.poly < 2 ^ c.width)) = true := by decide +kernel
  intro k c hk hc
  simpa [hc] using h k hk

/-- A buffer of 16 bytes whose cursor steps in bit-reversed order, and cursors that it refuses. -/
theorem wit_bit_reversed : (16 : Nat) = 2 ^ 4 ∧ modStep ⟨0x20000100, 2, 16, 8⟩ 0x20000100 1 = some 0x20000108 ∧
    modStep ⟨0x20000100, 2, 12, 8⟩ 0x20000100 1 = none ∧ modStep ⟨0x20000100, 2, 16, 8⟩ 0x20000101 1 = none ∧
    firstFault (accessRows (upMod.c .a 9) 0 9 ⟨pLD, false, modSize 3, 1⟩ 0) = some ⟨0, 0x01, 1, 9, false, 0⟩ ∧
    firstFault (accessRows (upMod.c .a 1) 0 1 ⟨pST, false, 8, 1⟩ 0x20000100) = none ∧
    modStep ⟨0x20000200, 1, 16, 8⟩ 0x20000100 3 = none := by decide +kernel

/-! Registers, the panel and accesses that wait. -/

/-- A scan engine with one key, pressed for the second scan in a row, and wet for the second test. -/
def upKey : State :=
  { up with pio := { up.pio with
      en := 0xFFFF, scfg := 0x8104000100000201, keyRun := [(0, 1)], wetRun := [(0, 1)] } }

theorem wit_keys : rowsOf upKey.pio = 1 ∧ colsOf upKey.pio = 1 ∧ kdebOf upKey.pio = 2 ∧ keyTurns upKey.pio [1] 0 0 = true ∧
    keyTurns upKey.pio [1] 0 1 = false ∧ keyTurns upKey.pio [0] 0 0 = false ∧ wetTurns upKey.pio [1] 0 0 = true ∧
    scanned { upKey.pio with en := 0 } 0 0 = false ∧ upKey.pio.fifo.length ≤ 64 ∧ upKey.scans = true := by decide +kernel

/-- Channel 0 steps with its prescaler; an EVENT channel counts on the edges that CTL.EDGE selects. -/
theorem wit_count_edges : downIn upCta ⟨1, 0, none⟩ 0 = true ∧ downIn upCta ⟨0, 0, none⟩ 0 = false ∧
    (upCta.chan 0).run = true ∧ (upCta.chan 0).mode = 0 := by decide +kernel

theorem wit_register_blocks : (∀ b ∈ [blkXSP, blkUSB, blkSPK, blkNFC, blkCANA, blkCANB, blkWRD, blkIRT, blkGRM, blkDRC, blkCLK, blkSCHA],
      reaches upRt .a b) ∧ reaches upRt .g blkCANA ∧ upRt.gate.released = true ∧
    wholeRegister blkXSP 0x20 ∧ wholeRegister blkWRD 0x20 ∧ ¬ wholeRegister blkWRD 0x24 ∧ (0xFC : BitVec 16).toNat % 4 = 0 := by
  simp only [reaches, wholeRegister]; decide +kernel

/-- A store that a unit's reset keeps in the buffer, and a read that comes after it. -/
theorem wit_accesses_behind_a_reset :
    let s := { upDevBuf.modCpu .a (fun c => { c with sb := [⟨0x800A0100, [1, 0, 0, 0], .dev⟩] }) with clk := { up.clk with urst := 0x7FF } }
    let d := s.drainAll .a
    (d.cpu .a).sb ≠ [] ∧ d.acc .a blkXSP = true ∧ (d.cpu .a).sb.length < sbCap .a ∧ (d.cpu .a).wait = .none ∧
      wholeRegister blkXSP 0x20 ∧ d.acc .b blkXSP = false := by
  simp only [wholeRegister]; decide +kernel

/-- A miss at a port in 8D mode that runs no command, and one that waits behind a command and is next. -/
def upXspIdle : State := { upXsp with xsp := { upXsp.xsp with busy := false } }
def waitB : LoadReq := ⟨0x180000000, ⟨0x180000000, 1, 0⟩, 1, .g 1 false, false, true⟩
def upXspWaits : State := upXsp.modCpu .a fun c => { c with wait := .load waitB }

theorem wit_strobes : strobeAwaited upXspIdle .a .winB false (0x180000000 / 8) ∧ ¬ strobeAwaited upXsp .a .winB false (0x180000000 / 8) ∧
    Issues .a .plain upXspIdle upXspIdle ∧ (upXspWaits.cpu .a).wait = .load waitB ∧ upXspWaits.regionOf .a waitB.phys.lo waitB.phys.n = some .winB ∧
    (upXspWaits.cpu .a).run = .running ∧ waitB.va = (0x180000000 : BitVec 44).toNat ∧
    strobeAwaited upXspWaits .a .winB waitB.turn (waitB.phys.lo / 8) := by
  have miss : ∀ s ∈ [upXspIdle, upXsp, upXspWaits], s.windowMiss .a .winB (0x180000000 / 8) = some .b := by decide +kernel
  refine ⟨⟨.b, miss _ (by simp), by decide +kernel⟩, ?_, issues_of (by decide +kernel), by decide +kernel, by decide +kernel,
    by decide +kernel, rfl, ⟨.b, miss _ (by simp), by decide +kernel⟩⟩
  rintro ⟨q, hq, -, -, hr⟩
  rw [miss _ (by simp), Option.some.injEq] at hq
  subst hq
  revert hr; decide +kernel

/-- The last packet of a command at port B: the load that waited there is next. -/
theorem test_load_is_next_at_its_port : (nextAtPort true upXspWaits.cpuA).wait = .load waitB ∧
    (nextAtPort true (upXsp.modCpu .a fun c => { c with wait := .load { waitB with turn := false } }).cpuA).wait = .load waitB ∧
    nextAtPort false (upXsp.modCpu .a fun c => { c with wait := .load { waitB with turn := false } }).cpuA ≠ upXspWaits.cpuA := by
  decide +kernel

/-! Life, the ledger and the warden. -/

/-- A dated groomer whose two mechanisms of monitors give values, with flash figures of port A. -/
def upLife : State :=
  { up with grm := { up.grm with
      day := 1000, dayValid := true, cur := { up.grm.cur with powmin := 600000, cdate := some 900, flashA := 0x8000006400001388 } } }

theorem wit_life_evaluation : groomerWorks upLife ∧ upLife.gate.released = true ∧ isWorst [.ppm 3, .failed, .ppm 40001] 40001 ∧
    (∀ b, .ppm b ∉ [Monitor.failed]) ∧ upLife.grm.evalReq = none ∧ (900 : BitVec 24).toNat ≤ upLife.grm.day.toNat ∧
    (∀ v, v = upLife.grm.cur.flashA ∨ v = upLife.grm.cur.flashB → v.getLsbD 63 = true → v.toNat / 2 ^ 32 % 2 ^ 16 ≠ 0) ∧
    upLife.grm.cur.flashB.getLsbD 63 = false ∧ upLife.grm.day.toNat + 65535 < 2 ^ 24 := by
  refine ⟨by simp only [groomerWorks]; decide +kernel, by decide +kernel, ⟨⟨40001, by simp⟩, ?_⟩, by simp, by decide +kernel, by decide +kernel, ?_,
    by decide +kernel, by decide +kernel⟩
  · intro b hb; simp at hb; rcases hb with rfl | rfl <;> decide
  · intro v h; rcases h with h | h <;> rw [h] <;> decide +kernel

/-- RUN-OUT before and after its record is due. -/
theorem wit_run_out_record :
    let s : State := { up with wrd := { up.wrd with mode := .runOut }, spk := { up.spk with closed := [ep .committed [⟨5, .int 1, 3⟩]], tripUs := 0 }, us := 50 }
    ¬ (s.spk.holdFell = true ∨ s.spk.closed = [] ∨ s.spk.tripUs + 110 ≤ s.us) ∧
      (let s := { s with us := 110 }; s.spk.tripUs + 110 ≤ s.us) ∧ s.wrd.mode = .runOut ∧ s.spk.runoutRec = false ∧
      (∀ m, s.grm.moving = some m → m.1 ≠ 5 / 512) := by
  refine ⟨by decide +kernel, by decide +kernel, by decide +kernel, by decide +kernel, ?_⟩
  intro m hm; have : up.grm.moving = none := by decide +kernel
  simp only [this] at hm; cases hm

/-- Detections of each kind, met one at a time in each mode. -/
def upDet (mode : Mode) (d : Det) : State := { up with wrd := { up.wrd with mode := mode, arrived := [d], reducedEn := true, serveA := true, serveB := true } }

theorem wit_reactions : holds ⟨6, 4⟩ ∧ holds ⟨10, 0x2F⟩ ∧ ¬ holds ⟨10, 0x01⟩ ∧ losesMain ⟨0, 0⟩ = some .a ∧ losesMain ⟨8, 0⟩ = some .b ∧
    losesMain ⟨10, 0x0C⟩ = some .a ∧ losesMain ⟨15, 1⟩ = some .b ∧ restarts ⟨2, 0⟩ ∧ restarts ⟨15, 2⟩ ∧ ¬ restarts ⟨15, 0⟩ ∧
    (∀ m ∈ [Mode.gatehouse, .run, .reduced, .safeHold, .service, .runOut], (upDet m ⟨6, 4⟩).wrd.mode = m ∧
      (upDet m ⟨6, 4⟩).wrd.rcStopped = false ∧ (upDet m ⟨6, 4⟩).wrd.arrived = [⟨6, 4⟩] ∧ (upDet m ⟨6, 4⟩).wrd.holdCmd = false) ∧
    (upDet .run ⟨0, 0⟩).wrd.serves .b = true ∧ (upDet .run ⟨0, 0⟩).wrd.frec.getLsbD 63 = false ∧ (upDet .run ⟨2, 0⟩).wrd.gloss < 7 := by
  simp only [holds, restarts]; decide +kernel

theorem wit_metadata : metadataSound up ∧ ¬ metadataSound { up with upset := [⟨.metadata .a 0, 3⟩] } := by
  refine ⟨?_, fun h => h ⟨.metadata .a 0, 3⟩ (by simp) .a 0 rfl⟩
  have h : up.upset = [] := by decide +kernel
  simp [metadataSound, h]

/-! The bus, the tag, USB and the console. -/

/-- The gate cuts a mailbox off in HALF in the microsecond of the other half's SUBMIT. -/
theorem wit_cut_mailbox :
    let b : Mbox := { Mbox.reset with cfg := 0x8000000000000000, st := .withheld, ha := true, cutUs := some up.us }
    cutBefore up b .b ∧ b.kind = 2 ∧ oneHalf { up with wrd := { up.wrd with mode := .reduced } } ∧ ¬ oneHalf up := by
  simp only [cutBefore, oneHalf]; decide +kernel

/-- A receiver with a frame under way that awaits MONITOR. -/
theorem wit_bus_idle : (∃ k : Can, k.toMonitor = true ∧ k.rxBusy = true ∧ ∀ m, m < 32 → (k.getMb m).st ≠ .tx) ∧
    ({ (upCan .active).canA with toMonitor := true } : Can).rxBusy = false ∧ (upCan .monitor).canA.pexdis = false ∧
    (upCan .monitor).canA.st = .monitor :=
  ⟨⟨{ (upCan .integrating).canA with toMonitor := true, rxBusy := true }, rfl, rfl, by decide +kernel⟩, by decide +kernel, by decide +kernel,
    by decide +kernel⟩

theorem wit_tag_slots (uid : W64) : (∃ mask, maskFits ⟨1, none⟩ mask uid) ∧ (∃ mask, ¬ maskFits ⟨1, none⟩ mask uid) ∧
    ∃ k mask, maskFits ⟨1, some k⟩ mask uid := by
  refine ⟨⟨uid, rfl, by simp⟩, ?_, ⟨uid.toNat / 2 % 16, Nat.mod_lt _ (by decide)⟩, uid, rfl, by rintro k ⟨⟩; rfl⟩
  rcases Nat.mod_two_eq_zero_or_one uid.toNat with h | h
  · exact ⟨1, by simp [maskFits, h]⟩
  · exact ⟨0, by simp [maskFits, h]⟩

/-- Holds of the store that last and that have ended. -/
theorem wit_tag_hold : (let s := { upTag .ready with nfc := { (upTag .ready).nfc with hold := some 1 }, us := 5 }; s.nfc.hold = some 1 ∧ 1 ≤ s.us) ∧
    (let n : Nfc := { up.nfc with hold := some 100 }; n.hold = some 100) := by decide +kernel

/-- A fault record in slot 3 of the ring, which the mirrors carry. -/
def upRing : State := { up with spk := { up.spk with ring := [(3, (List.range 8).map fun i => BitVec.ofNat 64 i)] } }

theorem wit_ring_mirror : (∃ bs, upRing.ringBytes 3 = some bs ∧ bs.length = 64) ∧ upRing.ringBytes 4 = none :=
  ⟨⟨_, by rfl, by rfl⟩, by rfl⟩

/-- A device under test, at the hub and at the function; a suspend that waits for a port; a request to test. -/
theorem wit_usb_tests :
    nakTested { upUsb true with usb := { (upUsb true).usb with testmode := 3 } } .hub ∧
    nakTested { upUsb true with usb := { (upUsb true).usb with fnTest := 3 } } .fn ∧
    (let u := { (upUsb false).usb with suspDue := true, ports := [(2, { Port.reset with st := .resuming })] };
      u.suspDue = true ∧ (u.port 2).st = .resuming ∧ ∀ q ∈ u.ports, q.1 ≠ 2 → q.2.st ≠ .resuming) ∧
    (let w : Setup := ⟨0, 2, 0x0100, 0⟩; w.wIndex.toNat = 256 * (1 : Fin 6).val ∧ w.wValue = 2) ∧ consoleQuiet (upUsb true) ∧
    (upUsb true).usb.ocPins.getLsbD 2 = false := by
  simp only [nakTested, hubUp, consoleQuiet]; and_intros <;> decide +kernel

/-- Text for the console's USB session, sent in a packet that its host has yet to acknowledge. -/
def upEp3 : State :=
  { upUsb true with uat := { up.uat with ses := [(4, { Session.reset with opn := true, out := txt "OK" })], after := .warm false, afterSes := 4, afterLeft := some 0 },
                    usb := { (upUsb true).usb with eps := [(2, { Ep.reset with sent := true })] } }

theorem wit_console_packets : (upEp3.ses 4).opn = true ∧ (upEp3.ses 4).out ≠ [] ∧ (upEp3.usb.ep 2).halt = false ∧ (upEp3.usb.ep 2).sent = true ∧
    upEp3.uat.after = .warm false ∧ upEp3.uat.afterSes = 4 ∧ upEp3.uat.afterLeft = some 0 ∧ hearsBus upEp3 .fn ∧ upEp3.usb.fncfg = true ∧
    typed [] upEp3 upEp3 := by
  simp only [hearsBus, awake, attached, hubUp, typed]; decide +kernel

/-- A lockout with 12 s left; an erase of two sectors under way. -/
theorem wit_console_timers :
    (let s := upCon .run none false; secondsLeft { s with uat := { s.uat with lockAt := 0, lockout := true }, us := 48000001 } = 12 ∧
      secondsLeft { s with uat := { s.uat with lockAt := 0, lockout := true }, us := 60000000 } = 1) ∧
    (let s := upCon .service (some 1) true; let s := { s with uat := { s.uat with image := some ⟨.b, [0, 1], 2⟩ } };
      s.uat.image = some ⟨.b, [0, 1], 2⟩ ∧ [0, 1].length ≤ 2 ∧ (1 : Nat) < 2 ∧ 2 - 1 ≤ [0, 1].length) ∧
    (upCon .run none false).wrd.arrived = [] ∧ (upCon .run none false).wrd.rcStopped = false := by decide +kernel

/-- A recognised change of an emergency-stop channel, and one that waits for a pulse's settle time. -/
theorem wit_idle_recognition : (∀ x, recognised up .a none x ↔ x = up) ∧ (∃ x, recognised up .a (some true) x) ∧
    (∃ w : Wrd, w.waitA = some true ∧ w.pulses = true) :=
  ⟨fun _ => .rfl, ⟨_, by simp only [recognised]; rfl⟩, ⟨{ up.wrd with waitA := some true, pulses := true }, rfl, rfl⟩⟩

/-- R847: the store is shipped with the capability container, the NDEF message and the identity record of a BLANK device. -/
theorem test_tag_store_as_shipped : State.reset.nfc.bytes 16 16 = State.reset.identity := by
  unfold State.identity gradeByte; cases h : Config.gradeMC <;> simp only [Nfc.bytes, Nfc.block, State.reset, Nfc.reset, nfcShipped, h] <;> decide +kernel
/-! Single commands against the values of the spec's worked examples. -/

/-- The state that a command leaves. -/
def after (o : Out) (d : State) : State := match o with | .next s => s | _ => d

/-- R236's example: KNARROW of 100,000 bytes at 0x4012_3456 (chapter 5, "On deck"). -/
theorem test_knarrow_example :
    let s := upWith fun c => c.setLk ((c.lk.setC 9 (Cap.root 0x40000000 0x4000000 (pLD + pST + pLDC + pSTC + pTTH + pDUR) 0x40123456)).setG 6 (.int 100000))
    let s' := after (exec (.knarrow .a 9 9 6) s) s
    (s'.c .a 9).a = 0x0007B00040123456 ∧ (s'.c .a 9).b = 0x161A900040123454 ∧
      (after (exec (.knarrowX .a 9 9 6) s) s).c .a 9 = s.c .a 9 := by decide +kernel

/-- Table 6-10's pair word: both halves read the values before it. -/
theorem test_encoder_pair_word :
    let s := upWith fun c => c.setLk ((c.lk.setG 6 (.int 8000)).setG 7 (.int 8012))
    let s' := after (exec (.pairWord .a (.sub 7 6) (.mov 6 7)) s) s
    s'.g .a 7 = .int 12 ∧ s'.g .a 6 = .int 8012 ∧ s'.pc .a = 0x20000004 := by decide +kernel

/-- Table 6-10's first pass: the load of a word never written leaves UNWRITTEN, and the pair word then writes neither register. -/
theorem test_encoder_first_pass :
    (let s := upWith fun c => c.setLk (c.lk.setG 6 (.int 8000))
     let s1 := after (exec (.ld .a 7 1 (.imm 16)) s) s
     s1.g .a 7 = .unwritten ∧ s1.pc .a = 0x20000004) ∧
    (let s := upWith fun c => c.setLk ((c.lk.setG 6 (.int 8000)).setG 7 .unwritten)
     (after (exec (.pairWord .a (.sub 7 6) (.mov 6 7)) s) s).g .a 6 = .int 8000) := by decide +kernel

/-- The SWEEP.COPY and PFENCE words of Table 7-6. -/
theorem test_sweep_word_example : sweepWord 0 1 10 11 5 0 0 = 0x601AB280 ∧ reservedKind .a 0x601AB280 = none ∧
    reservedKind .a 0x6E400000 = none := by decide +kernel

/-- Chapter 11's page: the staged words are legal, XSET answers entry 0, and 0x200_0012_3400 is 0x4012_3400. -/
theorem test_tlb_example :
    (let s := upWith fun c => { c with tlbhi := .int 0x05A1A20000000000, tlblo := .int 0x400003A2 }
     let s' := after (exec (.xset .a 2 0) s) s
     s'.g .a 2 = .int 0 ∧ (s'.cpu .a).xrej = 0) ∧
    (let s := upWith fun c => { c with xctl := 0x501, tlb := [(0, some ⟨0x05A1A20000000000, 0x400003A2⟩)] }
     (match (translate .a .load .data 0 0x20000123400 8).run s with | .ok (ph, _) _ => ph.lo | .error _ _ => 0) = 0x40123400) := by
  decide +kernel

/-- Chapter 9's control word: glide 200, locker 3, a loaded stack, 256 bytes reserved. -/
theorem test_vector_word_example : let v : VecEnt := { vec1 with ctl := .int 0x80000000101300C8 }
    v.glideLen = 200 ∧ v.lockerField = 3 ∧ v.stk = true ∧ v.reserve = 16 := by decide +kernel

/-- Chapter 2's window of 10 to 40 ms. -/
theorem test_watchdog_window_example : let w := ((after (exec (.watchdogConfigWrite .a .a 0x00640190) up) up).wrd.wd .a)
    w.opn = 100 ∧ w.close = 400 ∧ w.lock = false := by decide +kernel

/-- Chapter 4's write of CLK_GATE_SET gates D29, D44 and D54, and CANB's block is unpopulated. -/
theorem test_clock_gate_example :
    let s := after (exec .gatingTakesEffect (after (exec (.clkGateSetWrite .a 0x0040100020000000) up) up)) up
    s.clk.gated = up.clk.gated ||| 0x0040100020000000 ∧ s.blkOn blkCANB = false ∧ s.blkOn blkCANA = true := by decide +kernel

/-- Table 15-5: CNT counts down in TIMER mode, and a compare value at or above it sets CMPLATE. -/
theorem test_counter_example :
    let s := { up with cta := [(4, { Chan.reset with ctl := 0x80000163, cnt := 298, reload := 499, cmp := 200 })] }
    (after (exec (.chnCmp .a 4 299) s) s).chan 4 = { s.chan 4 with cmp := 299, cmplate := true } ∧
      ((after (exec (.countEvent ⟨0x10, 0, none⟩) s) s).chan 4).cnt = 297 ∧ (after (exec (.chnReload .a 4 499) s) s).chan 4 = { s.chan 4 with reload := 499 } := by
  decide +kernel

/-- Chapter 17's filter routes the winch's frames to RXC02, and its nominal timing is 500 kbit/s. -/
theorem test_can_example :
    let k := { Can.reset with flt := [(5, 0xC840000000000123)], fltm := [(5, 0x7FF)] }
    k.filter { goodFrame with fdf := true, dlc := 13, data := List.replicate 32 0 } = some 5 ∧
      k.filter { goodFrame with id := 0x124, fdf := true, dlc := 13, data := List.replicate 32 0 } = none ∧
      (0xC840000000000123 : W64).toNat / 2 ^ 61 % 4 = 2 ∧ (0xC840000000000123 : W64).toNat / 2 ^ 53 % 32 = 2 := by decide +kernel

/-- Chapter 19's line suffixes. -/
theorem test_console_suffixes : withSuffix (txt "#0042 MODE") = txt "#0042 MODE*A9" ∧ withSuffix (txt "NO 06 CRC") = txt "NO 06 CRC*F3" ∧
    withSuffix (txt "#0042 OK RUN 11 00") = txt "#0042 OK RUN 11 00*FE" := by decide +kernel

/-- Table 19-9's disturbed line: the CRC fails and is counted; the good one executes and is stored under its tag. -/
theorem test_console_poll :
    let poll (t : String) : State :=
      let s := upCon .run none false
      let s := { s with uat := { s.uat with ses := [(1, { Session.reset with opn := true, quiet := true })], queue := [⟨1, txt t, .none, 14⟩] } }
      after (exec (.consoleLine ⟨0, false, [], 0⟩) s) s
    ((poll "#0042 MODF*A9").ses 1).out = txt "NO 06 CRC*F3" ++ crlf ∧ ((poll "#0042 MODE*A9").ses 1).out = txt "#0042 OK RUN 11 00*FE" ++ crlf ∧
      ((poll "#0042 MODE*A9").ses 1).replay = [(txt "#0042", txt "#0042 OK RUN 11 00*FE" ++ crlf)] := by decide +kernel

/-- Chapter 20's doorbell 3 names tandem A; source 210 cannot be routed by tandem A. -/
theorem test_doorbell_example : let s := after (exec (.irtDbWrite .a 8) up) up
    s.irt.db = 8 ∧ s.irt.dbring.toNat / 2 ^ 6 % 4 = 0 ∧ (after (exec (.irtDbclrWrite .a 8) s) s).irt.db = 0 ∧
      (after (exec (.irtRouteWrite .a 210 0x80010006) up) up).irt.denied = 1 := by decide +kernel

/-- Chapter 16: port 3's status with a connected, powered joystick; the ACK that is lost leaves the buffer armed. -/
theorem test_usb_example :
    (let s := upUsb true; let s := { s with usb := { s.usb with ports := [(3, { Port.reset with st := .disconnected })] } };
      let p := ((after (exec (.portConnect 3 .full) s) s).usb.port 3); p.status = 0x0101 ∧ p.change = 1) ∧
    (let s := { upUsb true with usb := { (upUsb true).usb with eps := [(0, { Ep.reset with st0 := true, len0 := 64 })] } };
      let s := after (exec (.inToken .fn 1) s) s; let s := after (exec (.noAckTimeout .fn 1) s) s; let s := after (exec (.inToken .fn 1) s) s;
      (s.usb.ep 0).st0 = true ∧ (s.usb.ep 0).dup = 1 ∧ (s.usb.ep 0).toggle = false ∧
        (let s := after (exec (.hostAck .fn 1) s) s; (s.usb.ep 0).st0 = false ∧ (s.usb.ep 0).toggle = true ∧ (s.usb.ep 0).hwnext = true)) := by
  decide +kernel

/-- SHA-256 of "abc" (FIPS 180-4's example). -/
theorem test_sha256_abc : sha256 [0x61, 0x62, 0x63] = bytesBE 32 0xba7816bf8f01cfea414140de5dae2223b00361a396177a9cb410ff61f20015ad := by
  decide +kernel

/-- R389: a fetch of a line that the L1 instruction cache holds gives the word it held when the line came, whatever has been written
since; a fetch of another word gives the word that stands there. -/
theorem test_code_words_stay : let s := up.writeWords .b [(0x20000000 / 8, .int 5), (0x20000200 / 8, .int 6)]
    s.memWord (0x20000000 / 8) = .int 5 ∧ s.codeWord .a (0x20000000 / 8) = ⟨.insn, 0⟩ ∧ s.codeWord .a (0x20000200 / 8) = .int 6 := by
  decide +kernel

/-- The memory of the reset state and of the test states is canonical; listing an UNWRITTEN word, or words out of order, is not. -/
theorem test_memory_form : Memory.wf up.mem = true ∧ Memory.wf [(5, .unwritten)] = false ∧ Memory.wf [(6, .int 0), (5, .int 0)] = false := by
  decide +kernel

/-! Words that the spec writes out, and the command that each spells. -/

/-- The encoder's example (Table 6-10). -/
theorem test_decode_encoder_example : decodeTableWord 32 0x20796010 = some (.ld .a 7 9 (.imm 0x10)) ∧
    decodeTableWord 32 0x99CC131C = some (.pairWord .a (.sub 7 6) (.mov 6 7)) ∧ decodeTableWord 32 0x42700003 = some (.beqi .a 7 0 3) ∧
    decodeTableWord 32 0x22696018 = some (.sd .a 6 9 (.imm 0x18)) ∧ decodeTableWord 32 0x22796020 = some (.sd .a 7 9 (.imm 0x20)) := by
  and_intros <;> rfl

/-- SWEEP.COPY and PFENCE (Table 7-6), Table 9-7's words with c15, XSET g2, g0 (chapter 11), YIELD (Table 10-4), and two NOPs (R281). -/
theorem test_decode_words : decodeTableWord 32 0x601AB280 = some (.sweepCopy .a 1 10 11 5 none) ∧ decodeTableWord 32 0x6E400000 = some (.pfence .a) ∧
    decodeTableWord 32 0x4C0F0000 = some (.wcall .a 15) ∧ decodeTableWord 32 0x4C4F0000 = some (.wret .a 15) ∧
    decodeTableWord 32 0x4C8F0000 = some (.eret .a 15) ∧ decodeTableWord 32 0x4CCF0000 = some (.eretS .a 15) ∧
    decodeTableWord 32 0x70020000 = some (.xset .a 2 0) ∧ decodeTableWord 32 0x72000000 = some (.yield .a) ∧
    decodeTableWord 32 0x80000000 = some (.pairWord .a .nop .nop) := by
  and_intros <;> rfl

/-- A reserved word spells the emulation trap, a word of tandem G's own the trap that its majors take, and 16 bits spell nothing. -/
theorem test_decode_reserved : decodeTableWord 32 0x7E000000 = some (.emulationTrap .a 0x7E000000) ∧
    decodeWord .g 0x68000000 = .emulationTrap .g 0x68000000 ∧ decodeTableWord 16 0x8000 = none := by
  refine ⟨?_, ?_, ?_⟩ <;> rfl

end Sys2Proof.Tests
end

section
/-! What a word's loads and stores leave of its tandem's registers, and how its accesses run once their checks pass. -/

namespace Sys2Proof.Machine

open Sys2Proof.Claims

/-! Registers kept. -/

/-- The core `t` keeps every register that no cache, check bit or store buffer holds. -/
def KeepsRegs (t : Tandem) (s s' : State) : Prop := s'.regs t = s.regs t

theorem KeepsRegs.composes (t : Tandem) : Composes (KeepsRegs t) :=
  ⟨fun _ => rfl, fun _ _ _ h k => Eq.trans k h⟩

theorem Same.keepsRegs {t : Tandem} {s s' : State} (h : Same s s') : KeepsRegs t s s' := by
  unfold Same at h
  rw [KeepsRegs, h, State.hw_regs]

theorem Quiet.keepsRegs {t : Tandem} {s s' : State} (h : Quiet s s') : KeepsRegs t s s' := h.toSame.keepsRegs

theorem KeepsRegs.lk {t : Tandem} {s s' : State} (h : KeepsRegs t s s') : (s'.cpu t).lk = (s.cpu t).lk := State.lk_of_regs h
theorem KeepsRegs.ring {t : Tandem} {s s' : State} (h : KeepsRegs t s s') : (s'.cpu t).ring = (s.cpu t).ring := by
  rw [Cpu.ring, Cpu.ring, h.lk]
theorem KeepsRegs.pmctl {t : Tandem} {s s' : State} (h : KeepsRegs t s s') : (s'.cpu t).pmctl = (s.cpu t).pmctl :=
  State.pmctl_of_regs h
theorem KeepsRegs.c {t : Tandem} {s s' : State} (h : KeepsRegs t s s') (r : CReg) : s'.c t r = s.c t r := by
  rw [State.c, State.c, h.lk]
theorem KeepsRegs.trans {t : Tandem} {a b c : State} (h : KeepsRegs t a b) (k : KeepsRegs t b c) : KeepsRegs t a c :=
  (KeepsRegs.composes t).trans _ _ _ h k

section
variable {α : Type} {t : Tandem}

theorem Cm.Keeps.mono {R Q : State → State → Prop} {x : Cm α} (h : Cm.Keeps R x) (k : ∀ s s', R s s' → Q s s') : Cm.Keeps Q x :=
  fun s => k _ _ (h s)

theorem translate_keepsRegs (u : Tandem) (k : AKind) (rule : RegionRule) (ring va n : Nat) :
    Cm.Keeps (KeepsRegs t) (translate u k rule ring va n) :=
  ((Same.beneath k).translate u rule ring va n).mono fun _ _ => Same.keepsRegs

theorem eccAt_keepsRegs (g va : Nat) : Cm.Keeps (KeepsRegs t) (eccAt g va : Cm α) := (eccAt_quiet g va).mono fun _ _ => Quiet.keepsRegs

theorem event_keepsRegs (s : State) (u : Tandem) (k n : Nat) : KeepsRegs t s (s.event u k n) := (Quiet.event s u k n).keepsRegs

theorem emptyBuffer_keepsRegs (u : Tandem) : Cm.Keeps (KeepsRegs t) (emptyBuffer u) := by
  unfold emptyBuffer
  refine Cm.keeps_get fun s => ?_
  dsimp only
  split
  · exact State.drainAll_regs s u
  · rfl

theorem storeLine_keepsRegs (u : Tandem) (w ea : Nat) : Cm.Keeps (KeepsRegs t) (storeLine u w ea) := by
  have co := KeepsRegs.composes t
  have fill : Cm.Keeps (KeepsRegs t) (do
      let s ← get
      let r := s.readWord u false w
      set (s.hw r.1)
      match r.2 with
      | some g => eccAt g ea
      | none => pure () : Cm Unit) := by
    refine Cm.keeps_get fun s => Cm.keeps_set co (Light.readWord s u false w).quiet.keepsRegs ?_
    split
    · exact eccAt_keepsRegs _ _
    · exact .pure co _
  unfold storeLine
  exact .bind co (.get co) fun s => .ite _ (.bind co (emptyBuffer_keepsRegs u) fun _ => fill) fill

theorem targetTag_keepsRegs (u : Tandem) (w : Nat) (whole : Bool) (ea : Nat) : Cm.Keeps (KeepsRegs t) (targetTag u w whole ea) := by
  have co := KeepsRegs.composes t
  unfold targetTag
  refine .bind co (storeLine_keepsRegs u w ea) fun _ => .bind co (.get co) fun s => ?_
  split
  · exact .throw co _
  · exact .ite _ (.pure co _) (.throw co _)
  · exact .pure co _

theorem waitOverlap_keepsRegs (u : Tandem) (ph : Phys) (n : Nat) : Cm.Keeps (KeepsRegs t) (waitOverlap u ph n) := by
  unfold waitOverlap
  refine Cm.keeps_get fun s => ?_
  dsimp only
  split
  · split
    · rfl
    · exact KeepsRegs.trans (drainN_regs _ u s) (event_keepsRegs _ u _ _)
  · rfl

theorem readMem_keepsRegs (u : Tandem) (r : Region) (turn : Bool) (ph : Phys) (n va : Nat) :
    Cm.Keeps (KeepsRegs t) (readMem u r turn ph n va) := (readMem_quiet u r turn ph n va).mono fun _ _ => Quiet.keepsRegs

theorem joined_keepsRegs (u : Tandem) (s : State) (e : SbEnt) : KeepsRegs t s (joined u s e) := by
  have put : ∀ r : State, KeepsRegs t r (buffered r u [e]) := fun r => r.setSb_regs u _
  unfold joined
  split
  · exact KeepsRegs.trans (KeepsRegs.trans (s.drainHead_regs u) (event_keepsRegs _ u _ _)) (put _)
  · exact put s

theorem foldl_joined_keepsRegs (u : Tandem) (es : List SbEnt) (s : State) : KeepsRegs t s (es.foldl (joined u) s) :=
  foldl_regs (joined u) (fun s e => joined_keepsRegs u s e) es s

/-! A read of a device register. -/

theorem snd_regs_ite (p : Prop) [Decidable p] (x y : Nat × State) :
    (if p then x else y).2.regs t = if p then x.2.regs t else y.2.regs t :=
  apply_ite (fun q : Nat × State => q.2.regs t) _ _ _

@[simp] theorem wrdRead_regs (off : Nat) (s : State) : (wrdRead off s).2.regs t = s.regs t := by
  simp [wrdRead, snd_regs_ite]
@[simp] theorem clkRead_regs (off : Nat) (s : State) : (clkRead off s).2.regs t = s.regs t := by
  simp [clkRead, snd_regs_ite]
@[simp] theorem irtRead_regs (off : Nat) (s : State) : (irtRead off s).2.regs t = s.regs t := by
  simp [irtRead, snd_regs_ite]
@[simp] theorem schRead_regs (m : Side) (off : Nat) (s : State) : (schRead m off s).2.regs t = s.regs t := by
  unfold schRead; dsimp only; (repeat' split) <;> simp
@[simp] theorem spkRead_regs (off : Nat) (s : State) : (spkRead off s).2.regs t = s.regs t := by
  simp [spkRead, snd_regs_ite]
@[simp] theorem drcRead_regs (off : Nat) (s : State) : (drcRead off s).2.regs t = s.regs t := by
  simp [drcRead, snd_regs_ite]
@[simp] theorem cntRead_regs (n : Nat) (s : State) : (cntRead n s).2.regs t = s.regs t := by
  unfold cntRead; dsimp only; split <;> simp
@[simp] theorem chanRead_regs (n r : Nat) (s : State) : (chanRead n r s).2.regs t = s.regs t := by
  unfold chanRead; dsimp only; (repeat' split) <;> simp
@[simp] theorem ctaRead_regs (off : Nat) (s : State) : (ctaRead off s).2.regs t = s.regs t := by
  simp [ctaRead, snd_regs_ite]
@[simp] theorem sfifoRead_regs (s : State) : (sfifoRead s).2.regs t = s.regs t := by
  unfold sfifoRead; split <;> simp
@[simp] theorem pioRead_regs (off : Nat) (s : State) : (pioRead off s).2.regs t = s.regs t := by
  simp [pioRead, snd_regs_ite]
@[simp] theorem usbRead_regs (off : Nat) (s : State) : (usbRead off s).2.regs t = s.regs t := by
  simp [usbRead, snd_regs_ite]
@[simp] theorem canRead_regs (c : Side) (u : Tandem) (off : Nat) (s : State) : (canRead c u off s).2.regs t = s.regs t := by
  simp [canRead, snd_regs_ite]
@[simp] theorem nfcRead_regs (off : Nat) (s : State) : (nfcRead off s).2.regs t = s.regs t := by
  simp [nfcRead, snd_regs_ite]
theorem devRead_regs (s : State) (u : Tandem) (b : Fin 17) (off : Nat) : (devRead s u b off).2.regs t = s.regs t := by
  unfold devRead; split <;> simp [gateRead, grmRead, xspRead, uatRead]

theorem devTransit_keepsRegs (u : Tandem) (va : Nat) : Cm.Keeps (KeepsRegs t) (devTransit u va) := by
  unfold devTransit
  refine Cm.keeps_get fun s => Cm.keeps_set (KeepsRegs.composes t) (Light.transfer s _ _).quiet.keepsRegs ?_
  exact .ite _ (eccAt_keepsRegs _ _) (.pure (KeepsRegs.composes t) _)

/-- A load changes no register before it writes its own. -/
theorem LoadGives.keepsRegs {u : Tandem} {turn sgn : Bool} {rg : Region} {ph : Phys} {n ea : Nat} {s s' : State} {v : TWord}
    (h : LoadGives u turn rg ph n ea sgn s v s') : KeepsRegs t s s' := by
  obtain ⟨-, hr, -⟩ | ⟨b, -, hr, -⟩ := h
  · exact (readMem_keepsRegs u rg turn ph n ea).ok hr
  · exact KeepsRegs.trans (devRead_regs s u b _) ((devTransit_keepsRegs u ea).ok hr)

end

/-! Accesses whose checks pass. -/

section
variable {t : Tandem} {s : State}

theorem Cm.run_get_bind {α : Type} (f : State → Cm α) (s : State) : (get >>= f).run s = (f s).run s := rfl

/-- A capability that passes steps 2 to 6 of Table 5-8. -/
theorem checkCap_ok {r : CReg} {perms ea : Nat} {teth : Bool} (hv : (s.c t r).st = .valid) (hs : (s.c t r).sealed = false)
    (hr : (s.cpu t).ring ≤ (s.c t r).ring) (hp : (s.c t r).has perms = true) (ht : teth = true → (s.c t r).has pTTH = true) :
    (checkCap t r perms teth ea).run s = .ok (s.c t r) s := by
  have htt : (teth && !(s.c t r).has pTTH) = false := by
    cases teth
    · rfl
    · rw [ht rfl]; rfl
  unfold checkCap
  rw [Cm.run_get_bind]
  simp only [State.c] at *
  simp [hv, hs, hp, Nat.not_lt.2 hr, htt]

/-- An entry that finds room joins the store buffer. -/
theorem pushStore_ok {e : SbEnt} (h : (s.cpu t).sb.length < sbCap t ∨ s.headStuck t = false) :
    (pushStore t e).run s = .ok () (joined t s e) := by
  unfold pushStore
  rw [Cm.run_get_bind]
  by_cases hf : sbCap t ≤ (s.cpu t).sb.length
  · rw [h.resolve_left (Nat.not_lt.2 hf)]
    simp only [hf, decide_true, Bool.and_false, if_true]
    rw [joined, if_pos hf]
    rfl
  · simp only [hf, decide_false, Bool.false_and]
    rw [joined, if_neg hf]
    rfl

theorem pushStores_ok : ∀ {es : List SbEnt} {s : State}, joinsNow t es s → (es.forM (pushStore t)).run s = .ok () (es.foldl (joined t) s)
  | [], _, _ => rfl
  | e :: es, s, h => by
    show (pushStore t e >>= fun _ => es.forM (pushStore t)).run s = _
    rw [Cm.run_bind, pushStore_ok h.1]
    exact pushStores_ok h.2

/-- The ledger admits the persistent words of an access. -/
theorem ledgerAdmit_ok {va : Nat} {ws : List Nat} {k : Spk} (h : s.spk.ledgerAdmit t (persistentWords ws) = some k) :
    (ledgerAdmit t va ws).run s = .ok () { s with spk := k } := by
  unfold ledgerAdmit
  rw [Cm.run_get_bind]
  unfold persistentWords at h
  simp only [h]
  rfl

/-- A word without a reserved tag, as a data load gives it. -/
theorem loadedWord_ok {w : TWord} (va : Nat) (h : ∀ n, w.tag ≠ .reserved n) : (loadedWord w va).run s = .ok (asLoaded w) s := by
  unfold loadedWord asLoaded
  cases hw : w.tag with
  | reserved n => exact absurd hw (h n)
  | _ => rfl

/-- The one word of a whole aligned access. -/
theorem Phys.parts_whole {ph : Phys} (ha : ph.lo % 8 = 0) (hn : 8 ≤ ph.n) : ph.parts 8 = [(ph.lo, 8)] := by
  simp [Phys.parts, Phys.pieces, hn, cutWords, ha]

/-- No word of an access whose tags are known holds a reserved one. -/
theorem tagsKnown_mem {ph : Phys} {n : Nat} (h : tagsKnown s t ph n = true) {p : Nat × Nat} (hp : p ∈ ph.parts n) (m : Fin 7) :
    (s.viewWord t (p.1 / 8)).tag ≠ .reserved m := by
  intro hm
  have := List.all_eq_true.1 h p hp
  simp [hm] at this

/-- A data load gives what its words or its register say. -/
theorem loadValue_ok {turn sgn : Bool} {rg : Region} {ph : Phys} {n ea : Nat} {s' : State} {v : TWord}
    (h : LoadGives t turn rg ph n ea sgn s v s') : (loadValue t ph rg turn n ea sgn).run s = .ok v s' := by
  obtain ⟨hd, hr, hk, rfl⟩ | ⟨b, rfl, hr, rfl⟩ := h
  · have mem : (loadValue t ph rg turn n ea sgn).run s = (do
        let s ← get
        let ws := (ph.parts n).map fun p => s.viewWord t (p.1 / 8)
        if n = 8 ∧ ph.lo % 8 = 0 ∧ n ≤ ph.n then loadedWord (s.viewWord t (ph.lo / 8)) ea
        else if ws.any fun w => match w.tag with | .reserved _ => true | _ => false then corrupt ea
        else if ws.any fun w => w.tag == .poison then pure .poison
        else if ws.any fun w => w.tag == .unwritten then pure .unwritten
        else pure (extended n sgn (ofBytes (s.loadBytes t ph n))) : Cm TWord).run s' := by
      unfold loadValue
      cases rg with
      | dev b => simp [Region.isDev] at hd
      | _ => dsimp only; rw [Cm.run_bind, hr]; rfl
    have hres : ((ph.parts n).map fun p => s'.viewWord t (p.1 / 8)).any (fun w => match w.tag with | .reserved _ => true | _ => false) = false := by
      rw [List.any_eq_false]
      intro w hw
      obtain ⟨p, hp, rfl⟩ := List.mem_map.1 hw
      have := tagsKnown_mem hk hp
      split
      · rename_i m hm
        exact absurd hm (this m)
      · simp
    have carried (g : Tag) : ((ph.parts n).map fun p => s'.viewWord t (p.1 / 8)).any (fun w => w.tag == g) =
        decide (g ∈ (ph.parts n).map fun p => (s'.viewWord t (p.1 / 8)).tag) := by
      rw [Bool.eq_iff_iff]
      simp
    rw [mem, Cm.run_get_bind]
    dsimp only
    rw [hres, carried, carried]
    unfold loadResult
    dsimp only
    by_cases hw : n = 8 ∧ ph.lo % 8 = 0 ∧ n ≤ ph.n
    · obtain ⟨rfl, ha, hn⟩ := hw
      rw [if_pos ⟨rfl, ha, hn⟩, if_pos ⟨rfl, ha, hn⟩]
      exact loadedWord_ok ea (tagsKnown_mem hk (p := (ph.lo, 8)) (by simp [Phys.parts_whole ha hn]))
    · rw [if_neg hw, if_neg hw]
      simp only [Bool.false_eq_true, if_false, decide_eq_true_eq, Cm.run_ite, Cm.run_pure]
      split
      · rfl
      · split <;> rfl
  · unfold loadValue
    simp only [Cm.run_bind, Cm.run_get, Cm.run_set, Cm.run_pure]
    rw [hr]
    rfl

end

end Sys2Proof.Machine
end

section
/-! The frame fill and the frame load (R472 to R474). -/

namespace Sys2Proof.Machine

open Sys2Proof.Claims

theorem bitOf_toNat {n : Nat} (v : BitVec n) (i : Nat) : bitOf v.toNat i = v.getLsbD i := by
  simp [bitOf, BitVec.getLsbD, Nat.testBit, Nat.shiftRight_eq_div_pow, Nat.and_comm 1, Nat.and_one_is_mod]

/-- A bit of a word cleared. -/
theorem putBits_clear (v : W64) (i : Nat) : putBits v i 1 0 = v &&& ~~~(1#64 <<< i) := by
  have h : BitVec.ofNat 64 (2 ^ i) = 1#64 <<< i := BitVec.eq_of_toNat_eq (by simp [Nat.shiftLeft_eq])
  simp only [putBits, Nat.reducePow, Nat.reduceSub, Nat.one_mul, Nat.zero_mod, Nat.zero_mul, h]
  exact BitVec.or_zero

/-- A capability with some permissions has each of them. -/
theorem Cap.has_of_has {c : Cap} {m k : Nat} (h : c.has m = true) (hk : m &&& k = k) : c.has k = true := by
  unfold Cap.has at *
  rw [beq_iff_eq] at *
  rw [← hk, ← Nat.and_assoc, h]

theorem Cm.run_bind_ok {α β : Type} {x : Cm α} {f : α → Cm β} {a : α} {s s' : State} (h : x.run s = .ok a s') :
    (x >>= f).run s = (f a).run s' := by
  rw [Cm.run_bind, h]

/-- A sequence that answers is two parts that answer. -/
theorem Cm.ok_of_bind {α : Type} {x : Cm Unit} {y : Cm α} {a : α} {s s' : State} (h : (do x; y : Cm α).run s = .ok a s') :
    ∃ r, x.run s = .ok () r ∧ y.run r = .ok a s' := by
  rw [Cm.run_bind] at h
  cases hx : x.run s with
  | ok u r => exact ⟨r, rfl, by rw [hx] at h; exact h⟩
  | error e r => rw [hx] at h; simp at h

section
variable {t : Tandem} {s s' : State} {perms n pa : Nat}

/-- c14 reaches the frame whatever an access changes beneath the registers. -/
theorem frameReached_of_keepsRegs (h : frameReached s t perms n pa) (k : KeepsRegs t s s') : frameReached s' t perms n pa := by
  unfold frameReached at *
  rw [k.c, k.ring]
  exact h

/-- Of the checks through c14, an access within a frame that it reaches passes those up to its bounds. -/
theorem frameCheck_ok {need off m : Nat} {teth : Bool} (x : Cm Nat) (h : frameReached s t perms n pa) (hk : perms &&& need = need)
    (ht : teth = true → (s.c t 14).has pTTH = true) (hm : off + m ≤ n) :
    (do let c ← checkCap t 14 need teth (pa + off)
        if ¬(c.base ≤ pa + off ∧ pa + off + m ≤ c.top) then raiseAt 1 dBOUNDS (pa + off) else x : Cm Nat).run s = x.run s := by
  obtain ⟨hv, hs, hr, hp, hb, htop⟩ := h
  rw [Cm.run_bind_ok (checkCap_ok hv hs hr (Cap.has_of_has hp hk) ht), if_neg]
  omega

/-- A capability that a store may write to the region it goes to. -/
theorem durCheck_ok {c : Cap} {rg : Region} {ea : Nat} (h : c.st = .valid → (rg = .spenik → c.has pDUR = true) ∧ (c.tether = true → rg = .sram)) :
    (durCheck c rg ea).run s = .ok () s := by
  unfold durCheck
  by_cases hv : c.st = .valid
  · obtain ⟨hd, ht⟩ := h hv
    rw [if_neg (Decidable.not_not.2 hv), if_neg (fun k => by simp [hd k.1] at k), if_neg (fun k => k.2 (ht k.1))]
    rfl
  · rw [if_pos hv]
    rfl

theorem ItemsFit.keepsRegs : ∀ {l : List (Nat × TWord)} {s s' : State} {es : List SbEnt}, ItemsFit t l s es s' → KeepsRegs t s s'
  | [], _, _, _, h => by
    obtain ⟨-, rfl⟩ := h
    exact rfl
  | _ :: _, _, _, _, h => by
    obtain ⟨ph, rg, s1, s2, es', htr, hw, -, hl⟩ := h
    have h1 : KeepsRegs t _ s1 := (translate_keepsRegs t _ _ _ _ _).ok htr
    have h3 : KeepsRegs t s2 _ := ItemsFit.keepsRegs hl
    obtain ⟨-, hw⟩ | ⟨-, -, rfl⟩ := hw
    · exact h1.trans (((targetTag_keepsRegs t _ _ _).ok hw).trans h3)
    · exact h1.trans h3

/-- One item that fits gives its entry. -/
theorem fillItem_ok {a : Nat} {v : TWord} {ph : Phys} {rg : Region} {s1 s2 : State}
    (htr : (translate t .fill .data (s.cpu t).ring a 8).run s = .ok (ph, rg) s1)
    (hw : (rg.isDev = false ∧ (targetTag t (ph.lo / 8) true a).run s1 = .ok () s2) ∨ (rg.isDev = true ∧ v.isData = true ∧ s2 = s1)) :
    (fillItem t a v).run s = .ok ⟨ph.lo, bytesOf 8 v.bits.toNat, if rg.isDev then .dev else .whole v.tag⟩ s2 := by
  unfold fillItem
  rw [Cm.run_get_bind, Cm.run_bind_ok htr]
  obtain ⟨hd, hw⟩ | ⟨hd, hv, rfl⟩ := hw
  · rw [hd]
    cases rg with
    | dev b => simp [Region.isDev] at hd
    | _ => exact Cm.run_bind_ok hw
  · cases rg with
    | dev b => exact Cm.run_bind_ok (needData_data _ _ _ _ hv)
    | _ => simp [Region.isDev] at hd

/-- The items of a frame, each checked as `f` checks it, give the entries that join the store buffer (R472). -/
theorem fillItems_ok {f : Nat × TWord → Cm SbEnt} : ∀ {l : List (Nat × TWord)} {s s' : State} {es : List SbEnt},
    (∀ p ∈ l, ∀ r, KeepsRegs t s r → (f p).run r = (fillItem t (pa + p.1) p.2).run r) →
    ItemsFit t (l.map fun p => (pa + p.1, p.2)) s es s' → (l.mapM f).run s = .ok es s'
  | [], _, _, _, _, h => by
    obtain ⟨rfl, rfl⟩ := h
    rfl
  | p :: l, s, _, _, hf, h => by
    have keeps : ∀ {s2 es' s'}, ItemsFit t (l.map fun p => (pa + p.1, p.2)) s2 es' s' → KeepsRegs t s s2 →
        (l.mapM f).run s2 = .ok es' s' := fun hl h2 => fillItems_ok (fun q hq r hr => hf q (by simp [hq]) r (h2.trans hr)) hl
    obtain ⟨ph, rg, s1, s2, es', htr, hw, rfl, hl⟩ := h
    have h2 : KeepsRegs t s s2 := ItemsFit.keepsRegs (l := [(pa + p.1, p.2)]) ⟨ph, rg, s1, s2, [], htr, hw, rfl, rfl, rfl⟩
    rw [List.mapM_cons, Cm.run_bind_ok ((hf p (by simp) s rfl).trans (fillItem_ok htr hw)), Cm.run_bind_ok (keeps hl h2)]
    rfl

end

/-- The frame fill runs to its end where every check passes (R472, R473). -/
theorem frameFill_ok {t : Tandem} {s s' : State} (h : FrameFilled t ((s.cpu t).lk.lkrsv.bits.toNat / 16 % 2 ^ 40 * 16) s s') :
    (frameFill t).run s = .ok () (s'.modLk t fun l => { l with
      lkfrm := .int (w64 ((s.cpu t).lk.lkrsv.bits.toNat / 16 % 2 ^ 40 * 16 + 1)), lkrsv := ⟨l.lkrsv.tag, putBits l.lkrsv.bits 0 1 0⟩,
      estat := ⟨l.estat.tag, putBits l.estat.bits 63 1 0⟩ }) ∧ KeepsRegs t s s' := by
  have hpa : wf (s.cpu t).lk.lkrsv.bits 4 40 * 16 = (s.cpu t).lk.lkrsv.bits.toNat / 16 % 2 ^ 40 * 16 := rfl
  have hal : (s.cpu t).lk.lkrsv.bits.toNat / 16 % 2 ^ 40 * 16 % 16 = 0 := Nat.mul_mod_left _ _
  unfold frameFill
  rw [Cm.run_get_bind]
  dsimp only
  rw [hpa]
  revert h hal
  generalize (s.cpu t).lk.lkrsv.bits.toNat / 16 % 2 ^ 40 * 16 = pa
  intro h hal
  obtain ⟨hf, htt, ph, rg, s1, s2, es, s3, sp, htr, hd, htg, hit, hl, hj, rfl⟩ := h
  have h1 : KeepsRegs t s s1 := (translate_keepsRegs t _ _ _ _ _).ok htr
  obtain ⟨s4, ht1, ht2⟩ := Cm.ok_of_bind htg
  have h2 : KeepsRegs t s s2 := h1.trans (((targetTag_keepsRegs t _ _ _).ok ht1).trans ((targetTag_keepsRegs t _ _ _).ok ht2))
  have h3 : KeepsRegs t s ({ s3 with spk := sp } : State) := (h2.trans (ItemsFit.keepsRegs hit)).trans (s3.withSpk_regs sp t)
  refine ⟨?_, h3.trans (foldl_joined_keepsRegs t _ _)⟩
  refine (Cm.run_bind_ok ((frameCheck_ok _ hf rfl htt (by omega)).trans ((Cm.run_ite _ _ _ _).trans (if_neg (by simp [hal]))))).trans ?_
  refine (Cm.run_bind_ok htr).trans ((Cm.run_bind_ok (durCheck_ok hd)).trans ?_)
  refine (Cm.run_bind_ok ht1).trans ((Cm.run_bind_ok ht2).trans ?_)
  refine (Cm.run_bind_ok (fillItems_ok (fun p hp r hr => ?_) hit)).trans ?_
  · refine Cm.run_bind_ok ((frameCheck_ok _ (frameReached_of_keepsRegs hf (h2.trans hr)) rfl (fun h => by simp at h) ?_).trans
      ((Cm.run_ite _ _ _ _).trans (if_neg (by simp [Nat.mod_one]))))
    simp only [List.mem_cons, List.not_mem_nil, or_false] at hp
    obtain rfl | rfl | rfl | rfl | rfl | rfl := hp <;> simp
  · refine (Cm.run_bind_ok (ledgerAdmit_ok hl)).trans ((Cm.run_bind_ok (pushStore_ok hj.1)).trans ?_)
    exact (Cm.run_bind_ok (pushStores_ok hj.2)).trans (run_modLk _ _ _)

theorem Cm.run_modify_if {α : Type} (p : Prop) [Decidable p] (f : State → State) (x : Cm α) (s : State) :
    (if p then do modify f; x else x).run s = x.run (if p then f s else s) := by split <;> rfl

section
variable {t : Tandem} {s s' : State} {pa : Nat}

theorem ItemsLoaded.keepsRegs : ∀ {l : List Nat} {s s' : State} {vs : List TWord}, ItemsLoaded t l s vs s' → KeepsRegs t s s'
  | [], _, _, _, h => by
    obtain ⟨-, rfl⟩ := h
    exact rfl
  | _ :: _, _, _, _, h => by
    obtain ⟨ph, rg, s1, s2, v, s3, vs', htr, hw, hg, -, hl⟩ := h
    have h1 : KeepsRegs t _ s1 := (translate_keepsRegs t _ _ _ _ _).ok htr
    exact h1.trans (((waitOverlap_keepsRegs t ph 8).ok hw).trans ((LoadGives.keepsRegs hg).trans (ItemsLoaded.keepsRegs hl)))

/-- The first item is loaded, then the others. -/
theorem ItemsLoaded.uncons {a : Nat} {l : List Nat} {v : TWord} {vs : List TWord} (h : ItemsLoaded t (a :: l) s (v :: vs) s') :
    ∃ r, ItemsLoaded t [a] s [v] r ∧ ItemsLoaded t l r vs s' := by
  obtain ⟨ph, rg, s1, s2, v', s3, vs', htr, hw, hg, hv, hl⟩ := h
  obtain ⟨rfl, rfl⟩ := List.cons_eq_cons.1 hv
  exact ⟨s3, ⟨ph, rg, s1, s2, v, s3, [], htr, hw, hg, rfl, rfl, rfl⟩, hl⟩

/-- An item within the frame is loaded, the bits outside `m` staying 0 (R11, R474). -/
theorem frameItem_ok {ring off m : Nat} {v : TWord} (hf : frameReached s t (pLD + pLDC) 56 pa) (hr : ring = (s.cpu t).ring)
    (hm : off + 8 ≤ 56) (h : ItemsLoaded t [pa + off] s [v] s') :
    (do let a ← (do
          let c ← checkCap t 14 pLD false (pa + off)
          if ¬(c.base ≤ pa + off ∧ pa + off + 8 ≤ c.top) then raiseAt 1 dBOUNDS (pa + off) else pure (pa + off))
        let x ← translate t .load .data ring a 8
        waitOverlap t x.1 8
        let v ← loadValue t x.1 x.2 false 8 a false
        pure ⟨v.tag, masked v.bits m⟩ : Cm TWord).run s = .ok ⟨v.tag, masked v.bits m⟩ s' := by
  subst hr
  obtain ⟨ph, rg, s1, s2, v', s3, vs', htr, hw, hg, hv, hl⟩ := h
  obtain ⟨rfl, rfl⟩ := List.cons_eq_cons.1 hv
  obtain ⟨-, rfl⟩ := hl
  rw [Cm.run_bind_ok (frameCheck_ok (pure (pa + off)) hf rfl (fun h => by simp at h) hm), Cm.run_bind_ok htr, Cm.run_bind_ok hw,
    Cm.run_bind_ok (loadValue_ok hg)]
  rfl

end

/-- The load of a valid frame runs to its end where every check passes and every word can be read (R474). -/
theorem frameLoad_ok {t : Tandem} {s s' : State} {c : Cap} {a b d e f : TWord} (hv : (s.cpu t).lk.lkfrm.bits.getLsbD 0 = true)
    (h : FrameRead t ((s.cpu t).lk.lkfrm.bits.toNat / 16 % 2 ^ 40 * 16) s c [a, b, d, e, f] s') :
    (frameLoad t).run s = .ok () (s'.modLk t fun l => { l.setC 15 c with
      ecause := ⟨a.tag, masked a.bits mECAUSE⟩, eaddr := ⟨b.tag, masked b.bits mVA⟩, enext := ⟨d.tag, masked d.bits mVA⟩,
      estat := ⟨e.tag, masked e.bits mESTAT⟩, lkfrm := ⟨f.tag, masked f.bits mLKFRM⟩ }) ∧ KeepsRegs t s s' := by
  have hpa : wf (s.cpu t).lk.lkfrm.bits 4 40 * 16 = (s.cpu t).lk.lkfrm.bits.toNat / 16 % 2 ^ 40 * 16 := rfl
  unfold frameLoad
  rw [Cm.run_get_bind]
  dsimp only
  rw [hpa, bitOf_toNat, hv, Bool.not_true, if_neg (by simp)]
  revert h
  generalize (s.cpu t).lk.lkfrm.bits.toNat / 16 % 2 ^ 40 * 16 = pa
  intro h
  obtain ⟨hf, ph, rg, s1, s2, s3, htr, hw, hr, hc, hl⟩ := h
  have h3 : KeepsRegs t s s3 := ((translate_keepsRegs t _ _ _ _ _).ok htr).trans
    (((waitOverlap_keepsRegs t ph 16).ok hw).trans ((readMem_keepsRegs t rg false ph 16 pa).ok hr))
  have h4 : KeepsRegs t s (if c.st = .malformed then s3.mchk 0x12 else s3) := by
    split
    · exact h3.trans (s3.mchk_regs _ t)
    · exact h3
  obtain ⟨sa, ha, hl⟩ := ItemsLoaded.uncons hl
  obtain ⟨sb, hb, hl⟩ := ItemsLoaded.uncons hl
  obtain ⟨sd, hd, hl⟩ := ItemsLoaded.uncons hl
  obtain ⟨se, he, hf'⟩ := ItemsLoaded.uncons hl
  have ka := h4.trans (ItemsLoaded.keepsRegs ha)
  have kb := ka.trans (ItemsLoaded.keepsRegs hb)
  have kd := kb.trans (ItemsLoaded.keepsRegs hd)
  have ke := kd.trans (ItemsLoaded.keepsRegs he)
  refine ⟨?_, ke.trans (ItemsLoaded.keepsRegs hf')⟩
  refine (Cm.run_bind_ok (frameCheck_ok _ hf rfl (fun h => by simp at h) (by omega))).trans ?_
  refine (Cm.run_bind_ok htr).trans ((Cm.run_bind_ok hw).trans ((Cm.run_bind_ok hr).trans ?_))
  rw [Cm.run_get_bind]
  unfold State.pairAt
  dsimp only
  rw [hc]
  refine (Cm.run_modify_if _ _ _ _).trans ?_
  have item {off m : Nat} {v : TWord} {r r' : State} (k : KeepsRegs t s r) (hm : off + 8 ≤ 56) (hl : ItemsLoaded t [pa + off] r [v] r') :=
    frameItem_ok (m := m) (frameReached_of_keepsRegs hf k) k.ring.symm hm hl
  refine (Cm.run_bind_ok (item h4 (by omega) ha)).trans ((Cm.run_bind_ok (item ka (by omega) hb)).trans ?_)
  refine (Cm.run_bind_ok (item kb (by omega) hd)).trans ((Cm.run_bind_ok (item kd (by omega) he)).trans ?_)
  exact (Cm.run_bind_ok (item ke (by omega) hf')).trans (run_modLk _ _ _)

/-- Settles O28: FRSV and FRLD by the runs of their fill and load. -/
theorem framesAreFilledWhenPending : Obligations.FramesAreFilledWhenPending := by
  unfold Obligations.FramesAreFilledWhenPending
  intro m s s1 hi t l
  have hlk : (s1.cpu t).lk = l := hi.lk
  refine ⟨fun h => ?_, fun h => ?_, fun s2 h hf => ?_, fun c a b d e f s2 h hr => ?_⟩
  · refine plainWord_retired hi ?_ rfl rfl
    unfold fillIfPending
    rw [Cm.run_get_bind]
    dsimp only
    rw [hlk, bitOf_toNat, h]
    rfl
  · refine plainWord_retired hi ?_ rfl rfl
    unfold frameLoad
    rw [Cm.run_get_bind]
    dsimp only
    rw [hlk, bitOf_toNat, h]
    rfl
  · obtain ⟨hrun, hk⟩ := frameFill_ok (hlk ▸ hf)
    refine plainWord_retired hi ?_ ((ring_modLk _ _ _ rfl).trans hk.ring) ((pmctl_modLk _ _ _).trans hk.pmctl)
    unfold fillIfPending
    rw [Cm.run_get_bind]
    dsimp only
    rw [hlk, bitOf_toNat, h, if_pos rfl, hrun]
    simp only [putBits_clear, hlk]
    rfl
  · obtain ⟨hrun, hk⟩ := frameLoad_ok (hlk ▸ h) (hlk ▸ hr)
    exact plainWord_retired hi hrun ((ring_modLk _ _ _ rfl).trans hk.ring) ((pmctl_modLk _ _ _).trans hk.pmctl)

end Sys2Proof.Machine
end

section
/-! The access codes of the cards (Table 0-3). -/

namespace Sys2Proof.Machine
open Sys2Proof.Claims

section
variable {s : State} {who : Tandem} {b : Fin 17}

/-- A unit that no reset holds stays as it is. -/
theorem urstEnd_of_clear {n : Nat} (h : s.clk.urst.getLsbD n = false) : s.urstEnd n = s := by
  unfold State.urstEnd
  rw [h]
  rfl

theorem foldl_urstEnd_of_clear {l : List Nat} (h : ∀ n ∈ l, s.clk.urst.getLsbD n = false) : l.foldl State.urstEnd s = s := by
  induction l with
  | nil => rfl
  | cons n r ih => rw [List.foldl_cons, urstEnd_of_clear (h n (by simp)), ih fun m hm => h m (by simp [hm])]

theorem drainAll_of_empty (h : (s.cpu who).sb = []) : s.drainAll who = s := by
  unfold State.drainAll
  rw [h]
  rfl

/-- No unit of a block that is not busy is in reset. -/
theorem devBusy_eq_false_iff : s.devBusy b = false ↔ (∀ n ∈ blkUnits b, s.clk.urst.getLsbD n = false) ∧ s.unitGated b = false := by
  simp [State.devBusy]

/-- An access that reaches its block does its effect at once. -/
theorem access_of_reaches (h : reaches s who b) (off : Nat) (val : Option Nat) (f : State → State) : s.access who b off val f = f s := by
  obtain ⟨ha, hs, hb⟩ := h
  obtain ⟨hu, hg⟩ := devBusy_eq_false_iff.1 hb
  unfold State.access
  rw [if_pos ha, drainAll_of_empty hs, foldl_urstEnd_of_clear hu]
  simp [ha, hs, hg]

theorem write_narrow {off : BitVec 16} {w : W64} (h : reaches s who b) (ha : regAligned b off.toNat = true)
    (hn : devWide b off.toNat = false) :
    exec (.registerWrite who b off w) s = .next (devWrite s who b off.toNat (w.toNat % 2 ^ 32)) := by
  show Host.Outcome.next _ = _
  unfold State.regWrite
  rw [access_of_reaches h, if_pos ha, hn]
  rfl

theorem write_wide {off : BitVec 16} {w : W64} (h : reaches s who b) (ha : regAligned b off.toNat = true)
    (hn : devWide b off.toNat = true) :
    exec (.registerWrite who b off w) s = .next (devWrite s who b off.toNat w.toNat) := by
  show Host.Outcome.next _ = _
  unfold State.regWrite
  rw [access_of_reaches h, if_pos ha, hn]
  rfl

theorem read_aligned {off : BitVec 16} (h : reaches s who b) (ha : regAligned b off.toNat = true) :
    exec (.registerReadClear who b off) s = .next (s.regValue who b off.toNat) := by
  show Host.Outcome.next _ = _
  unfold State.regRead
  rw [access_of_reaches h, if_pos ha]

/-- An access at an offset that no whole register has does nothing. -/
theorem access_misaligned {off : BitVec 16} {w : W64} (h : reaches s who b) (ha : regAligned b off.toNat = false) :
    exec (.registerReadClear who b off) s = .next s ∧ exec (.registerWrite who b off w) s = .next s := by
  constructor
  · show Host.Outcome.next (State.regRead _ _ _ _) = _
    unfold State.regRead
    rw [access_of_reaches h, ha]
    rfl
  · show Host.Outcome.next (State.regWrite _ _ _ _ _) = _
    unfold State.regWrite
    rw [access_of_reaches h, ha]
    rfl
end

theorem ofNat_low {n : Nat} (h : n ≤ 32) (w : W64) : BitVec.ofNat n (w.toNat % 2 ^ 32) = w.setWidth n :=
  BitVec.eq_of_toNat_eq (by simp [Nat.mod_mod_of_dvd _ (Nat.pow_dvd_pow 2 h)])

theorem bitOf_eq_testBit (v i : Nat) : bitOf v i = v.testBit i := by
  simp [bitOf, Nat.testBit, Nat.shiftRight_eq_div_pow, Nat.and_comm 1, Nat.and_one_is_mod]

theorem bitOf_low {i : Nat} (h : i < 32) (w : W64) : bitOf (w.toNat % 2 ^ 32) i = w.getLsbD i := by
  rw [bitOf_eq_testBit, Nat.testBit_mod_two_pow, decide_eq_true h]
  rfl

/-! A register value is the sum of its fields, the last of which starts at bit 0. -/

section
variable (i j k l m n x y z a b c d : Nat)
theorem pack_two : pack [(i, x), (0, y)] = x * 2 ^ i + y := by simp [pack]
theorem pack_three : pack [(i, x), (j, y), (0, z)] = x * 2 ^ i + y * 2 ^ j + z := by simp [pack]
theorem pack_four : pack [(i, x), (j, y), (k, z), (0, a)] = x * 2 ^ i + y * 2 ^ j + z * 2 ^ k + a := by simp [pack]
theorem pack_seven : pack [(i, x), (j, y), (k, z), (l, a), (m, b), (n, c), (0, d)] =
    x * 2 ^ i + y * 2 ^ j + z * 2 ^ k + a * 2 ^ l + b * 2 ^ m + c * 2 ^ n + d := by simp [pack]
end

section
variable {s t : State} {who : Tandem} {b : Fin 17} {off : BitVec 16} {w : W64}

/-- A write of a 32-bit register leaves `t`. -/
theorem write_of_low (h : reaches s who b) (e : devWrite s who b off.toNat (w.toNat % 2 ^ 32) = t) (ha : regAligned b off.toNat = true)
    (hn : devWide b off.toNat = false) : exec (.registerWrite who b off w) s = .next t := e ▸ write_narrow h ha hn

/-- A read delivers `v` and leaves `t`. -/
theorem read_of {v : Nat} (h : reaches s who b) (e : devRead s who b off.toNat = (v, t)) (ha : regAligned b off.toNat = true) :
    exec (.registerReadClear who b off) s = .next { t with rdata := w64 v } := by
  rw [read_aligned h ha, State.regValue, e]
end

/-- A read of a register of several fields. -/
theorem read_fields {s t : State} {who : Tandem} {b : Fin 17} {off : BitVec 16} {fs : List (Nat × Nat)} {v : Nat} (h : reaches s who b)
    (e : devRead s who b off.toNat = (pack fs, t)) (hv : pack fs = v) (ha : regAligned b off.toNat = true) :
    exec (.registerReadClear who b off) s = .next { t with rdata := w64 v } := read_of h (hv ▸ e) ha

theorem nfcWrite_ie {s : State} {who : Tandem} {v : Nat} (h : s.gate.released = true) :
    nfcWrite who 0x34 v s = { s with nfc := { s.nfc with ie := BitVec.ofNat 3 v } } := by
  unfold nfcWrite
  rw [if_neg (by simp [h])]
  rfl

theorem nfcWrite_evt {s : State} {who : Tandem} {v : Nat} (h : s.gate.released = true) :
    nfcWrite who 0x30 v s = { s with nfc := { s.nfc with evt := s.nfc.evt &&& ~~~(BitVec.ofNat 3 v) } } := by
  unfold nfcWrite
  rw [if_neg (by simp [h])]
  rfl

/-- The count of bad keys stands in the upper half of CLK_STAT. -/
theorem clkStat_badkey (c : Clk) :
    pack [(16, c.badkey), (9, c.lastsrc.code), (8, b2n c.drainfail), (1, b2n c.rootgood), (0, b2n c.plllock)] / 2 ^ 16 = c.badkey := by
  have src : c.lastsrc.code < 2 ^ 7 := by cases c.lastsrc <;> decide
  have flag (x : Bool) : b2n x ≤ 1 := by cases x <;> decide
  have h1 := flag c.drainfail
  have h2 := flag c.rootgood
  have h3 := flag c.plllock
  simp only [pack, List.foldl_cons, List.foldl_nil]
  omega

section
variable {s : State} {who : Tandem} {off : BitVec 16} (h1 : 0x28 ≤ off.toNat) (h2 : off.toNat < 0x100)
include h1 h2

/-- No card of the XSP block lists these offsets. -/
theorem xspWide_unlisted : xspWide off.toNat = false := by simp [xspWide]; omega

theorem regAligned_unlisted (h3 : off.toNat % 4 = 0) : regAligned blkXSP off.toNat = true := by
  have narrow : devWide blkXSP (off.toNat / 8 * 8) = false := by
    show xspWide _ = false
    simp [xspWide]
    omega
  simp [regAligned, h3, narrow]

theorem xspWrite_unlisted (v : Nat) : xspWrite who off.toNat v s = s := by
  unfold xspWrite
  rw [xspWide_unlisted h1 h2]
  simp [show off.toNat ≠ 0x8 by omega, show off.toNat ≠ 0x10 by omega, show off.toNat ≠ 0x18 by omega,
    show off.toNat ≠ 0x20 by omega]

theorem xspRead_unlisted : xspRead off.toNat s = (0, s) := by
  unfold xspRead
  rw [xspWide_unlisted h1 h2]
  simp [show off.toNat ≠ 0 by omega, show off.toNat ≠ 0x8 by omega, show off.toNat ≠ 0x10 by omega, show off.toNat ≠ 0x18 by omega,
    show off.toNat ≠ 0x20 by omega]

end

/-- Registers that hold what is written to them, and whose fields clear or set where 1 is written (Table 0-3). -/
theorem registersFollowTheirAccessCodes : Claims.RegistersFollowTheirAccessCodes := by
  intro who w s write read lo32
  have low {n : Nat} (hn : n ≤ 32) : w.setWidth n = BitVec.ofNat n (w.toNat % 2 ^ 32) := (ofNat_low hn w).symm
  have bit {i : Nat} (hi : i < 32) : w.getLsbD i = bitOf (w.toNat % 2 ^ 32) i := (bitOf_low hi w).symm
  have l32 : lo32 = BitVec.ofNat 32 (w.toNat % 2 ^ 32) := low (Nat.le_refl 32)
  -- RW
  refine ⟨fun h => write_of_low h (by rw [l32]; rfl) rfl rfl, fun h => read_of h rfl rfl,
    fun h => write_of_low h (by rw [low (by decide)]; rfl) rfl rfl, fun h => read_of h rfl rfl,
    fun h => write_of_low h (by rw [low (by decide)]; rfl) rfl rfl,
    fun hr h => write_of_low h (by rw [low (by decide)]; exact nfcWrite_ie hr) rfl rfl, fun h => read_of h rfl rfl,
    fun c => ?_, ?_⟩
  · refine ⟨fun hw => ⟨fun h => ?_, fun h => ?_⟩, fun hw => ⟨fun h => ?_, fun h => ?_⟩, fun h => ?_, fun h => ?_⟩
    · cases c <;> cases who <;> try exact absurd rfl hw
      all_goals exact write_of_low h (by rw [low (by decide)]; rfl) rfl rfl
    · cases c <;> cases who <;> try exact absurd rfl hw
      all_goals exact write_of_low h (by rw [l32]; rfl) rfl rfl
    · subst hw; cases c <;> exact write_of_low h rfl rfl rfl
    · subst hw; cases c <;> exact write_of_low h rfl rfl rfl
    · cases c <;> exact read_of h rfl rfl
    · cases c <;> exact read_of h rfl rfl
  -- W1C
  refine ⟨fun h => write_of_low h (by rw [low (by decide)]; rfl) rfl rfl, fun h => read_of h rfl rfl,
    fun h => ?_,
    fun h => write_of_low h (by rw [bit (by decide), bit (by decide), bit (by decide)]; rfl) rfl rfl,
    fun h => write_of_low h (by rw [bit (by decide), bit (by decide), bit (by decide), bit (by decide)]; rfl) rfl rfl,
    fun h => write_of_low h (by rw [bit (by decide), bit (by decide), bit (by decide)]; rfl) rfl rfl,
    fun h => write_of_low h (by rw [bit (by decide), bit (by decide)]; rfl) rfl rfl,
    fun h => write_of_low h (by rw [bit (by decide)]; rfl) rfl rfl,
    fun h => write_of_low h (by rw [low (by decide)]; rfl) rfl rfl, fun h => read_of h rfl rfl,
    fun hr h => write_of_low h (by rw [low (by decide)]; exact nfcWrite_evt hr) rfl rfl,
    fun c hw h => ?_, ?_⟩
  · rw [write_wide h rfl rfl, ← bitOf_toNat]
    rfl
  · cases c <;> cases who <;> try exact absurd rfl hw
    all_goals exact write_of_low h (by rw [low (by decide)]; rfl) rfl rfl
  -- W1S and its W1C partner
  refine ⟨fun h => write_of_low h (by rw [low (by decide)]; rfl) rfl rfl,
    fun h => write_of_low h (by rw [low (by decide)]; rfl) rfl rfl, fun h => read_of h rfl rfl, ?_⟩
  -- RC
  refine ⟨fun h => read_fields h rfl (pack_two ..) rfl, ⟨_, clkStat_badkey s.clk, fun h => read_of h rfl rfl⟩,
    fun m => ⟨fun h => ?_, fun h => ?_⟩,
    fun h => read_of h rfl rfl, fun h => read_fields h rfl (pack_four ..) rfl, fun h => read_fields h rfl (pack_three ..) rfl,
    fun h => read_fields h rfl (pack_three ..) rfl, fun h => read_fields h rfl (pack_two ..) rfl,
    fun h => read_fields h rfl (pack_two ..) rfl, fun c => ⟨fun h => ?_, fun h => ?_, fun h => ?_⟩,
    fun off h1 h2 h3 => ⟨fun h => ?_, fun h => ?_⟩⟩
  · cases m <;> exact read_fields h rfl (pack_two ..) rfl
  · cases m <;> exact read_fields h rfl (pack_four ..) rfl
  · cases c <;> exact read_fields h rfl (pack_seven ..) rfl
  · cases c <;> exact read_fields h rfl (pack_two ..) rfl
  · cases c <;> exact read_fields h rfl (pack_four ..) rfl
  · exact write_of_low h (xspWrite_unlisted h1 h2 _) (regAligned_unlisted h1 h2 h3) (xspWide_unlisted h1 h2)
  · exact read_of h (xspRead_unlisted h1 h2) (regAligned_unlisted h1 h2 h3)

end Sys2Proof.Machine
end

section
namespace Sys2Proof.Machine
open Sys2Proof.Claims

/-! Lines that leave the L2 (R546, R575). -/

section
variable (s : State)

theorem State.countWord_l2 (w n : Nat) (b : Bool) : (s.countWord w n b).l2 = s.l2 := by
  simp [State.countWord, apply_ite State.l2]

@[simp] theorem State.countSite_l2 (x : Site) (n : Nat) (b : Bool) : (s.countSite x n b).l2 = s.l2 := by
  cases x with
  | reg t => cases t <;> simp [State.countSite, apply_ite State.l2]
  | _ => simp [State.countSite, State.countWord_l2, apply_ite State.l2]

@[simp] theorem State.check_l2 (x : Site) : (s.check x).1.l2 = s.l2 := by
  unfold State.check
  dsimp only
  split <;> simp

@[simp] theorem State.transfer_l2 (x : Site) (n : Nat) : (s.transfer x n).1.l2 = s.l2 := by
  unfold State.transfer
  dsimp only
  split <;> simp

@[simp] theorem State.backWord_l2 (w : Nat) : (s.backWord w).l2 = s.l2 := by
  unfold State.backWord
  dsimp only
  split <;> simp [State.dropped]

theorem foldl_l2 {α : Type} (f : State → α → State) (h : ∀ s x, (f s x).l2 = s.l2) (l : List α) (s : State) :
    (l.foldl f s).l2 = s.l2 := by
  induction l generalizing s with
  | nil => rfl
  | cons x r ih => rw [List.foldl_cons, ih, h]

theorem State.l2Drop_l2 (e : L2Line) :
    (s.l2Drop e).l2 = tmod [] s.l2 (e.line % 2048) fun l => l.filter fun x => x.line != e.line := by
  unfold State.l2Drop
  dsimp only
  rw [foldl_l2 _ fun s w => s.clearSite_l2 _]
  split
  · rw [foldl_l2 _ fun s w => s.backWord_l2 w]
  · rfl

/-- A line that leaves the L2 is gone, every other stays. -/
theorem State.l2Drop_l2Line (e : L2Line) (line : Nat) :
    (s.l2Drop e).l2Line line = if e.line = line then none else s.l2Line line := by
  unfold State.l2Line State.l2At
  rw [State.l2Drop_l2, tmod, tget_tset]
  by_cases h2 : e.line = line
  · rw [if_pos (by rw [h2]), if_pos h2, List.find?_eq_none]
    intro x hx
    rw [List.mem_filter, h2] at hx
    simpa using hx.2
  · rw [if_neg h2]
    by_cases h1 : line % 2048 = e.line % 2048
    · rw [if_pos h1, h1, List.find?_filter]
      congr 1
      funext x
      by_cases hx : x.line = line
      · simp [hx, Ne.symm h2]
      · simp [hx]
    · rw [if_neg h1]

theorem foldl_l2Drop_l2Line (l : List L2Line) (line : Nat) (s : State) (h : s.l2Line line = none ∨ ∃ e ∈ l, e.line = line) :
    (l.foldl State.l2Drop s).l2Line line = none := by
  induction l generalizing s with
  | nil => simpa using h
  | cons e r ih =>
    refine ih _ ?_
    rw [s.l2Drop_l2Line]
    by_cases he : e.line = line
    · exact .inl (if_pos he)
    · rw [if_neg he]
      simpa [he] using h

theorem mem_of_tget {α : Type} {d v : α} : ∀ {t : Tbl α} {k : Nat}, tget d t k = v → v ≠ d → (k, v) ∈ t
  | [], _, h, hv => absurd h.symm hv
  | (j, w) :: r, k, h, hv => by
    rw [tget] at h
    split at h
    · rename_i hj
      rw [hj, h]
      exact List.mem_cons_self
    · exact List.mem_cons_of_mem _ (mem_of_tget h hv)

/-- No line that satisfies `p` stays. -/
theorem State.l2Remove_l2Line {p : Nat → Bool} {line : Nat} (hp : p line = true) : (s.l2Remove p).l2Line line = none := by
  refine foldl_l2Drop_l2Line _ line s ?_
  cases h : s.l2Line line with
  | none => exact .inl rfl
  | some e =>
    have hl : e.line = line := by simpa using List.find?_some h
    have hm : e ∈ s.l2At line := List.mem_of_find?_eq_some h
    have ht : (line % 2048, s.l2At line) ∈ s.l2 := mem_of_tget rfl (List.ne_nil_of_mem hm)
    exact .inr ⟨e, List.mem_filter.2 ⟨List.mem_flatMap.2 ⟨_, ht, hm⟩, by rw [hl]; exact hp⟩, hl⟩

end

/-! xSPI commands (R575, R576, R586). -/

theorem cmdPort_eq (v : BitVec 32) : cmdPort v.toNat = if v.getLsbD 29 then .b else .a := by
  rw [cmdPort, bitOf_toNat]

theorem windowLine_of (onB : Bool) (line : Nat) (h : windowLineOf onB line) : windowLine (if onB then .b else .a) line = true := by
  cases onB <;> exact Bool.and_eq_true_iff.2 ⟨decide_eq_true h.1, decide_eq_true h.2⟩

/-- The command under way ends, whatever ends it. -/
theorem xspEnd_ended (s : State) (x : Xsp) : xspEnded s (s.xspEnd x) x := by
  have turn (c : Cpu) : c.portTurn (cmdPort s.xsp.run.toNat) = nextAtPort (s.xsp.run.getLsbD 29) c := by
    rw [cmdPort_eq]
    rfl
  unfold State.xspEnd
  dsimp only
  rw [bitOf_toNat, turn, turn, turn]
  refine ⟨fun h => if_neg (by rw [h]; exact Bool.false_ne_true), fun h => ?_⟩
  rw [if_pos h]
  refine ⟨(Light.l2Remove _ _).quiet, fun line hl => ?_⟩
  refine State.l2Remove_l2Line _ ?_
  rw [cmdPort_eq]
  exact windowLine_of _ _ hl

/-- A byte of the flash after the changes of a command: the last that names it. -/
theorem tget_change (p : XspPort) (ch : List (Nat × Byte)) (a : Nat) :
    tget 0xFF (p.change ch).flash a = (ch.reverse.lookup a).getD (tget 0xFF p.flash a) := by
  have last : (p.change ch).flash = ch.reverse.foldr (fun c f => tset 0xFF f c.1 c.2) p.flash := List.foldr_reverse.symm
  rw [last]
  induction ch.reverse with
  | nil => rfl
  | cons c r ih =>
    rw [List.foldr_cons, tget_tset, ih, List.lookup_cons]
    by_cases h : a = c.1
    · simp [h]
    · rw [if_neg h, beq_eq_false_iff_ne.2 h]

/-- A byte of the buffer after the bytes of a read. -/
theorem tget_received (n : Nat) : ∀ (k : Nat) (rx : List Byte) (buf : Tbl Byte) (i : Nat),
    tget 0 (((List.range' k n).zip rx).foldl (fun b q => tset 0 b q.1 q.2) buf) i =
      if k ≤ i ∧ i < k + n ∧ i < k + rx.length then rx.getD (i - k) 0 else tget 0 buf i := by
  induction n with
  | zero => intro k rx buf i; rw [if_neg (by omega)]; rfl
  | succ n ih =>
    intro k rx buf i
    cases rx with
    | nil => rw [List.zip_nil_right, if_neg (by simp; omega)]; rfl
    | cons x r =>
      rw [List.range'_succ, List.zip_cons_cons, List.foldl_cons, ih, tget_tset]
      by_cases hi : i = k
      · subst hi
        rw [if_neg (by omega), if_pos rfl, if_pos (by simp)]
        simp
      · by_cases hk : k + 1 ≤ i ∧ i < k + 1 + n ∧ i < k + 1 + r.length
        · rw [if_pos hk, if_pos (by simp; omega), show i - k = (i - (k + 1)) + 1 by omega, List.getD_cons_succ]
        · rw [if_neg hk, if_neg hi, if_neg (by simp; omega)]

/-- XSP_COMMAND_END: the bytes read, and what the flash changed (R575). -/
theorem xspCommandEnd_ends (rx : List Byte) (ch : List (Nat × Byte)) (s : State) (hb : s.xsp.busy = true) (hc : s.clk.crystal = true) :
    ∃ s' x, exec (.xspCommandEnd rx ch) s = .next s' ∧ xspEnded s s' x ∧ x.timeout = s.xsp.timeout ∧ x.refused = s.xsp.refused ∧
      (if s.xsp.run.getLsbD 29 then x.a = s.xsp.a else x.b = s.xsp.b) ∧
      (∀ a, tget 0xFF (if s.xsp.run.getLsbD 29 then x.b else x.a).flash a =
        ((ch.reverse.lookup a).getD (tget 0xFF (if s.xsp.run.getLsbD 29 then s.xsp.b else s.xsp.a).flash a))) ∧
      (∀ i, tget 0 x.buf i = if s.xsp.run.getLsbD 27 = false ∧ i < s.xsp.run.toNat / 2 ^ 12 % 2 ^ 9 ∧ i < rx.length
        then rx.getD i 0 else tget 0 s.xsp.buf i) := by
  have run : exec (.xspCommandEnd rx ch) s = .next (if s.xsp.busy && s.clk.crystal then
      s.xspEnd { s.xsp.setPort (cmdPort s.xsp.run.toNat) ((s.xsp.port (cmdPort s.xsp.run.toNat)).change ch) with
        buf := if bitOf s.xsp.run.toNat 27 then s.xsp.buf
          else ((List.range (fld s.xsp.run.toNat 12 9)).zip rx).foldl (fun b q => tset 0 b q.1 q.2) s.xsp.buf } else s) := rfl
  rw [hb, hc, Bool.and_self, if_pos rfl] at run
  refine ⟨_, _, run, xspEnd_ended s _, ?_⟩
  rw [cmdPort_eq, bitOf_toNat]
  have buf (i : Nat) : tget 0 (if s.xsp.run.getLsbD 27 then s.xsp.buf
      else ((List.range (fld s.xsp.run.toNat 12 9)).zip rx).foldl (fun b q => tset 0 b q.1 q.2) s.xsp.buf) i =
      if s.xsp.run.getLsbD 27 = false ∧ i < s.xsp.run.toNat / 2 ^ 12 % 2 ^ 9 ∧ i < rx.length
        then rx.getD i 0 else tget 0 s.xsp.buf i := by
    cases s.xsp.run.getLsbD 27 with
    | true => simp
    | false =>
      rw [if_neg Bool.false_ne_true, List.range_eq_range', tget_received]
      simp [fld]
  cases s.xsp.run.getLsbD 29 with
  | true => exact ⟨rfl, rfl, rfl, tget_change _ ch, buf⟩
  | false => exact ⟨rfl, rfl, rfl, tget_change _ ch, buf⟩

/-! Strobes (R577, R586, R589). -/

theorem strobePort_iff (s : State) (t : Tandem) (rg : Region) (turn : Bool) (w : Nat) :
    s.strobePort t rg turn w = true ↔ strobeAwaited s t rg turn w := by
  unfold State.strobePort strobeAwaited
  rw [cmdPort_eq]
  cases s.windowMiss t rg w with
  | none => simp
  | some q => simp [and_assoc]

theorem runWordPm_waits {t : Tandem} {k : Kind} {s s1 s2 : State} (h : Issues t k s s1) (pair : Bool) (wrote : Option Nat)
    {body : Cm Ret} (hb : body.run s1 = .error Exc.waits s2) : runWordPm t k pair wrote body s = s := by
  unfold runWordPm
  rw [if_pos h.1, h.run, hb]
  exact if_pos rfl

theorem Issues.wait {t : Tandem} {k : Kind} {s s1 : State} (h : Issues t k s s1) : (s.cpu t).wait = .none := by
  have := h.1
  simp only [State.ready, Bool.and_eq_true, beq_iff_eq] at this
  exact this.1.2

/-- A strobe that a word's load misses. -/
theorem strobe_of_word {t : Tandem} {va : BitVec 44} {s s1 s2 : State} {ph : Phys} {rg : Region} (h : Issues t .plain s s1)
    (htr : (translate t .load .none (s.cpu t).ring va.toNat 1).run s1 = .ok (ph, rg) s2) :
    exec (.xspStrobeTimeout (some (t, va))) s = .next (if s2.strobePort t rg false (ph.lo / 8) then
      fetchAhead t (takeFault t ⟨3, 0x40, 3, 0, false, va.toNat⟩ s2) else s) := by
  have word : exec (.xspStrobeTimeout (some (t, va))) s = .next (runWord t .plain false (strobeMiss t va.toNat) s) := by
    show Host.Outcome.next (match (s.cpu t).wait with | .load q => _ | _ => _) = _
    rw [h.wait]
  have miss : (strobeMiss t va.toNat).run s1 =
      if s2.strobePort t rg false (ph.lo / 8) then .error ⟨3, 0x40, 3, 0, false, va.toNat⟩ s2 else .error Exc.waits s2 := by
    rw [← h.ring] at htr
    unfold strobeMiss
    rw [Cm.run_get_bind, Cm.run_bind_ok htr]
    refine (Cm.run_get_bind _ _).trans ((Cm.run_ite _ _ _ _).trans ?_)
    rw [Cm.run_raiseAt, Nat.mod_eq_of_lt va.isLt, Cm.run_throw]
  rw [word]
  congr 1
  split
  · rename_i hs
    rw [if_pos hs] at miss
    exact runWordPm_fault h false none miss fun e => by simp [Exc.waits] at e
  · rename_i hs
    rw [if_neg hs] at miss
    exact runWordPm_waits h false none miss

/-! DRAM (R568, R569). -/

theorem clearFresh_lowest {lo hi : Nat} {r : List (Nat × Nat)} (h : lo < hi) (hr : ∀ q ∈ r, lo < q.1) :
    clearFresh lo ((lo, hi) :: r) = (if lo + 1 < hi then [(lo + 1, hi)] else []) ++ r := by
  have rest : clearFresh lo r = r := by
    unfold clearFresh
    induction r with
    | nil => rfl
    | cons q r ih =>
      rw [List.flatMap_cons, ih fun p hp => hr p (by simp [hp]), if_neg]
      · rfl
      · have := hr q (by simp)
        omega
  have : clearFresh lo ((lo, hi) :: r) = (if lo ≤ lo ∧ lo < hi then (if lo < lo then [(lo, lo)] else []) ++
      (if lo + 1 < hi then [(lo + 1, hi)] else []) else [(lo, hi)]) ++ clearFresh lo r := rfl
  rw [this, rest, if_pos ⟨Nat.le_refl lo, h⟩, if_neg (Nat.lt_irrefl lo), List.nil_append]

theorem tget_tclr {α : Type} (d : α) (t : Tbl α) (lo hi k : Nat) :
    tget d (tclr t lo hi) k = if lo ≤ k ∧ k < hi then d else tget d t k := by
  unfold tclr
  induction t with
  | nil => simp [tget]
  | cons e r ih =>
    obtain ⟨j, v⟩ := e
    by_cases hj : j < lo ∨ hi ≤ j
    · rw [List.filter_cons_of_pos (by simpa using hj), tget, tget, ih]
      by_cases hk : j = k
      · rw [if_pos hk, if_pos hk, if_neg (by omega)]
      · rw [if_neg hk, if_neg hk]
    · rw [List.filter_cons_of_neg (by simpa using hj), ih, tget]
      by_cases hk : j = k
      · rw [if_pos (by omega), if_pos (by omega)]
      · rw [if_neg hk]

/-! Accesses that wait for older stores and unit resets (R186, R190, R557). -/

theorem foldl_clk {α : Type} (f : State → α → State) (h : ∀ s x, (f s x).clk.urst = s.clk.urst) (l : List α) (s : State) :
    (l.foldl f s).clk.urst = s.clk.urst := by
  induction l generalizing s with
  | nil => rfl
  | cons x r ih => rw [List.foldl_cons, ih, h]

theorem State.warmStart_urst (s : State) : s.warmStart.clk.urst = s.clk.urst := by
  unfold State.warmStart
  split <;> rfl

theorem State.freeHelm_urst (s : State) : s.freeHelm.clk.urst = s.clk.urst := by
  unfold State.freeHelm State.imgAbort
  split
  · rfl
  · dsimp only
    rw [State.modUat_clk, State.modUat_clk, State.invalidate, State.hw_clk]
    dsimp only
    split <;> rfl

theorem State.endSession_urst (s : State) (n : Fin 5) : (s.endSession n).clk.urst = s.clk.urst := by
  unfold State.endSession State.modSes
  dsimp only
  rw [State.modUat_clk, State.modUat_clk]
  have helm : (if s.uat.helm = some n then s.freeHelm else s).clk.urst = s.clk.urst := by
    split
    · exact s.freeHelm_urst
    · rfl
  generalize (if s.uat.helm = some n then s.freeHelm else s) = r at helm ⊢
  split
  · split
    · exact (State.warmStart_urst _).trans helm
    · exact helm
  · exact helm

theorem State.prompt_urst (s : State) (n : Fin 5) : (s.prompt n).clk.urst = s.clk.urst := by
  unfold State.prompt
  split <;> rfl

theorem State.startSession_urst (s : State) (n : Fin 5) (restart : Option Text) : (s.startSession n restart).clk.urst = s.clk.urst := by
  unfold State.startSession
  rw [State.prompt_urst]
  refine (foldl_clk _ (fun _ _ => ?_) _ _).trans rfl
  rfl

theorem State.settleSessions_urst (s : State) (restart : Option Text) : (s.settleSessions restart).clk.urst = s.clk.urst := by
  unfold State.settleSessions
  refine foldl_clk _ (fun s n => ?_) _ s
  split
  · exact s.endSession_urst n
  · split
    · exact s.startSession_urst n restart
    · rfl

/-- The end of a unit's reset ends no other's, and begins none. -/
theorem urstEnd_urst (s : State) (n m : Nat) : (s.urstEnd n).clk.urst.getLsbD m = (s.clk.urst.getLsbD m && decide (m ≠ n)) := by
  by_cases h : s.clk.urst.getLsbD n = true
  · have lt : n < 11 := BitVec.lt_of_getLsbD h
    unfold State.urstEnd
    rw [if_pos h, State.settleSessions_urst]
    show (s.clk.urst &&& ~~~(BitVec.ofNat 11 (2 ^ n))).getLsbD m = _
    by_cases hm : m < 11
    · rw [BitVec.getLsbD_and, BitVec.getLsbD_not, BitVec.getLsbD_ofNat, Nat.testBit_two_pow]
      simp [hm, eq_comm]
    · rw [BitVec.getLsbD_of_ge _ _ (by omega), BitVec.getLsbD_of_ge _ _ (by omega), Bool.false_and]
  · rw [urstEnd_of_clear (by simpa using h)]
    by_cases hm : m = n
    · subst hm; simpa using h
    · simp [hm]

theorem foldl_urstEnd_urst (l : List Nat) (m : Nat) (s : State) :
    (l.foldl State.urstEnd s).clk.urst.getLsbD m = (s.clk.urst.getLsbD m && decide (m ∉ l)) := by
  induction l generalizing s with
  | nil => simp
  | cons n r ih => rw [List.foldl_cons, ih, urstEnd_urst, Bool.and_assoc]; simp

section
variable {s : State} {who : Tandem} {b : Fin 17} (off : Nat) (val : Option Nat) (f : State → State)

/-- The state in which an access of a tandem that executes finds its block: older stores have come first, and unit resets of the
block have ended. -/
theorem access_eq (h : s.acc who b = true) : s.access who b off val f =
    let d := (blkUnits b).foldl State.urstEnd (s.drainAll who)
    if !d.acc who b then d else if (d.cpu who).sb.isEmpty && !d.unitGated b then f d else d.accessWaits who b off val := by
  unfold State.access
  rw [if_pos h]

theorem regAligned_iff {n : Nat} : regAligned b n = true ↔ wholeRegister b n := by
  simp [regAligned, wholeRegister]

variable {d : State} (hd : d = (blkUnits b).foldl State.urstEnd (s.drainAll who))
include hd

theorem access_reached (h : s.acc who b = true) (ha : d.acc who b = true) (hs : (d.cpu who).sb = []) (hg : d.unitGated b = false) :
    s.access who b off val f = d.access who b off val f := by
  have hr : reaches d who b := ⟨ha, hs, devBusy_eq_false_iff.2 ⟨fun n hn => by rw [hd, foldl_urstEnd_urst]; simp [hn], hg⟩⟩
  rw [access_of_reaches hr, access_eq _ _ _ h]
  dsimp only
  rw [← hd]
  simp [ha, hs, hg]

/-- An access whose tandem has stopped, or that must wait where no whole register stands, leaves what the older stores leave. -/
theorem access_nothing (h : s.acc who b = true)
    (hn : d.acc who b = false ∨ (¬ wholeRegister b off ∧ ((d.cpu who).sb ≠ [] ∨ d.unitGated b = true))) :
    s.access who b off val f = d := by
  rw [access_eq _ _ _ h]
  dsimp only
  rw [← hd]
  obtain ha | ⟨hw, hb⟩ := hn
  · simp [ha]
  · have wait : ((d.cpu who).sb.isEmpty && !d.unitGated b) = false := by obtain hb | hb := hb <;> simp [hb]
    rw [wait]
    split
    · rfl
    · unfold State.accessWaits
      simp [mt regAligned_iff.1 hw]

theorem access_waits (h : s.acc who b = true) (ha : d.acc who b = true) (hb : (d.cpu who).sb ≠ [] ∨ d.unitGated b = true)
    (hw : wholeRegister b off) : s.access who b off val f = match val with
      | some v => if (d.cpu who).sb.length < sbCap who then
          buffered d who [⟨devBase + 0x10000 * b.val + off, bytesOf (if devWide b off then 8 else 4) v, .dev⟩] else d
      | none => if (d.cpu who).wait = .none then d.modCpu who fun c => { c with wait := .read b off } else d := by
  have wait : ((d.cpu who).sb.isEmpty && !d.unitGated b) = false := by obtain hb | hb := hb <;> simp [hb]
  rw [access_eq _ _ _ h]
  dsimp only
  rw [← hd, wait, ha]
  unfold State.accessWaits
  dsimp only [Bool.not_true]
  rw [regAligned_iff.2 hw]
  cases val <;> simp <;> rfl

end

end Sys2Proof.Machine
end

section
namespace Sys2Proof.Machine
open Sys2Proof.Claims

/-- What two disjoint masks keep of a word adds up. -/
theorem toNat_and_or_of_disjoint {n : Nat} (v x y : BitVec n) (h : x &&& y = 0#n) :
    (v &&& (x ||| y)).toNat = (v &&& x).toNat + (v &&& y).toNat := by
  have disjoint : v &&& x &&& (v &&& y) = 0#n := by
    calc v &&& x &&& (v &&& y) = v &&& v &&& (x &&& y) := by ac_rfl
      _ = 0#n := by rw [h, BitVec.and_zero]
  rw [BitVec.and_or_distrib_left, ← BitVec.add_eq_or_of_and_eq_zero _ _ disjoint, BitVec.toNat_add_of_and_eq_zero disjoint]

/-- A field in its place is what its mask keeps. -/
theorem fld_eq_and (n lo len : Nat) : fld n lo len * 2 ^ lo = n &&& (2 ^ len - 1) * 2 ^ lo := by
  refine Nat.eq_of_testBit_eq fun i => ?_
  rw [fld, Nat.testBit_and, Nat.testBit_mul_two_pow, Nat.testBit_mul_two_pow, Nat.testBit_mod_two_pow, Nat.testBit_div_two_pow,
    Nat.testBit_two_pow_sub_one]
  by_cases h : lo ≤ i
  · rw [Nat.sub_add_cancel h, decide_eq_true h, Bool.true_and, Bool.true_and, Bool.and_comm]
  · simp [h]

/-- The fields that XSP_CMD takes from what is written to it. -/
theorem xspCmd_fields (v : BitVec 32) :
    BitVec.ofNat 32 (v.toNat % 2 ^ 31 - fld v.toNat 21 1 * 2 ^ 21 - fld v.toNat 8 4 * 2 ^ 8) = v &&& 0x7FDFF0FF := by
  have h0 : v.toNat % 2 ^ 31 = (v &&& 0x7FFFFFFF).toNat := (Nat.and_two_pow_sub_one_eq_mod _ 31).symm
  have h1 : fld v.toNat 21 1 * 2 ^ 21 = (v &&& 0x200000).toNat := fld_eq_and _ 21 1
  have h2 : fld v.toNat 8 4 * 2 ^ 8 = (v &&& 0xF00).toNat := fld_eq_and _ 8 4
  have h3 : (v &&& 0x7FFFFFFF).toNat = (v &&& 0x7FDFFFFF).toNat + (v &&& 0x200000).toNat :=
    toNat_and_or_of_disjoint v _ _ (show (0x7FDFFFFF#32) &&& 0x200000#32 = 0#32 by decide)
  have h4 : (v &&& 0x7FDFFFFF).toNat = (v &&& 0x7FDFF0FF).toNat + (v &&& 0xF00).toNat :=
    toNat_and_or_of_disjoint v _ _ (show (0x7FDFF0FF#32) &&& 0xF00#32 = 0#32 by decide)
  rw [h0, h1, h2, h3, h4, Nat.add_sub_cancel, Nat.add_sub_cancel, BitVec.ofNat_toNat, BitVec.setWidth_eq]

theorem portHeld_cmdPort (s : State) (v : BitVec 32) : s.portHeld (cmdPort v.toNat) = (v.getLsbD 29 && (s.gated 22 || s.gated 24)) := by
  rw [cmdPort_eq]
  cases v.getLsbD 29 <;> rfl

theorem xspRefuses_iff (s : State) (who : Tandem) (v : BitVec 32) : s.xspRefuses who v.toNat = true ↔ cmdRefused s who v := by
  unfold State.xspRefuses cmdRefused
  rw [cmdPort_eq, bitOf_toNat, fld]
  have g : who.isG = false ↔ who ≠ .g := by cases who <;> decide
  simp [g, and_assoc, or_assoc]

/-- A write of XSP_CMD that reaches the block. -/
theorem xspCommand_run {s : State} {who : Tandem} (v : BitVec 32) (h : reaches s who blkXSP) :
    exec (.xspCommand who v) s = .next (xspCmdWrite who v.toNat s) := by
  show Host.Outcome.next (s.access who blkXSP 0x18 (some v.toNat) _) = _
  rw [access_of_reaches h]
  show Host.Outcome.next (xspCmdWrite who (v.toNat % 2 ^ 32) s) = _
  rw [Nat.mod_eq_of_lt v.isLt]

theorem xspCmdWrite_eq (s : State) (who : Tandem) (v : BitVec 32) : xspCmdWrite who v.toNat s = xsp s fun x =>
    if v.getLsbD 31 = false ∨ (v.getLsbD 29 && (s.gated 22 || s.gated 24)) = true then { x with cmd := v &&& 0x7FDFF0FF }
    else if s.xspRefuses who v.toNat then { x with cmd := v &&& 0x7FDFF0FF, refused := true }
    else { x with cmd := v &&& 0x7FDFF0FF, busy := true, run := v &&& 0x7FDFF0FF } := by
  unfold xspCmdWrite
  rw [xspCmd_fields, bitOf_toNat, portHeld_cmdPort]
  dsimp only
  simp only [Bool.or_eq_true, Bool.not_eq_true']
  by_cases hn : v.getLsbD 31 = false ∨ (v.getLsbD 29 && (s.gated 22 || s.gated 24)) = true
  · rw [if_pos hn, xsp, if_pos hn]
  · rw [if_neg hn, xsp, if_neg hn]
    split <;> rfl

/-! The identification (R9). -/

section
variable (s : State) (who : Tandem) (b : Fin 17)

theorem devRead_id (hb : b ≠ 2) : devRead s who b 0 = ((blockId b).toNat, s) := by
  match b, hb with
  | 0, _ | 1, _ | 3, _ | 4, _ | 5, _ | 6, _ | 7, _ | 8, _ | 9, _ | 10, _ | 11, _ | 12, _ | 13, _ | 14, _ | 15, _ | 16, _ => rfl
  | 2, hb => exact absurd rfl hb
  | ⟨n + 17, h⟩, _ => exact absurd h (by omega)

theorem devWrite_id (v : Nat) : devWrite s who b 0 v = s := by
  have can (c : Side) : canWrite c who 0 v s = s := by cases c <;> cases who <;> rfl
  have sch (m : Side) : schWrite m who 0 v s = s := by cases m <;> cases who <;> rfl
  have nfc : nfcWrite who 0 v s = s := by
    unfold nfcWrite
    split <;> rfl
  match b with
  | 4 => exact sch .a
  | 5 => exact sch .b
  | 13 => exact can .a
  | 14 => exact can .b
  | 15 => exact nfc
  | 0 | 1 | 2 | 3 | 6 | 7 | 8 | 9 | 10 | 11 | 12 | 16 => rfl
  | ⟨n + 17, h⟩ => exact absurd h (by omega)

end

section
variable {s : State} {who : Tandem} {b : Fin 17} (h : reaches s who b)
include h

theorem read_id (hb : b ≠ 2) : exec (.registerReadClear who b 0) s = .next { s with rdata := blockId b } := by
  have value : w64 (blockId b).toNat = blockId b := BitVec.ofNat_toNat .. |>.trans (BitVec.setWidth_eq _)
  refine (read_of (off := 0) h (devRead_id s who b hb) rfl).trans ?_
  rw [value]

theorem write_id (w : W64) : exec (.registerWrite who b 0 w) s = .next s := by
  have e := devWrite_id s who b
  cases hn : devWide b 0 with
  | false => exact (write_narrow (off := 0) h rfl hn).trans (congrArg _ (e _))
  | true => exact (write_wide (off := 0) h rfl hn).trans (congrArg _ (e _))

end

/-! DRAM. -/

theorem dramRefresh_run (s : State) : exec .dramRefresh s = .next (if s.clk.crystal = true ∧
      ((s.drc.a.ready = true ∧ s.drc.a.sref = false) ∨ (s.drc.b.ready = true ∧ s.drc.b.sref = false))
    then { s with drc := { s.drc with refreshes := s.drc.refreshes + 1 } } else s) := by
  show execDramRefresh s = _
  simp [execDramRefresh]

theorem backgroundClear_none {s : State} (h : s.dramSize = 0 ∨ s.clk.crystal = false) : exec .dramBackgroundClearBlock s = .next s := by
  have : execDramBackgroundClearBlock s = .next s := congrArg Host.Outcome.next (if_pos (by simpa using h))
  exact this

theorem backgroundClear_run {s : State} (h : s.dramSize ≠ 0) (hc : s.clk.crystal = true) :
    exec .dramBackgroundClearBlock s = .next (match s.drc.fresh with
      | [] => { s with drc := { s.drc with cleared := true } }
      | r :: _ =>
        let lo := dramBase / 8 + r.1 * 0x2000
        let rest := clearFresh r.1 s.drc.fresh
        { s with upset := s.upset.filter fun u => !(u.site.inBlock lo), mem := tclr s.mem lo (lo + 0x2000),
                 drc := { s.drc with fresh := rest, cleared := rest.isEmpty } }) :=
  congrArg Host.Outcome.next (if_neg (by simp [h, hc]))

theorem backgroundClear_lowest {s : State} (h : s.dramSize ≠ 0) (hc : s.clk.crystal = true) {lo hi : Nat} {r : List (Nat × Nat)}
    (hf : s.drc.fresh = (lo, hi) :: r) (hl : lo < hi) (hr : ∀ q ∈ r, lo < q.1) :
    ∃ s', exec .dramBackgroundClearBlock s = .next s' ∧
      { s' with mem := s.mem, drc := s.drc, upset := s.upset } = s ∧
      (∀ k, tget TWord.unwritten s'.mem k = if 0x200000000 + lo * 0x2000 ≤ k ∧ k < 0x200000000 + (lo + 1) * 0x2000
        then TWord.unwritten else tget TWord.unwritten s.mem k) ∧
      s'.drc.fresh = (if lo + 1 < hi then [(lo + 1, hi)] else []) ++ r ∧ s'.drc.cleared = s'.drc.fresh.isEmpty := by
  refine ⟨_, backgroundClear_run h hc, ?_⟩
  rw [hf]
  refine ⟨rfl, fun k => ?_, clearFresh_lowest hl hr, rfl⟩
  refine (tget_tclr _ _ _ _ _).trans ?_
  have base : dramBase / 8 = 0x200000000 := by decide
  dsimp only
  rw [base, Nat.add_mul, Nat.one_mul, Nat.add_assoc]

/-! Strobes that no load awaits. -/

/-- The strobe of the command under way does not come (R589). -/
theorem strobe_of_command (s : State) : exec (.xspStrobeTimeout none) s = .next (if s.xsp.busy = true ∧ s.clk.crystal = true ∧
      (if s.xsp.run.getLsbD 29 then s.xsp.b.mode else s.xsp.a.mode) = 2 ∧ s.xsp.run.getLsbD 27 = false ∧
      0 < s.xsp.run.toNat / 2 ^ 12 % 2 ^ 9
    then s.xspEnd { s.xsp with timeout := true } else s) := by
  have mode : (s.xsp.port (cmdPort s.xsp.run.toNat)).mode = if s.xsp.run.getLsbD 29 then s.xsp.b.mode else s.xsp.a.mode := by
    rw [cmdPort_eq]
    cases s.xsp.run.getLsbD 29 <;> rfl
  show Host.Outcome.next s.timeoutEnd = _
  unfold State.timeoutEnd
  dsimp only
  rw [mode, bitOf_toNat, fld]
  simp [and_assoc]

/-- The strobe of a load that waits for its port does not come (R589). -/
theorem strobe_of_wait {s : State} {t : Tandem} {va : BitVec 44} {q : LoadReq} {rg : Region} (hw : (s.cpu t).wait = .load q)
    (hr : s.regionOf t q.phys.lo q.phys.n = some rg) : exec (.xspStrobeTimeout (some (t, va))) s = .next (
      if ((s.cpu t).run = .running ∧ s.clk.crystal = true ∧ q.va = va.toNat) ∧ s.strobePort t rg q.turn (q.phys.lo / 8) = true then
        takeFault t ⟨3, 0x40, 3, 0, false, q.va⟩ (s.modCpu t fun c => { c with wait := .none }) else s) := by
  show Host.Outcome.next (match (s.cpu t).wait with | .load q => _ | _ => _) = _
  rw [hw]
  dsimp only
  rw [hr]
  simp [and_assoc]

/-- What an access of a register comes to, and what the volatile memories' commands do (chapter 12). -/
theorem registerAccessesReachTheirBlock : Claims.RegisterAccessesReachTheirBlock := by
  intro who b off w v rx ch s
  have read (s : State) : exec (.registerReadClear who b off) s = .next (s.access who b off.toNat none _) := rfl
  have write (s : State) : exec (.registerWrite who b off w) s = .next (s.access who b off.toNat (some w.toNat) _) := rfl
  refine ⟨fun h hb => ⟨?_, ?_⟩, ?_, fun h => ⟨fun ha hs hg => ?_, fun hn => ?_, fun ha hb hw => ?_⟩,
    fun h => ⟨fun hn => ?_, fun h31 hh hr => ?_, fun h31 hh hr => ?_⟩,
    ⟨fun hb hc => ⟨fun hm hr => ?_, fun hn => ?_, xspCommandEnd_ends rx ch s hb hc⟩, fun hn => ⟨?_, ?_⟩⟩,
    fun va s1 ph rg s2 hi ht => ⟨fun ha => ?_, fun ha => ?_⟩, fun va q rg hw hr => ⟨fun hm => ?_, fun hm => ?_⟩,
    dramRefresh_run s, backgroundClear_none, fun h hc => ⟨fun hf => ?_, fun lo hi r hf => backgroundClear_lowest h hc hf⟩⟩
  -- the identification
  · exact read_id h hb
  · exact write_id h w
  -- a register that the initiator does not reach
  · rintro (h | ⟨h, ho⟩)
    · rw [read, write, State.access, State.access, h]
      exact ⟨rfl, rfl⟩
    · exact access_misaligned h (by simp [regAligned, ho])
  -- older stores and unit resets
  · rw [read, write, access_reached _ _ _ rfl h ha hs hg, access_reached _ _ _ rfl h ha hs hg]
    exact ⟨rfl, rfl⟩
  · rw [read, write, access_nothing _ _ _ rfl h hn, access_nothing _ _ _ rfl h hn]
    exact ⟨rfl, rfl⟩
  · rw [read, write, access_waits _ _ _ rfl h ha hb hw, access_waits _ _ _ rfl h ha hb hw]
    exact ⟨rfl, rfl⟩
  -- XSP_CMD
  · rw [xspCommand_run v h, xspCmdWrite_eq, xsp, if_pos hn]
    rfl
  · rw [xspCommand_run v h, xspCmdWrite_eq, xsp, if_neg (by rw [h31, hh]; decide), if_pos ((xspRefuses_iff s who v).2 hr)]
    rfl
  · rw [xspCommand_run v h, xspCmdWrite_eq, xsp, if_neg (by rw [h31, hh]; decide), if_neg (mt (xspRefuses_iff s who v).1 hr)]
    rfl
  -- the end of a command
  · exact ⟨_, (strobe_of_command s).trans (congrArg _ (if_pos ⟨hb, hc, hm, hr⟩)), xspEnd_ended s _⟩
  · refine (strobe_of_command s).trans (congrArg _ (if_neg ?_))
    rintro ⟨-, -, hm, hr⟩
    exact hn.elim (absurd hm) (absurd hr)
  · refine (strobe_of_command s).trans (congrArg _ (if_neg ?_))
    rintro ⟨hb, hc, -⟩
    simp [hb, hc] at hn
  · refine congrArg Host.Outcome.next (if_neg ?_)
    obtain hn | hn := hn <;> simp [hn]
  -- a load whose strobe does not come
  · exact (strobe_of_word hi ht).trans (congrArg _ (if_pos ((strobePort_iff ..).2 ha)))
  · exact (strobe_of_word hi ht).trans (congrArg _ (if_neg (mt (strobePort_iff ..).1 ha)))
  · obtain ⟨hrun, hc, hva, hs⟩ := hm
    rw [strobe_of_wait hw hr, if_pos ⟨⟨hrun, hc, hva⟩, (strobePort_iff ..).2 hs⟩, hva]
  · refine (strobe_of_wait hw hr).trans (congrArg _ (if_neg ?_))
    rintro ⟨⟨hrun, hc, hva⟩, hs⟩
    exact hm ⟨hrun, hc, hva, (strobePort_iff ..).1 hs⟩
  -- the background clear
  · rw [backgroundClear_run h hc, hf]

/-- Settles O35: the cards' access codes one register at a time, and the order in which an access meets gates, older stores and
unit resets before its block. -/
theorem registerAccessesAndVolatileMemory : Obligations.RegisterAccessesAndVolatileMemory :=
  ⟨registersFollowTheirAccessCodes, registerAccessesReachTheirBlock⟩

end Sys2Proof.Machine
end

section
/-! What an evaluation leaves of the write counts (R654, R655, R670): it saves the metadata, and a save writes the 16 metadata
frames. -/

namespace Sys2Proof.Machine
open Sys2Proof.Claims

/-- A count of macro writes adds to its own frame alone, and saturates (R654). -/
theorem GrmMeta.wear_w (m : GrmMeta) (p n q : Nat) :
    (m.wear p n).w q = if q = p then satAdd (2 ^ 48 - 1) (m.w q) n else m.w q := by
  refine (tget_tset 0 m.wf p q _).trans ?_
  by_cases h : q = p
  · rw [if_pos h, if_pos h, h]
    rfl
  · rw [if_neg h, if_neg h]
    rfl

/-- Each of some distinct frames counts the writes of a whole frame. -/
theorem GrmMeta.foldl_wear_w {l : List Nat} (hl : l.Nodup) (m : GrmMeta) (q : Nat) :
    (l.foldl (fun c p => c.wear p 512) m).w q = if q ∈ l then satAdd (2 ^ 48 - 1) (m.w q) 512 else m.w q := by
  induction l generalizing m with
  | nil => simp
  | cons p r ih =>
    obtain ⟨hp, hr⟩ := List.nodup_cons.1 hl
    rw [List.foldl_cons, ih hr, GrmMeta.wear_w]
    by_cases h : q = p
    · subst h
      simp [hp]
    · simp [h]

/-- The physical frames of the two metadata copies (R653). -/
theorem mem_metaFrames {q : Nat} : q ∈ metaFrames ↔ 17904 ≤ q ∧ q < 17920 := by
  simp only [metaFrames, poolEnd, List.mem_map, List.mem_range]
  constructor
  · rintro ⟨i, hi, rfl⟩
    omega
  · rintro ⟨h1, h2⟩
    exact ⟨q - 17904, by omega, by omega⟩

theorem metaFrames_nodup : metaFrames.Nodup := by decide

/-- A save of the metadata counts its own writes (R655). -/
theorem Grm.save_w (g : Grm) (q : Nat) :
    g.save.cur.w q = if 17904 ≤ q ∧ q < 17920 then satAdd (2 ^ 48 - 1) (g.cur.w q) 512 else g.cur.w q := by
  simp only [← mem_metaFrames]
  exact GrmMeta.foldl_wear_w metaFrames_nodup g.cur q

/-- What LIFELOW adds leaves the groomer alone. -/
theorem raiseLifelow_if_grm (s : State) (b : Bool) : (if b then s.raiseLifelow else s).grm = s.grm := by
  cases b <;> rfl

/-- An evaluation changes the write counts as a save of the metadata does. -/
theorem State.evaluate_w (s : State) (ro em : List Monitor) (q : Nat) : (s.evaluate ro em).grm.cur.w q = s.grm.save.cur.w q := by
  unfold State.evaluate
  dsimp only
  rw [raiseLifelow_if_grm, Grm.save_w]
  exact Grm.save_w _ q

/-- An evaluation that no session asked for sends no reply. -/
theorem lifeEvaluation_run {s : State} (hw : groomerWorks s) (hr : s.gate.released = true) (hu : s.uat.evalFor = none)
    (ro em : List Monitor) : exec (.lifeEvaluation ro em) s = .next (s.evaluate ro em) := by
  have writes : s.groomerWrites = true := by
    obtain ⟨hp, hs, hc, hi⟩ := hw
    simp [State.groomerWrites, State.groomerOn, hp, hs, hc, hi]
  have uat : (s.evaluate ro em).uat = s.uat := by
    unfold State.evaluate
    dsimp only
    split <;> rfl
  show Host.Outcome.next _ = _
  rw [writes, hr, Bool.and_self, if_pos rfl, State.evalReply, uat, hu]

/-- A released die at reset values: no macro write is counted yet. -/
def unworn : State :=
  { State.reset with
      gate := { State.reset.gate with pgood := true, released := true, step := 7, relMode := .run }
      clk := { State.reset.clk with crystal := true } }

theorem unworn_works : groomerWorks unworn := by
  refine ⟨rfl, ?_, rfl, ?_⟩ <;> decide

/-- In `unworn`, the first evaluation leaves 512 writes at the first metadata frame, which had none. -/
theorem unworn_evaluate_w : unworn.grm.cur.w 17904 = 0 ∧ (unworn.evaluate [] []).grm.cur.w 17904 = 512 := by
  have before : unworn.grm.cur.w 17904 = 0 := rfl
  refine ⟨before, ?_⟩
  rw [State.evaluate_w, Grm.save_w, before]
  decide

/-- Refutes O36: it has every evaluation keep the table of write counts W_f, but an evaluation saves its results in the metadata,
and the save's own writes of the metadata frames are counted (R654, R655, R670): from `unworn`, frame 17904 goes from 0 to 512. -/
theorem not_groomerKeepsItsMapAndCounts : ¬ Obligations.GroomerKeepsItsMapAndCounts := by
  unfold Obligations.GroomerKeepsItsMapAndCounts
  rintro ⟨frames, -⟩
  obtain ⟨-, -, -, -, -, -, evaluation, -⟩ := frames .a 0 0 .a 0 .sram unworn
  obtain ⟨s', run, -, -, -, -, -, -, -, -, kept⟩ := evaluation unworn_works rfl [] []
  obtain rfl : unworn.evaluate [] [] = s' :=
    Host.Outcome.next.inj ((lifeEvaluation_run unworn_works rfl rfl [] []).symm.trans run)
  obtain ⟨before, after⟩ := unworn_evaluate_w
  have same : (unworn.evaluate [] []).grm.cur.w 17904 = unworn.grm.cur.w 17904 := congrArg (tget 0 · 17904) kept
  rw [before, after] at same
  exact absurd same (by decide)

end Sys2Proof.Machine
end

section
/-! Where the ring of a main tandem at release comes from (R131, R139, Table 3-8): PCC takes the ENTRY address as its cursor,
and PCC's word A holds the ring above the cursor's 44 bits. -/

namespace Sys2Proof.Machine
open Sys2Proof.Claims

/-- The ring that a root capability gives: what the cursor holds past its 44 bits runs into the permissions and the ring. -/
theorem Cap.root_ring (base len perms cursor : Nat) :
    (Cap.root base len perms cursor).ring = (perms + cursor / 2 ^ 44) / 2 ^ 10 % 4 := by
  have word : (Cap.root base len perms cursor).a.toNat = (perms * 2 ^ 44 + cursor) % 2 ^ 64 := by simp [Cap.root, pack, w64]
  rw [Cap.ring, fld, word]
  omega

/-- The ring in which a main tandem starts: 525 is LD, EX, LDC and SYS of its PCC (Table 3-8), and an ENTRY address below 2^44
adds nothing to it. -/
theorem State.mainStart_ring (s : State) (m : Side) :
    (s.mainStart m).ring = (525 + s.entryOf m / 2 ^ 44) / 2 ^ 10 % 4 := by
  have pcc : (s.mainStart m).lk.pcc = Cap.root (if decide (dramBase ≤ s.entryOf m) then dramBase else 0x20000000)
      (if decide (dramBase ≤ s.entryOf m) then s.dramSize else 0x400000) (pLD + pEX + pLDC + pSYS) (s.entryOf m) := by
    simp [State.mainStart, Cpu.lk, Cpu.locker, Cpu.setLocker, Cpu.reset]
  rw [Cpu.ring, pcc, Cap.root_ring]
  rfl

/-- The gatehouse at step 7, 20 ms after the origin, nothing lost, an image in use whose ENTRY record gives tandem A the
address 2^54. -/
def farEntry : State :=
  { State.reset with
      us := 20000
      cpuG := { Cpu.reset with run := .running }
      clk := { State.reset.clk with crystal := true }
      spk := { State.reset.spk with recovered := true }
      gate := { State.reset.gate with
        pgood := true, step := 7, slot := some .a, shadow := [(8, 0xFF)], recs := [⟨0, tENTRY, bytesOf 16 (2 ^ 54)⟩] } }

theorem farEntry_waits : waitsAt farEntry 7 := by unfold waitsAt; decide

theorem farEntry_outcome : farEntry.outcome.1 = 1 := by decide

theorem farEntry_entryOf : farEntry.entryOf .a = 2 ^ 54 := by decide

/-- RELEASE acts in `farEntry`: step 7 waits, and the 20 ms have passed (R137). -/
theorem farEntry_release : exec .release farEntry = .next farEntry.doRelease := rfl

/-- Nothing of the release after the start of tandem A changes its core. -/
theorem farEntry_cpuA : farEntry.doRelease.cpuA = farEntry.mainStart .a := by decide

theorem farEntry_ring : farEntry.doRelease.cpuA.ring = 1 := by
  calc farEntry.doRelease.cpuA.ring
      _ = (525 + 2 ^ 54 / 2 ^ 44) / 2 ^ 10 % 4 := by rw [farEntry_cpuA, State.mainStart_ring, farEntry_entryOf]
      _ = 1 := by decide

/-- Refutes O38: its bound `s.entryOf m < 2 ^ 44` covers where a main tandem starts and not the ring it starts in. In `farEntry`
the ENTRY address of tandem A runs past PCC's cursor into the ring, and the release into RUN leaves tandem A in ring 1. The
record is one that step 4 refuses (R131); the statement takes the records as any state holds them. -/
theorem not_gatehouseRunsItsSteps : ¬ Obligations.GatehouseRunsItsSteps := by
  unfold Obligations.GatehouseRunsItsSteps
  intro h
  obtain ⟨-, -, -, -, -, -, -, -, -, release, -⟩ := h farEntry
  obtain ⟨s', run, -, -, -, -, -, -, -, -, -, -, entersRun⟩ := release farEntry_waits (by decide)
  obtain ⟨-, -, -, -, -, -, ringA, -⟩ := entersRun farEntry_outcome rfl rfl rfl rfl
  obtain rfl : farEntry.doRelease = s' := Host.Outcome.next.inj (farEntry_release.symm.trans run)
  exact absurd (farEntry_ring.symm.trans ringA) (by decide)

end Sys2Proof.Machine
end
